-- ==== Sys2Proof/Word.lean ====
section
/-! DEFINITION. The number types of the Parlune 2330 and their plainest arithmetic.
Bit vectors stand for what the manual treats as words (line times, addresses, sequence numbers, bytes); everything that is only
a number of things is a `Nat`, and an index is a `Fin`. -/

namespace Sys2Proof

/-- One byte of a frame, an image or a report. -/
abbrev Byte := BitVec 8

/-- R1: a line time, a 32-bit count of microseconds that wraps. -/
abbrev LineTime := BitVec 32

/-- A 48-bit station or device address, its first byte the most significant. -/
abbrev Addr := BitVec 48

/-- A 16-bit house code. -/
abbrev House := BitVec 16

/-- A segment sequence number, counted modulo 4096 (Introduction, Conventions). -/
abbrev Seq := BitVec 12

/-- A coupling pair: 0 is L-N, 1 is L-PE, 2 is N-PE. -/
abbrev Pair := Fin 3

/-- A mains slot within the half-cycle. -/
abbrev MainsSlot := Fin 6

/-- An index of the station table. -/
abbrev EntryIx := Fin 24

/-- A grid slot of the pool. -/
abbrev SlotIx := Fin 48

/-- A transmit queue: `0` is Q1 and `5` is Q6. -/
abbrev QueueIx := Fin 6

/-- An index of the address map. -/
abbrev MapIx := Fin 128

/-- R19, R210: a loading level by its 3-bit code. The codes 0..7 stand for 0, 1, 2, 3, 4, 6, 8 and 10 coded bits, so a
column holds no level outside the level set, and the smaller of two codes names the smaller of two levels. -/
abbrev Level := Fin 8

/-- The coded bits of a loading level. -/
def Level.bits (l : Level) : Nat :=
  match l.val with
  | 0 => 0
  | 1 => 1
  | 2 => 2
  | 3 => 3
  | 4 => 4
  | 5 => 6
  | 6 => 8
  | _ => 10

/-- R1: the distance from the line time `a` to the later line time `b`. -/
def LineTime.dist (a b : LineTime) : Nat := (b - a).toNat

/-- R1: the deadline `a + n`. -/
def LineTime.plus (a : LineTime) (n : Nat) : LineTime := a + BitVec.ofNat 32 n

/-- Conventions: comparisons of line times are made on their difference; `offset x t` is how far `t` lies after `x`
(negative when it lies before). -/
def LineTime.offset (x t : LineTime) : Int := (t - x).toInt

/-- Conventions: `a` is ahead of `b` when (a − b) mod 4096 lies in 1..2047. -/
def Seq.ahead (a b : Seq) : Bool := decide (1 ≤ (a - b).toNat ∧ (a - b).toNat ≤ 2047)

/-- The all-ones (broadcast) address. -/
def Addr.broadcast : Addr := BitVec.allOnes 48

/-- R186: the group bit of an address is bit 0 of its first byte. -/
def Addr.isGroup (a : Addr) : Bool := a.getLsbD 40

/-- The integer division that rounds up. -/
def ceilDiv (a b : Nat) : Nat := (a + b - 1) / b

end Sys2Proof
end

