-- ==== Sys2Proof/Syntax.lean ====
section
/-! DEFINITION. The commands of the part: one constructor per row of spec/opcode_table.json.
The part has no instructions; it takes events: edges on its pins, what the line and the host bring, and its own deadlines. An
event that brings data from outside carries that data as its operands. -/

namespace Sys2Proof

/-- R20, R23: what the demodulator delivers for a run of symbols: the soft values of each symbol's 768 carriers, as many to a carrier as it
carries coded bits, each sign standing for a bit; or, since the manual does not give the error code, the bytes that its decoder makes of
them (assumption log 38). -/
inductive Demodulated where
  | soft (symbols : List (List (List Int)))
  | decoded (bytes : List Byte)
deriving DecidableEq, Repr

/-- R20, R23: what the demodulator delivers of a preamble: how many microseconds after the frame start that the receiver recovers from it it
is detected, and the energies of the 768 carriers through it, on each of the three pairs. -/
structure Preamble where
  delay : Nat
  energies : List (List Nat)
deriving DecidableEq, Repr

/-- The events of the part (spec/95_what_each_step_holds.md), each whole and indivisible. Each happens at the present line
time; assumption log 1 says what a command means whose event is not occurring. -/
inductive Instr where
  /-- R2: an edge of the ZC input. -/
  | zcCrossing
  /-- R5: 11,001 µs since the reference in SEEKING. -/
  | referenceDrop
  /-- R8, R9: the line time reaches X + 400. -/
  | windowExpiry
  /-- R10: the line time reaches X in FREE-RUN. -/
  | freeRunSynthetic
  /-- R23, R20: a preamble is detected on `pair`. -/
  | frameStart (pair : Pair) (preamble : Preamble)
  /-- R26: the header event; `copies` are the header as demodulated on each pair that detected the preamble. -/
  | headerEvent (copies : List (Pair × Demodulated))
  /-- R27: the end of a reception, with the payload as demodulated (DATA, GRID, RESP, NOTE) or the SNR readings of each payload symbol and
  carrier (SOUND), in qdB. -/
  | frameEnd (payload : Demodulated) (readings : List (List Int))
  /-- R42: the end of a priority signal slot. -/
  | signalSlotEnd
  /-- R43: a signal tone is heard. -/
  | toneHeard
  /-- R44: the end of a contention slot; `preamble` says that the detection of a frame start falls exactly at this slot's end
  and is taken after it. -/
  | contentionSlotEnd (preamble : Bool)
  /-- R72: the payload start of the station's own SOUND. -/
  | soundPayloadStart
  /-- R47: the end of a frame this station sent by contention. -/
  | sentFrameEnd
  /-- R40: the deadline of a quiet gap or a response gap. -/
  | gapDeadline
  /-- R43: the end of a tone watch. -/
  | toneWatchEnd
  /-- R48: E + 120 with no frame start. -/
  | responseDeadline
  /-- R51: E + 60, the start of the station's RESP. -/
  | respStart
  /-- R52: the end of the station's own RESP. -/
  | respFrameEnd
  /-- R54: a duty-period boundary, with the level of DRVHOT sampled at it. -/
  | dutyBoundary (drvhot : Bool)
  /-- R69: the sound deadline. -/
  | soundDeadline
  /-- R69: last sound + 20,000 µs with wants remaining. -/
  | sound20msPoint
  /-- R71: the own slot changed so that the placed SOUND entry is eligible. -/
  | soundSlotEligible
  /-- R92: the completion of the build running for an entry. -/
  | buildCompletion (e : EntryIx)
  /-- R79: the rebuild deadline of an entry. -/
  | rebuildDeadline (e : EntryIx)
  /-- R131: the aging deadline of an entry. -/
  | entryAgingDeadline (e : EntryIx)
  /-- R134: the expiry of the direct hold of an entry. -/
  | holdExpiry (e : EntryIx)
  /-- R139: the note deadline. -/
  | noteDeadline
  /-- R156: the expiry of the host frame with this identity (assumption log 23). -/
  | frameExpiry (id : Nat)
  /-- R181: the aging of an address map entry. -/
  | mapAging (i : MapIx)
  /-- R186: the last byte of a frame from the host; the bytes run from the destination address through the FCS. -/
  | hostFrameReceived (frame : List Byte)
  /-- R187: the end of the host hold. -/
  | hostHoldEnd
  /-- R189: the pause refresh deadline. -/
  | pauseRefresh
  /-- R188: the last byte of a frame to the host is sent; `strap` is the level of the mode strap, read only when this ends in a
  RESTART reset (R209). -/
  | hostTxDone (strap : Bool)
  /-- R192: the service of a STATUS request. -/
  | status
  /-- R192, R202: the service of a STATUS request that names flags to clear. -/
  | attentionClear
  /-- R193: the service of a COUNTERS request. -/
  | counters
  /-- R193: the service of a COUNTERS request with the clear choice yes. -/
  | countersClear
  /-- R194: the service of a STATION TABLE request. -/
  | stationTable
  /-- R197: the service of a WINDOW READ request. -/
  | windowRead
  /-- R194: the service of an ADDRESS MAP request. -/
  | addressMap
  /-- R195: the service of a CONFIG READ request. -/
  | configRead
  /-- R196: the service of a RESTART request. -/
  | restart
  /-- R190: the service of a request that is not well formed. -/
  | unknownRequest
  /-- R207: power-on. -/
  | powerReset
  /-- R207: assertion of the RESET input. -/
  | pinReset
  /-- R207: the end of a POWER or PIN reset, with the level of the mode strap sampled at it. -/
  | resetEnd (strap : Bool)
  /-- R206: the last byte of the image has been read; `memory` is bytes 0..99 of the serial memory. -/
  | loadCompletion (memory : List Byte)
  /-- R206: the listening deadline. -/
  | listeningDeadline
  /-- R36: a payload symbol start of a reception. -/
  | payloadSymbolStart
deriving DecidableEq, Repr

end Sys2Proof
end

