-- ==== Sys2Proof/Decode.lean ====
section
/-! DEFINITION. The decoder over the rows of spec/opcode_table.json that give bits. No row gives any ("fields" is empty and there
is no "fixed" in all 48 rows): the commands are events, not words, so no word spells a command. -/

namespace Sys2Proof

/-- The command that the low `nbits` bits of a word spell by the table's bits: none, since no row of the table gives bits. -/
def decodeTableWord (_nbits _w : Nat) : Option Instr := none

end Sys2Proof
end

