-- ==== Sys2Proof/Config.lean ====
section
/-! DEFINITION. The fixed figures of the part, and its free values: what the manual leaves open.
A free value is an `opaque` constant: no proof can see what it is. -/

namespace Sys2Proof.Config

/-- R3, R4: the accepted half-cycles, in microseconds. -/
def halfCycleMin : Nat := 7500
/-- R3, R4: the longest accepted half-cycle. -/
def halfCycleMax : Nat := 11000
/-- R4, R6: the width of the agreement window on either side. -/
def crossingWindow : Nat := 400
/-- R12: the half-cycle assumed in SEEKING while none is held. -/
def halfCycleDefault : Nat := 10000

/-- R19: the number of carriers. -/
def carriers : Nat := 768
/-- R20: the coded bits of a robust symbol. -/
def robustBits : Nat := 384
/-- R20: the groups of four carriers of the robust map. -/
def robustGroups : Nat := 192
/-- R19, R20: the information bytes of a robust symbol. -/
def robustBytes : Nat := 24
/-- R19: the two code rates of the forward error code: everything in the robust map, and grid-loaded DATA payload. -/
inductive CodeRate where
  | half
  | threeQuarters
deriving DecidableEq, Repr

/-- R30: the most payload symbols of a frame. -/
def maxSymbols : Nat := 96
/-- R28: the most segments of a DATA frame. -/
def maxSegments : Nat := 8
/-- R29: the payload bytes of a full segment. -/
def pieceBytes : Nat := 480
/-- R135: the robust rate in kbit/s. -/
def robustRate : Nat := 6000
/-- R34: the largest rate in kbit/s. -/
def maxRate : Nat := 180000

/-- R144: the two parts of the frame buffer, in bytes. -/
def transmitLimit : Nat := 180224
/-- R144: the receive part of the frame buffer. -/
def receiveLimit : Nat := 16384
/-- R189: above this transmit charge the pause state turns ON. -/
def pauseOnAbove : Nat := 163840
/-- R189: below this transmit charge the pause state turns OFF. -/
def pauseOffBelow : Nat := 131072

/-- R54: a duty period. -/
def dutyPeriod : Nat := 10000
/-- R43: the span of a tone watch: two signal slots and 256 contention slots. -/
def toneWatch : Nat := 10320
/-- R63: a cell without a sample for longer than this is aged. -/
def cellLife : Nat := 30000000
/-- R77: the span of a build. -/
def buildSpan : Nat := 1000
/-- R204: the fallback station address 02-00-00-00-00-01. -/
def fallbackAddr : Addr := 0x020000000001#48
/-- R189: the destination of pause frames, 01-80-C2-00-00-01. -/
def pauseAddr : Addr := 0x0180C2000001#48

/-! ### Free values -/

/-- R44: the backoff draws. The n-th draw is this value taken modulo the window: "uniformly from 0..W−1", each draw
independent of the earlier ones, so nothing is known of it but that it lies below the window (assumption log 8). -/
opaque backoffDraw : Nat → Nat

/-- The order in which events due at one instant are taken: the manual says of such pairs that either may be taken first
(assumption log 3). -/
opaque eventOrder : Nat → Nat

/-- R54: the level of the DRVHOT input at a duty-period boundary that the line time raises (assumption log 11). -/
opaque drvhotLevel : Nat → Bool

/-- The bytes of a report field whose value the manual does not state because the thing it describes is absent
(assumption log 18): `absentField service field`. -/
opaque absentField : Nat → Nat → Nat

/-- R19: the coded bits that the forward error code gives for a run of bytes, by index: the manual gives the rates of the code and not
the code (assumption log 38): `codedBit rate bytes index`. -/
opaque codedBit : CodeRate → List Byte → Nat → Bool

/-- R19, R20: the bytes that the decoder of the forward error code makes of the soft values of coded bits, `none` standing for an erased
one (assumption log 38). -/
opaque decoded : CodeRate → List (Option Int) → List Byte

/-- R20: the silence threshold of the demodulator, which the manual names and gives no figure for (assumption log 38). -/
opaque silenceThreshold : Nat

end Sys2Proof.Config
end

