-- ==== Sys2Proof/Machine/State.lean ====
section
/-! DEFINITION. The state of the part: one structure per block, as the Introduction's block overview lists them, plain data
throughout. Each field's docstring names the rule that gives it; INVENTORY.md lists them all with their reset values. -/

namespace Sys2Proof.Machine

/-! ### Outcomes -/

/-- The reasons a step can stop with a fault: none. The manual gives the part no event that stops it: every event it
describes leaves the part running (safe: nothing is proved of runs that stop). -/
inductive Fault : Type
deriving DecidableEq, Repr

/-- The reasons a step can be refused. -/
inductive Refusal where
  /-- Raised by `exec` for a command of the table that has no meaning yet (safe); no arm raises it now. -/
  | notModelled (mnemonic : String)
deriving DecidableEq, Repr

/-! ### Mains tracker -/

/-- R2: the tracker states. -/
inductive TrackerState where
  | seeking
  | locked
  | holdover
  | freeRun
deriving DecidableEq, Repr

/-- R2: whether the last crossing was a ZC edge or placed by the tracker. -/
inductive CrossingKind where
  | real
  | synthetic
deriving DecidableEq, Repr

/-- R2: the tracker record. -/
structure Tracker where
  state : TrackerState
  /-- the half-cycle estimate H, or none -/
  h : Option Nat
  /-- the last crossing; in SEEKING the reference -/
  lastCrossing : Option LineTime
  lastKind : CrossingKind
  /-- the most recent ZC edge of any kind -/
  lastEdge : Option LineTime
  lockCount : Nat
  missCount : Nat
  disturbedCount : Nat
deriving DecidableEq, Repr

/-- R15: the slot-offset fields of an entry. `candidate` means something while the confirm count is 1 or more. -/
structure SlotOffset where
  held : Option MainsSlot
  candidate : MainsSlot
  confirm : Nat
deriving DecidableEq, Repr

/-! ### Grids -/

/-- R101: 768 loading levels, in carrier order. -/
abbrev Column := List Level

/-- R101: a grid record. There is one place per column; an empty place is a column that has not arrived (TX-ASSEMBLING), so
k is the number of places and the assembly parts are the filled ones. -/
structure Grid where
  tag : Byte
  pair : Pair
  map : Vector (Fin 4) 6
  columns : List (Option Column)
  rate : Nat
  issueTime : LineTime
deriving DecidableEq, Repr

/-- R100: the roles of a grid slot. -/
inductive Role where
  | rxCurrent
  | rxPending
  | txActive
  | txAssembling
deriving DecidableEq, Repr

/-- R100: what a held grid slot records. -/
structure HeldGrid where
  entry : EntryIx
  role : Role
  grid : Grid
deriving DecidableEq, Repr

/-- R105, R107: where a part of an issue stands. -/
inductive PartPlace where
  | unplaced
  | onList
  | accepted
deriving DecidableEq, Repr

/-- R105: the record of one part of the RX-PENDING grid. -/
structure PartRecord where
  index : Fin 4
  place : PartPlace
  inFlight : Bool
  attempts : Nat
deriving DecidableEq, Repr

/-- R102: the issue state. -/
inductive IssueState where
  | noIssue
  | sending
  | delivered
deriving DecidableEq, Repr

/-- R102: the grid store's entry record. The role slots are read from the pool, which holds them. -/
structure GridRecord where
  nextTag : Byte
  issue : IssueState
  parts : List PartRecord
deriving DecidableEq, Repr

/-! ### Channel estimator -/

/-- R59: one cell of an SNR set. With count 0 it holds no value and the other fields are the empty cell's. -/
structure Cell where
  count : Nat
  last : LineTime
  avgs : List Int
deriving DecidableEq, Repr

/-- R59: the cell that holds no value. -/
def Cell.empty : Cell := { count := 0, last := 0#32, avgs := [] }

/-- R59: the 18 cells of an entry, by pair and own slot. -/
abbrev SnrSet := Vector (Vector Cell 6) 3

/-- R68: the placed SOUND entry: its pair, and whether rotation chose it. -/
structure PlacedSound where
  pair : Pair
  byRotation : Bool
deriving DecidableEq, Repr

/-- R67, R68, R72: the want counts and the sound schedule. -/
structure Estimator where
  wants : Vector (Vector Nat 6) 3
  lastSound : Option LineTime
  deadline : Option LineTime
  placed : Option PlacedSound
  rotation : Pair
  /-- R72: the own slot noted at the payload start of the SOUND now being sent -/
  notedSlot : Option MainsSlot
deriving DecidableEq, Repr

/-! ### Bands and configuration -/

/-- R35, R205: one band: its first carrier, its width and its cap. -/
structure Band where
  first : Nat
  width : Nat
  cap : Nat
deriving DecidableEq, Repr

/-- R166: the three values of a transmit queue. -/
structure QueueSettings where
  depth : Nat
  lifetimeMs : Nat
  priority : Fin 4
deriving DecidableEq, Repr

/-- R204: where the station address came from. -/
inductive AddrSource where
  | image
  | factory
  | fallback
deriving DecidableEq, Repr

/-- R205: the configuration values, and the three facts of R204 about the start. -/
structure Settings where
  relay : Bool
  pauseEnable : Bool
  pairs : Vector Bool 3
  station : Addr
  house : House
  margin : Nat
  bands : List Band
  vlan : Vector QueueIx 8
  defaultQueue : QueueIx
  queues : Vector QueueSettings 6
  /-- R210: the tier order code: 0 H,M,L; 1 H,L,M; 2 M,H,L; 3 M,L,H; 4 L,H,M; 5 L,M,H -/
  tierOrder : Fin 6
  /-- for tiers H, M, L: whether the higher queue of the tier leads -/
  leads : Vector Bool 3
  noteMs : Nat
  soundMs : Nat
  rebuildS : Nat
  dutyPercent : Nat
  holdPeriods : Nat
  deferralLimit : Nat
  segmentRetry : Nat
  partRetry : Nat
  imageValid : Bool
  addrSource : AddrSource
  clamped : Nat
deriving DecidableEq, Repr

/-- R205: the values taken when the image is invalid, here with the fallback address. -/
def Settings.default : Settings where
  relay := true
  pauseEnable := true
  pairs := Vector.replicate 3 true
  station := Config.fallbackAddr
  house := 0#16
  margin := 24
  bands := []
  vlan := #v[2, 5, 4, 3, 2, 1, 1, 0]
  defaultQueue := 2
  queues := #v[⟨32, 200, 3⟩, ⟨32, 200, 3⟩, ⟨32, 200, 2⟩, ⟨32, 200, 2⟩, ⟨32, 200, 1⟩, ⟨32, 200, 0⟩]
  tierOrder := 0
  leads := Vector.replicate 3 false
  noteMs := 1000
  soundMs := 200
  rebuildS := 4
  dutyPercent := 50
  holdPeriods := 50
  deferralLimit := 4
  segmentRetry := 8
  partRetry := 6
  imageValid := false
  addrSource := .fallback
  clamped := 0

/-! ### Grid builder -/

/-- R76: a set of trigger causes. -/
structure Causes where
  eligibility : Bool
  interval : Bool
  error : Bool
  unknownGrid : Bool
  capConflict : Bool
  abandonment : Bool
deriving DecidableEq, Repr

/-- R83: the snapshot a build works on. -/
structure Snapshot where
  cells : SnrSet
  margin : Nat
  boost : Nat
  localBands : List Band
  peerBands : Option (List Band)
  pairs : Vector Bool 3
deriving DecidableEq, Repr

/-- R76: the build state. -/
inductive BuildState where
  | idle
  | building (start : LineTime) (causes : Causes) (snapshot : Snapshot)
deriving DecidableEq, Repr

/-- R76, R92: the last outcome, with pair, column count and rate where a grid was formed. -/
inductive LastOutcome where
  | noOutcome
  | issued (pair : Pair) (k : Nat) (rate : Nat)
  | heldBack (pair : Pair) (k : Nat) (rate : Nat)
  | noGrid
deriving DecidableEq, Repr

/-- R76: the build record of an entry. -/
structure BuildRecord where
  state : BuildState
  remembered : Option Causes
  boost : Nat
  deadline : Option LineTime
  retrySpent : Bool
  last : LastOutcome
deriving DecidableEq, Repr

/-! ### Segment engine -/

/-- R147: a host frame held for sending, with its carriage record. `eth` is the Ethernet frame (its length is the record's
Ethernet length L); `id` is the model's own name for the frame (assumption log 23). Its pieces and its charge are functions of
`eth`. -/
structure HostFrame where
  id : Nat
  origin : Addr
  final : Addr
  hop : Nat
  queue : QueueIx
  eth : List Byte
  expiry : LineTime
deriving DecidableEq, Repr

/-- R147: a NUMBERED host frame with the sequence of its first piece. Its remaining count is the number of its segments on
the unacked list. -/
structure NumberedFrame where
  frame : HostFrame
  first : Seq
deriving DecidableEq, Repr

/-- R148: a segment on an unacked list: its sequence, its host frame and piece, its payload length, its attempts and its
mark. -/
structure UnackedSegment where
  seq : Seq
  frameId : Nat
  piece : Nat
  len : Nat
  attempts : Nat
  marked : Bool
deriving DecidableEq, Repr

/-- R148: the transmit state of a neighbour, with the host frames NUMBERED to it. -/
structure TxState where
  next : Seq
  unacked : List UnackedSegment
  numbered : List NumberedFrame
deriving DecidableEq, Repr

/-- R158: a segment in a reorder list. Its charge is a function of its payload. -/
structure StoredSegment where
  seq : Seq
  first : Bool
  last : Bool
  payload : List Byte
deriving DecidableEq, Repr

/-- R158: the pieces of a host frame joined so far, and the receive charges of their segments. -/
structure JoinedPieces where
  bytes : List Byte
  charge : Nat
deriving DecidableEq, Repr

/-- R158: the receive state of a neighbour. -/
structure RxState where
  expected : Option Seq
  reorder : List StoredSegment
  /-- ASSEMBLING (true) or HUNTING (false) -/
  assembling : Bool
  joined : Option JoinedPieces
  /-- the verdicts by CRC of the last segments, oldest first; true is good -/
  window : List Bool
deriving DecidableEq, Repr

/-- R151: the in-flight record: the neighbour, the sequences in frame order, and the grid tag of the header. -/
structure InFlight where
  entry : EntryIx
  seqs : List Seq
  tag : Byte
deriving DecidableEq, Repr

/-! ### Station table -/

/-- R125: the states of an entry. -/
inductive EntryState where
  | remote
  | heard
  | linked
  | stale
deriving DecidableEq, Repr

/-- R125: the route of an entry. -/
inductive Route where
  | direct
  | via (i : EntryIx)
  | noRoute
deriving DecidableEq, Repr

/-- R125: an item of a reach list. -/
structure ReachItem where
  addr : Addr
  rate : Nat
deriving DecidableEq, Repr

/-- R125: a station table entry, with what the other blocks keep for it (R128). -/
structure Entry where
  addr : Addr
  state : EntryState
  lastHeard : Option LineTime
  offset : SlotOffset
  peerTrusted : Bool
  peerBands : Option (List Band)
  relay : Bool
  reach : Option (List ReachItem)
  /-- the expiry of the direct hold while it is set -/
  hold : Option LineTime
  streak : Nat
  route : Route
  /-- the tx rate field, the direct rate r_d -/
  txRate : Nat
  /-- last in reach list -/
  lastNamed : Option LineTime
  snr : SnrSet
  build : BuildRecord
  store : GridRecord
  tx : TxState
  rx : RxState
deriving DecidableEq, Repr

/-- R139: the note schedule. -/
structure NoteSchedule where
  deadline : Option LineTime
  placed : Bool
deriving DecidableEq, Repr

/-! ### Queue and bridge unit -/

/-- R177: an entry of the control list. -/
inductive ControlEntry where
  | note
  | sound (pair : Pair)
  | gridPart (e : EntryIx) (tag : Byte) (part : Fin 4)
deriving DecidableEq, Repr

/-- R180: the target of an address map entry. -/
inductive MapTarget where
  | localHost
  | station (a : Addr)
deriving DecidableEq, Repr

/-- R180: an address map entry. -/
structure MapEntry where
  device : Addr
  target : MapTarget
  learned : LineTime
deriving DecidableEq, Repr

/-- R41: what a contention period contends for. -/
inductive CandidateKind where
  | control (c : ControlEntry)
  | queueHead (q : QueueIx) (hop : EntryIx)
  | resends (e : EntryIx)
deriving DecidableEq, Repr

/-- R41: a candidate with its access priority. -/
structure Candidate where
  kind : CandidateKind
  priority : Fin 4
deriving DecidableEq, Repr

/-! ### Line interface -/

/-- R21: the frame kinds. -/
inductive FrameKind where
  | data
  | grid
  | resp
  | sound
  | note
deriving DecidableEq, Repr

/-- R24: the header fields, the check apart. -/
structure Header where
  kind : FrameKind
  house : House
  tx : Addr
  rx : Addr
  pair : Pair
  priority : Fin 4
  trusted : Bool
  floor : Bool
  phase : BitVec 10
  tag : Byte
  symbols : Nat
  segments : Nat
  floorSeq : Seq
deriving DecidableEq, Repr

/-- R110: a grid latched for a reception: the slot it came from and a copy of the grid. -/
structure Latched where
  slot : SlotIx
  grid : Grid
deriving DecidableEq, Repr

/-- R110: the resolution of a DATA header's grid tag. -/
inductive Resolution where
  | robust
  | latched (l : Latched)
  | unresolved
deriving DecidableEq, Repr

/-- R26: the cases of the receive address filter. -/
inductive FilterCase where
  | foreign
  | clash
  | processed
  | overheard
deriving DecidableEq, Repr

/-- R23, R25, R26: the header of a reception: not yet due, failed, or used. -/
inductive HeaderState where
  | awaited
  | failed
  | used (h : Header) (f : FilterCase) (r : Resolution)
deriving DecidableEq, Repr

/-- R14, R23, R36: a reception in progress. -/
structure Reception where
  /-- the frame start of the transmitted frame, recovered from the preamble -/
  frameStart : LineTime
  /-- the pair on which the preamble was detected first -/
  firstPair : Pair
  /-- the receive stamp: f and the trusted condition at the frame-start event -/
  stampPhase : Nat
  stampTrusted : Bool
  header : HeaderState
  /-- R20: the energy of each carrier through the preamble, for each pair; they erase carriers for the whole frame and weight the others -/
  energies : List (List Nat)
  /-- the own slots noted at the payload symbol starts so far -/
  slots : List MainsSlot
  /-- the columns taken for those symbols of a grid-loaded frame -/
  columns : List (Fin 4)
deriving DecidableEq, Repr

/-- R118: the loading of a frame this station sends. -/
inductive Loading where
  | robust
  | floor (g : Grid)
  | perSlot (g : Grid) (columns : List (Fin 4))
  | sounding
deriving DecidableEq, Repr

/-- R22: a frame being sent. -/
structure TxFrame where
  header : Header
  payload : List Byte
  loading : Loading
  start : LineTime
  stop : LineTime
  /-- the control entry it carries, for a frame formed from one -/
  control : Option ControlEntry
deriving DecidableEq, Repr

/-- R22, R23: the line interface. -/
structure LineInterface where
  sending : Option TxFrame
  reception : Option Reception
deriving DecidableEq, Repr

/-! ### Medium access -/

/-- R37: the MAC states. -/
inductive MacState where
  | idle
  | signal
  | backoff
  | sending
  | awaitingResponse
  | receiving
  | responding
  | deferring
deriving DecidableEq, Repr

/-- R37: the gap of a deferring station. -/
inductive Gap where
  | quiet (deadline : LineTime)
  | response (deadline : LineTime)
  | toneWatch (stop : LineTime)
deriving DecidableEq, Repr

/-- R37: the response wait. -/
structure ResponseWait where
  kind : FrameKind
  receiver : Addr
  segments : Nat
  frameEnd : LineTime
  /-- the control entry of an awaited GRID part -/
  control : Option ControlEntry
deriving DecidableEq, Repr

/-- R31: the status of a RESP. -/
inductive RespStatus where
  | accepted
  | gridUnknown
  | noRoom
  | capConflict
deriving DecidableEq, Repr

/-- R31: a RESP body. -/
structure RespBody where
  status : RespStatus
  entries : List Bool
  bands : Option (List Band)
deriving DecidableEq, Repr

/-- R37, R51: the responder duty. -/
structure ResponderDuty where
  transmitter : Addr
  pair : Pair
  frameEnd : LineTime
  resp : Option RespBody
deriving DecidableEq, Repr

/-- R37: the MAC record. -/
structure Mac where
  state : MacState
  backoff : Option Nat
  stage : Nat
  deferral : Nat
  candidate : Option Candidate
  periodStart : LineTime
  gap : Option Gap
  wait : Option ResponseWait
  duty : Option ResponderDuty
  thermalWait : Bool
  /-- R42, R44: a tone has been heard in the present signal or contention slot -/
  toneHeard : Bool
deriving DecidableEq, Repr

/-- R54: the thermal guard. -/
structure Thermal where
  limited : Bool
  holdCount : Nat
  used : Nat
  nextBoundary : LineTime
deriving DecidableEq, Repr

/-! ### Station port -/

/-- R209: the mode of the station port. -/
inductive PortMode where
  | rmii
  | rgmii
deriving DecidableEq, Repr

/-- R199: a walk order. -/
structure WalkOrder where
  slotMajor : Bool
  carrierReverse : Bool
  slotReverse : Bool
deriving DecidableEq, Repr

/-- R197: the source of a window read. -/
inductive WindowSource where
  | grid (role : Role)
  | snr (pair : Pair)
deriving DecidableEq, Repr

/-- R197, R198: the arguments of a WINDOW READ. -/
structure WindowRequest where
  source : WindowSource
  index : Nat
  extentMode : Bool
  order : WalkOrder
  carrierStart : Nat
  carrierStop : Nat
  slotStart : Nat
  slotStop : Nat
  resume : Nat
deriving DecidableEq, Repr

/-- R190, R210: what a request asks. -/
inductive RequestBody where
  | status (clear : BitVec 8)
  | counters (clear : Bool)
  | stationTable (first last : Nat)
  | windowRead (w : WindowRequest)
  | addressMap (first last : Nat)
  | configRead
  | restart
  | malformed
deriving DecidableEq, Repr

/-- R190: a request on the request list. -/
structure Request where
  source : Addr
  tag : BitVec 16
  kind : Byte
  body : RequestBody
deriving DecidableEq, Repr

/-- R191: the status of a response. -/
inductive ResponseStatus where
  | ok
  | unknown
  | noEntry
  | noGrid
deriving DecidableEq, Repr

/-- R191: a management response. -/
structure Response where
  dest : Addr
  tag : BitVec 16
  kind : Byte
  status : ResponseStatus
  content : List Byte
  /-- R196: sending its last byte performs a RESTART reset -/
  restarts : Bool
deriving DecidableEq, Repr

/-- R188: what the transmitter toward the host is sending. -/
inductive HostSending where
  | pause (quanta : BitVec 16)
  | response
  | delivered
deriving DecidableEq, Repr

/-- R146, R188: a host frame on the delivery list with its receive charge. -/
structure Delivered where
  eth : List Byte
  charge : Nat
deriving DecidableEq, Repr

/-- R187, R188, R189, R190, R209: the station port. -/
structure Port where
  mode : PortMode
  /-- the host hold end while a hold is active -/
  hold : Option LineTime
  delivery : List Delivered
  response : Option Response
  pausePending : Option (BitVec 16)
  sending : Option HostSending
  pauseOn : Bool
  refresh : Option LineTime
  requests : List Request
deriving DecidableEq, Repr

/-- R202: the six attention flags. -/
structure Attention where
  configDefault : Bool
  trackerUntrusted : Bool
  poolExhausted : Bool
  thermalLimited : Bool
  tableFull : Bool
  relayDrop : Bool
deriving DecidableEq, Repr

/-- R207: the kinds of reset. -/
inductive ResetKind where
  | power
  | pin
  | restart
deriving DecidableEq, Repr

/-- R208: the restart record. -/
structure RestartRecord where
  cause : ResetKind
  restarts : Nat
  counterClears : Nat
deriving DecidableEq, Repr

/-- R206: the start-up states. -/
inductive StartUp where
  | loading
  | listening
  | running
deriving DecidableEq, Repr

/-! ### Counters -/

/-- R58: the kinds of frame sent by contention. -/
inductive SentKind where
  | data
  | grid
  | sound
  | note
deriving DecidableEq, Repr

/-- R201: the counters of the part, in counter index order. -/
inductive Counter where
  | zcGlitches | misalignedOffsets | headerCheckFailures | malformedHeaders | foreignFrames | addressClashes
  | dataReceived (p : Fin 4)
  | failedResponses | strayResponses | badControlPayloads
  | framesSent (k : SentKind)
  | respSent | noResponse | deferrals | stageRaises | withdrawals | transmitAbandoned | thermalLimit | thermalDeferral
  | thermalShortening
  | soundSampled | untrustedSound | cellsAged | eligibilityTriggers | soundRequests | placedSoundRefusal
  | buildsStarted | buildsForced | gridsIssued | gridsHeldBack | noGrid | buildsDiscarded | rememberedTriggers
  | ignoredTriggers | abandonmentSuppressed | boostRaises
  | droppedIssues | partRetries | unexpectedStatus | issuesAbandoned | capConflictsReceived | gridUnknownSent
  | gridsPromoted | promotionsByData | capConflictsSent | assemblyRefused | commits | gridUnknownReceived | floorFrames
  | loadingFallbacks
  | entriesCreated | remoteCreated | replacements | heardNotEntered | remoteNotCreated | entriesStale | entriesRemoved
  | directHolds | routeChanges | noteRefusals | reachOverflow | notesReceived | duplicateItems
  | segmentsSent | segmentsResent | framesDelivered | ignoredEntries | retryDrops | queueExpiry | numberedExpiry
  | floorSkips | resyncs | duplicates | reserveFull | beyondWindow | damagedSegments | huntingDiscards | outOfStep
  | framesReassembled | errorTriggers
  | tailDrops (q : QueueIx)
  | bufferDrops (q : QueueIx)
  | localDiscards | replications | copiesQueued | copiesDropped | noDestination | unreachableDrops | addressMoves
  | mapReplacements | mapAged | carriageErrors | loopDrops | framesToHost | relayedCarriages | relayDrops
  | hostFramesReceived | hostSizeErrors | hostFcsErrors | ownAddressDrops | pauseReceived | macControlDrops
  | framesSentToHost | pauseSent | responsesSent | requestsReceived | requestOverflow | unknownRequests
deriving DecidableEq, Repr

/-- The number of counters. -/
def counterCount : Nat := 124

/-- R201: the counters hold one 32-bit count for each counter index. -/
abbrev Counters := Vector (BitVec 32) 124

/-! ### The state -/

/-- The state of the part. -/
structure State where
  /-- R1 -/
  lineTime : LineTime
  /-- R207: the POWER or PIN reset now holding the part, if one does -/
  held : Option ResetKind
  /-- R206 -/
  startUp : StartUp
  /-- R206: the listening deadline -/
  listening : Option LineTime
  tracker : Tracker
  line : LineInterface
  mac : Mac
  thermal : Thermal
  estimator : Estimator
  /-- R125 -/
  table : Vector (Option Entry) 24
  note : NoteSchedule
  /-- R100: the pool; an empty place is a FREE slot -/
  pool : Vector (Option HeldGrid) 48
  inFlight : Option InFlight
  /-- R166: the transmit queues, head first -/
  queues : Vector (List HostFrame) 6
  /-- R177: the control list, first taken first -/
  control : List ControlEntry
  /-- R176: the holds-candidate indicator -/
  holdsCandidate : Bool
  /-- R180 -/
  addressMap : Vector (Option MapEntry) 128
  port : Port
  counters : Counters
  attention : Attention
  restart : RestartRecord
  settings : Settings
  /-- the commands waiting, first in first out -/
  pending : List Instr
  /-- the model's own: the events raised at the present instant (assumption log 2) -/
  raised : List Instr
  /-- the model's own: how many free values have been drawn -/
  draws : Nat
  /-- the model's own: the identity of the next host frame (assumption log 23) -/
  nextFrameId : Nat
  /-- the model's own: an event of R176 has happened within the present command, whose end evaluates the indicator -/
  evalDue : Bool
deriving DecidableEq, Repr

/-- R2: the tracker after every reset. -/
def Tracker.reset : Tracker where
  state := .seeking
  h := none
  lastCrossing := none
  lastKind := .real
  lastEdge := none
  lockCount := 0
  missCount := 0
  disturbedCount := 0

/-- R37: the MAC record after every reset. -/
def Mac.reset : Mac where
  state := .idle
  backoff := none
  stage := 0
  deferral := 0
  candidate := none
  periodStart := 0#32
  gap := none
  wait := none
  duty := none
  thermalWait := false
  toneHeard := false

/-- R54: the thermal guard after every reset; the first boundary falls at line time 10,000. -/
def Thermal.reset : Thermal where
  limited := false
  holdCount := 0
  used := 0
  nextBoundary := 10000#32

/-- R67, R68: the channel estimator after every reset. -/
def Estimator.reset : Estimator where
  wants := Vector.replicate 3 (Vector.replicate 6 0)
  lastSound := none
  deadline := none
  placed := none
  rotation := 0
  notedSlot := none

/-- R187, R188, R189, R190: the station port after every reset, in the mode sampled at its end. -/
def Port.reset (mode : PortMode) : Port where
  mode := mode
  hold := none
  delivery := []
  response := none
  pausePending := none
  sending := none
  pauseOn := false
  refresh := none
  requests := []

/-- R202: the flags after every reset. -/
def Attention.clear : Attention where
  configDefault := false
  trackerUntrusted := false
  poolExhausted := false
  thermalLimited := false
  tableFull := false
  relayDrop := false

/-- The part right after a POWER reset has ended (R206, R207): every block in its reset state, the line time starting from 0,
the start-up state LOADING, every counter 0 (R201) and the restart record that of a power-on (R208). The strap level sampled at
the reset's end is taken as low (assumption log 4). -/
def State.reset : State where
  lineTime := 0#32
  held := none
  startUp := .loading
  listening := none
  tracker := Tracker.reset
  line := { sending := none, reception := none }
  mac := Mac.reset
  thermal := Thermal.reset
  estimator := Estimator.reset
  table := Vector.replicate 24 none
  note := { deadline := none, placed := false }
  pool := Vector.replicate 48 none
  inFlight := none
  queues := Vector.replicate 6 []
  control := []
  holdsCandidate := false
  addressMap := Vector.replicate 128 none
  port := Port.reset .rmii
  counters := Vector.replicate 124 0#32
  attention := Attention.clear
  restart := { cause := .power, restarts := 0, counterClears := 0 }
  settings := Settings.default
  pending := []
  raised := []
  draws := 0
  nextFrameId := 0
  evalDue := false

end Sys2Proof.Machine
end

