-- ==== Sys2Proof/Machine/Flags.lean ====
section
/-! DEFINITION. Counters and attention flags (R201 to R203). -/

namespace Sys2Proof.Machine

/-- R201: the counter index of a counter: the mains tracker and the line interface first, then chapter by chapter, each table in
row order, families expanded in the order R201 gives. -/
def Counter.index : Counter → Fin 124
  | .zcGlitches => 0
  | .misalignedOffsets => 1
  | .headerCheckFailures => 2
  | .malformedHeaders => 3
  | .foreignFrames => 4
  | .addressClashes => 5
  | .dataReceived p => ⟨6 + p.val, by omega⟩
  | .failedResponses => 10
  | .strayResponses => 11
  | .badControlPayloads => 12
  | .framesSent .data => 13
  | .framesSent .grid => 14
  | .framesSent .sound => 15
  | .framesSent .note => 16
  | .respSent => 17
  | .noResponse => 18
  | .deferrals => 19
  | .stageRaises => 20
  | .withdrawals => 21
  | .transmitAbandoned => 22
  | .thermalLimit => 23
  | .thermalDeferral => 24
  | .thermalShortening => 25
  | .soundSampled => 26
  | .untrustedSound => 27
  | .cellsAged => 28
  | .eligibilityTriggers => 29
  | .soundRequests => 30
  | .placedSoundRefusal => 31
  | .buildsStarted => 32
  | .buildsForced => 33
  | .gridsIssued => 34
  | .gridsHeldBack => 35
  | .noGrid => 36
  | .buildsDiscarded => 37
  | .rememberedTriggers => 38
  | .ignoredTriggers => 39
  | .abandonmentSuppressed => 40
  | .boostRaises => 41
  | .droppedIssues => 42
  | .partRetries => 43
  | .unexpectedStatus => 44
  | .issuesAbandoned => 45
  | .capConflictsReceived => 46
  | .gridUnknownSent => 47
  | .gridsPromoted => 48
  | .promotionsByData => 49
  | .capConflictsSent => 50
  | .assemblyRefused => 51
  | .commits => 52
  | .gridUnknownReceived => 53
  | .floorFrames => 54
  | .loadingFallbacks => 55
  | .entriesCreated => 56
  | .remoteCreated => 57
  | .replacements => 58
  | .heardNotEntered => 59
  | .remoteNotCreated => 60
  | .entriesStale => 61
  | .entriesRemoved => 62
  | .directHolds => 63
  | .routeChanges => 64
  | .noteRefusals => 65
  | .reachOverflow => 66
  | .notesReceived => 67
  | .duplicateItems => 68
  | .segmentsSent => 69
  | .segmentsResent => 70
  | .framesDelivered => 71
  | .ignoredEntries => 72
  | .retryDrops => 73
  | .queueExpiry => 74
  | .numberedExpiry => 75
  | .floorSkips => 76
  | .resyncs => 77
  | .duplicates => 78
  | .reserveFull => 79
  | .beyondWindow => 80
  | .damagedSegments => 81
  | .huntingDiscards => 82
  | .outOfStep => 83
  | .framesReassembled => 84
  | .errorTriggers => 85
  | .tailDrops q => ⟨86 + q.val, by omega⟩
  | .bufferDrops q => ⟨92 + q.val, by omega⟩
  | .localDiscards => 98
  | .replications => 99
  | .copiesQueued => 100
  | .copiesDropped => 101
  | .noDestination => 102
  | .unreachableDrops => 103
  | .addressMoves => 104
  | .mapReplacements => 105
  | .mapAged => 106
  | .carriageErrors => 107
  | .loopDrops => 108
  | .framesToHost => 109
  | .relayedCarriages => 110
  | .relayDrops => 111
  | .hostFramesReceived => 112
  | .hostSizeErrors => 113
  | .hostFcsErrors => 114
  | .ownAddressDrops => 115
  | .pauseReceived => 116
  | .macControlDrops => 117
  | .framesSentToHost => 118
  | .pauseSent => 119
  | .responsesSent => 120
  | .requestsReceived => 121
  | .requestOverflow => 122
  | .unknownRequests => 123

/-- R201: a counter saturates at 4,294,967,295. -/
def satInc (x : BitVec 32) : BitVec 32 := if x = BitVec.allOnes 32 then x else x + 1#32

/-- R201: the value of a counter. -/
def State.count (s : State) (c : Counter) : BitVec 32 := s.counters[c.index]

/-- R201: one increment of a counter. -/
def bump (c : Counter) (s : State) : State :=
  { s with counters := s.counters.set c.index (satInc s.counters[c.index]) }

/-- `n` increments of a counter. -/
def bumpBy (c : Counter) : Nat → State → State
  | 0, s => s
  | n + 1, s => bumpBy c n (bump c s)

/-- R193: every counter becomes 0. -/
def clearCounters (s : State) : State := { s with counters := Vector.replicate 124 0#32 }

/-- R203: whether one or more attention flags are set. -/
def Attention.any (a : Attention) : Bool :=
  a.configDefault || a.trackerUntrusted || a.poolExhausted || a.thermalLimited || a.tableFull || a.relayDrop

/-- R202, R210: the flags as bits 0..5, config-default first. -/
def Attention.toByte (a : Attention) : Byte :=
  BitVec.ofNat 8 (a.configDefault.toNat + 2 * a.trackerUntrusted.toNat + 4 * a.poolExhausted.toNat +
    8 * a.thermalLimited.toNat + 16 * a.tableFull.toNat + 32 * a.relayDrop.toNat)

/-- R192: each flag named in the clear set is cleared, the others keep their state. -/
def Attention.clearNamed (a : Attention) (named : BitVec 8) : Attention where
  configDefault := a.configDefault && !named.getLsbD 0
  trackerUntrusted := a.trackerUntrusted && !named.getLsbD 1
  poolExhausted := a.poolExhausted && !named.getLsbD 2
  thermalLimited := a.thermalLimited && !named.getLsbD 3
  tableFull := a.tableFull && !named.getLsbD 4
  relayDrop := a.relayDrop && !named.getLsbD 5

/-- R203: the ATTN output: asserted while a flag is set, and deasserted during a reset and the whole of LOADING (assumption
log 14). -/
def State.attn (s : State) : Bool := s.attention.any && s.held.isNone && s.startUp != .loading

/-- R202: the tracker goes from a trusted state to an untrusted one. -/
def raiseTrackerUntrusted (s : State) : State :=
  { s with attention := { s.attention with trackerUntrusted := true } }
/-- R202: the defaults are taken at a start. -/
def raiseConfigDefault (s : State) : State := { s with attention := { s.attention with configDefault := true } }
/-- R202: an issued grid finds no FREE slot. -/
def raisePoolExhausted (s : State) : State := { s with attention := { s.attention with poolExhausted := true } }
/-- R202: the guard goes from COOL to LIMITED. -/
def raiseThermalLimited (s : State) : State := { s with attention := { s.attention with thermalLimited := true } }
/-- R202: a heard station finds no entry to take. -/
def raiseTableFull (s : State) : State := { s with attention := { s.attention with tableFull := true } }
/-- R202: a carriage for another station is dropped at inspection or at admission. -/
def raiseRelayDrop (s : State) : State := { s with attention := { s.attention with relayDrop := true } }

end Sys2Proof.Machine
end

