-- ==== Sys2Proof/Machine/Ops.lean ====
section
/-! DEFINITION. The shared operations on the state: the station table, the pool, the deadlines, the records of a new entry and
the effect of a reset. -/

namespace Sys2Proof.Machine

/-- What a command answers. -/
abbrev Result := Host.Outcome State Fault Refusal

/-- R207: while a POWER or PIN reset lasts the part holds every block in its reset state, so an event then changes nothing. -/
def whenLive (s : State) (f : State → State) : Result := .next (if s.held.isSome then s else f s)

/-- R1: a deadline is reached at the instant the line time equals it. -/
def State.reached (s : State) (d : Option LineTime) : Bool := d == some s.lineTime

/-- An event whose condition does not hold is not occurring, and changes nothing (assumption log 1). -/
def whenDue (due : Bool) (f : State → State) (s : State) : State := if due then f s else s

/-- R176: an event of R176 has happened; the indicator is evaluated at the end of the command (assumption log 22). -/
def markEval (s : State) : State := { s with evalDue := true }

/-- Takes the next free value of the model's own counter. -/
def draw (s : State) : State := { s with draws := s.draws + 1 }

/-! ### Station table -/

/-- The entry at an index, or none. -/
def State.entry (s : State) (i : EntryIx) : Option Entry := s.table[i]

/-- Writes an index of the station table. -/
def setEntry (i : EntryIx) (e : Option Entry) (s : State) : State := { s with table := s.table.set i e }

/-- Changes the entry at an index, if there is one. -/
def modEntry (i : EntryIx) (f : Entry → Entry) (s : State) : State :=
  match s.entry i with
  | none => s
  | some e => setEntry i (some (f e)) s

/-- R125: the index of the entry with an address. -/
def State.findEntry (s : State) (a : Addr) : Option EntryIx :=
  (List.finRange 24).find? fun i =>
    match s.entry i with
    | some e => e.addr == a
    | none => false

/-- R125: the lowest-numbered empty index. -/
def State.emptyIndex (s : State) : Option EntryIx :=
  (List.finRange 24).find? fun i => (s.entry i).isNone

/-- R126: every rule that applies to HEARD entries applies to LINKED entries alike. -/
def EntryState.present : EntryState → Bool
  | .heard | .linked => true
  | .remote | .stale => false

/-- Whether an index holds a HEARD or LINKED entry. -/
def State.present (s : State) (i : EntryIx) : Bool :=
  match s.entry i with
  | some e => e.state.present
  | none => false

/-! ### The pool -/

/-- R100: the slot an entry holds in a role. -/
def State.roleSlot (s : State) (e : EntryIx) (r : Role) : Option SlotIx :=
  (List.finRange 48).find? fun i =>
    match s.pool[i] with
    | some g => g.entry == e && g.role == r
    | none => false

/-- R101: the grid an entry holds in a role. -/
def State.roleGrid (s : State) (e : EntryIx) (r : Role) : Option Grid :=
  match s.roleSlot e r with
  | some i => s.pool[i].map (·.grid)
  | none => none

/-- R100: the lowest-numbered FREE slot. -/
def State.freeSlot (s : State) : Option SlotIx :=
  (List.finRange 48).find? fun i => s.pool[i].isNone

/-- R100: the number of FREE slots. -/
def State.freeSlots (s : State) : Nat := (List.finRange 48).countP fun i => s.pool[i].isNone

/-- Writes a slot of the pool. -/
def setSlot (i : SlotIx) (g : Option HeldGrid) (s : State) : State := { s with pool := s.pool.set i g }

/-- R100: the slot an entry holds in a role is freed. -/
def freeRole (e : EntryIx) (r : Role) (s : State) : State :=
  match s.roleSlot e r with
  | some i => setSlot i none s
  | none => s

/-- R122: every slot an entry holds, in any role, is freed. -/
def freeAllRoles (e : EntryIx) (s : State) : State :=
  { s with pool := s.pool.map fun g =>
      match g with
      | some h => if h.entry == e then none else some h
      | none => none }

/-! ### Configuration readings -/

/-- R22: the home pair is the lowest-numbered pair enabled. -/
def Settings.homePair (c : Settings) : Pair :=
  ((List.finRange 3).find? fun p => c.pairs[p]).getD 0

/-- R37: the contention window of a stage. -/
def windowOf (stage : Nat) : Nat := 8 * 2 ^ stage

/-! ### Records of a new entry -/

/-- R15. -/
def SlotOffset.fresh : SlotOffset := { held := none, candidate := 0, confirm := 0 }

/-- R59: the SNR set with every count 0. -/
def SnrSet.fresh : SnrSet := Vector.replicate 3 (Vector.replicate 6 Cell.empty)

/-- R76. -/
def BuildRecord.fresh : BuildRecord where
  state := .idle
  remembered := none
  boost := 0
  deadline := none
  retrySpent := false
  last := .noOutcome

/-- R102. -/
def GridRecord.fresh : GridRecord := { nextTag := 1#8, issue := .noIssue, parts := [] }

/-- R148. -/
def TxState.fresh : TxState := { next := 0#12, unacked := [], numbered := [] }

/-- R158. -/
def RxState.fresh : RxState := { expected := none, reorder := [], assembling := false, joined := none, window := [] }

/-- R125, R128: a new entry, HEARD or REMOTE, with every per-entry record begun afresh. Its route is formed by R137 from NONE
before the table shows it. -/
def Entry.fresh (a : Addr) (st : EntryState) (heard named : Option LineTime) (trusted : Bool) : Entry where
  addr := a
  state := st
  lastHeard := heard
  offset := SlotOffset.fresh
  peerTrusted := trusted
  peerBands := none
  relay := false
  reach := none
  hold := none
  streak := 0
  route := .noRoute
  txRate := 0
  lastNamed := named
  snr := SnrSet.fresh
  build := BuildRecord.fresh
  store := GridRecord.fresh
  tx := TxState.fresh
  rx := RxState.fresh

/-! ### Resets (R207, R208) -/

/-- R207: at every reset each block takes the state its chapter gives for every reset, and operations in progress stop at once.
The counters and the restart record stand (R201, R208); so do the port's mode, which the reset's end samples, the queue of
commands, and the model's own count of free values. The configuration values are those of R205's last column until LOADING ends
(assumption log 6). -/
def resetBlocks (s : State) : State :=
  { State.reset with
    counters := s.counters
    restart := s.restart
    port := Port.reset s.port.mode
    pending := s.pending
    draws := s.draws }

/-- A saturating 16-bit count (R208). -/
def sat16 (n : Nat) : Nat := if n < 65535 then n + 1 else 65535

/-- R208: the restart record at the end of a reset. -/
def RestartRecord.after (k : ResetKind) (r : RestartRecord) : RestartRecord :=
  match k with
  | .power => { cause := .power, restarts := 0, counterClears := 0 }
  | .pin => { r with cause := .pin, restarts := sat16 r.restarts }
  | .restart => { r with cause := .restart, restarts := sat16 r.restarts }

/-- R209: the mode the strap selects. -/
def PortMode.ofStrap (strap : Bool) : PortMode := if strap then .rgmii else .rmii

/-- R207, R208, R209: the end of a reset of kind `k`, with the level of the mode strap sampled at it: the restart record is
updated, the port takes its mode, and LOADING starts with the line time at 0. -/
def finishReset (k : ResetKind) (strap : Bool) (s : State) : State :=
  { resetBlocks s with
    held := none
    restart := s.restart.after k
    port := Port.reset (PortMode.ofStrap strap) }

/-- R201, R207: a POWER or PIN reset begins: every block is held in its reset state and every counter is 0. A reset that begins
while another still holds the part is one reset more, so the one before it counts as ended (assumption log 5). -/
def beginReset (k : ResetKind) (s : State) : State :=
  let s := match s.held with
    | some k0 => { s with restart := s.restart.after k0 }
    | none => s
  { clearCounters (resetBlocks s) with held := some k }

end Sys2Proof.Machine
end

