-- ==== Sys2Proof/Machine/Bytes.lean ====
section
/-! DEFINITION. Bytes and checks: big-endian fields (R210), the CRCs of R24 and R28, the frame check sequence of R186 and the
sum of R204. -/

namespace Sys2Proof.Machine

/-- R210: `n` bytes of a number, high byte first. -/
def beBytes : Nat → Nat → List Byte
  | 0, _ => []
  | n + 1, x => BitVec.ofNat 8 (x / 256 ^ n) :: beBytes n x

/-- R210: the number in a run of bytes, high byte first. -/
def readBE (b : List Byte) : Nat := b.foldl (fun n x => n * 256 + x.toNat) 0

/-- The bytes at `at_ .. at_ + len − 1`. -/
def slice (at_ len : Nat) (b : List Byte) : List Byte := (b.drop at_).take len

/-- The byte at an index; a byte past the end reads as 0. -/
def byteAt (i : Nat) (b : List Byte) : Byte := b.getD i 0#8

/-- The number in `len` bytes from `at_`; bytes past the end read as 0. -/
def fieldAt (at_ len : Nat) (b : List Byte) : Nat :=
  (List.range len).foldl (fun n i => n * 256 + (byteAt (at_ + i) b).toNat) 0

/-- The address in six bytes from `at_`. -/
def addrAt (at_ : Nat) (b : List Byte) : Addr := BitVec.ofNat 48 (fieldAt at_ 6 b)

/-- The six bytes of an address. -/
def addrBytes (a : Addr) : List Byte := beBytes 6 a.toNat

/-- Bits `lo .. lo + width − 1` of a number. -/
def bitsOf (x lo width : Nat) : Nat := x / 2 ^ lo % 2 ^ width

/-- One bit of the 16-bit CRC with generator x^16 + x^12 + x^5 + 1 (R24). -/
def crc16Bit (r : BitVec 16) : BitVec 16 :=
  if r.msb then (r <<< 1) ^^^ 0x1021#16 else r <<< 1

/-- One byte of the 16-bit CRC, its most significant bit first (assumption log 10). -/
def crc16Byte (r : BitVec 16) (b : Byte) : BitVec 16 :=
  (List.range 8).foldl (fun x _ => crc16Bit x) (r ^^^ ((b.zeroExtend 16) <<< 8))

/-- R24: the 16-bit check: started from all ones and inverted at the end. -/
def crc16 (b : List Byte) : BitVec 16 := ~~~ (b.foldl crc16Byte (BitVec.allOnes 16))

/-- One bit of the 32-bit CRC of R28. -/
def crc32Bit (r : BitVec 32) : BitVec 32 :=
  if r.msb then (r <<< 1) ^^^ 0x04C11DB7#32 else r <<< 1

/-- One byte of the 32-bit CRC, its most significant bit first (assumption log 10). -/
def crc32Byte (r : BitVec 32) (b : Byte) : BitVec 32 :=
  (List.range 8).foldl (fun x _ => crc32Bit x) (r ^^^ ((b.zeroExtend 32) <<< 24))

/-- R28: the 32-bit check: started from all ones and inverted at the end. -/
def crc32 (b : List Byte) : BitVec 32 := ~~~ (b.foldl crc32Byte (BitVec.allOnes 32))

/-- One bit of the same CRC held bit-reversed, so that bits are taken least significant first. -/
def fcsBit (r : BitVec 32) : BitVec 32 :=
  if r.getLsbD 0 then (r >>> 1) ^^^ 0xEDB88320#32 else r >>> 1

/-- One byte of the frame check sequence. -/
def fcsByte (r : BitVec 32) (b : Byte) : BitVec 32 :=
  (List.range 8).foldl (fun x _ => fcsBit x) (r ^^^ b.zeroExtend 32)

/-- R186: the frame check sequence of a run of bytes: each byte least significant bit first, and the coefficient of x^31 in bit 0
of the first of the four bytes. Held bit-reversed, the register's low byte is that first byte. -/
def fcsBytes (b : List Byte) : List Byte :=
  let r := ~~~ (b.foldl fcsByte (BitVec.allOnes 32))
  [r.extractLsb' 0 8, r.extractLsb' 8 8, r.extractLsb' 16 8, r.extractLsb' 24 8]

/-- R186: whether an Ethernet frame's last four bytes are the frame check sequence of the bytes before them. -/
def fcsMatches (frame : List Byte) : Bool :=
  frame.drop (frame.length - 4) == fcsBytes (frame.take (frame.length - 4))

/-- R204: the sum of a region's 16-bit words modulo 65,536. -/
def wordSum : List Byte → Nat
  | a :: b :: rest => (a.toNat * 256 + b.toNat + wordSum rest) % 65536
  | _ => 0

/-- R204: a region passes when its sum is 0xFFFF. -/
def sumPasses (region : List Byte) : Bool := wordSum region == 0xFFFF

end Sys2Proof.Machine
end

