-- ==== Sys2Proof/Machine/Operands.lean ====
section
/-! DEFINITION. The operand forms: the byte layouts of R210 that commands bring, read and written. Bits that no field names are
written as 0 and are not read. -/

namespace Sys2Proof.Machine

/-! ### Bands -/

/-- R205: one band held within its ranges: dropped when its first carrier is above 767; a width of 0 becomes 1; a width that
passes carrier 767 is cut; a cap of 11..15 becomes 10. The second component counts what was changed. -/
def clampBand (b : Band) : Option Band × Nat :=
  if b.first > 767 then (none, 1)
  else
    let w0 := if b.width = 0 then 1 else b.width
    let w := if b.first + w0 > 768 then 768 - b.first else w0
    let c := if b.cap > 10 then 10 else b.cap
    (some { first := b.first, width := w, cap := c },
      (if w = b.width then 0 else 1) + (if c = b.cap then 0 else 1))

/-- R205: a band list clamped band by band, with the number of changes. -/
def clampBands : List Band → List Band × Nat
  | [] => ([], 0)
  | b :: rest =>
    let (kept, n) := clampBand b
    let (others, m) := clampBands rest
    (kept.toList ++ others, n + m)

/-- R210: a band packed in three bytes: bits 23..14 first carrier, bits 13..4 width, bits 3..0 cap. -/
def bandAt (at_ : Nat) (b : List Byte) : Band :=
  let x := fieldAt at_ 3 b
  { first := bitsOf x 14 10, width := bitsOf x 4 10, cap := bitsOf x 0 4 }

/-- R210: the three bytes of a band. -/
def bandBytes (b : Band) : List Byte := beBytes 3 (b.first * 2 ^ 14 + b.width * 2 ^ 4 + b.cap)

/-- `n` bands from `at_`. -/
def bandsAt (at_ n : Nat) (b : List Byte) : List Band := (List.range n).map fun i => bandAt (at_ + 3 * i) b

/-- R35, R31: a band list received on the line, repaired by the clamping of R205 (assumption log 20). -/
def receivedBands (at_ n : Nat) (b : List Byte) : List Band := (clampBands (bandsAt at_ n b)).1

/-! ### Line header (R24, R210) -/

/-- R210: the codes of the frame kinds. -/
def FrameKind.code : FrameKind → Nat
  | .data => 1
  | .grid => 2
  | .resp => 3
  | .sound => 4
  | .note => 5

/-- R210: the frame kind of a code. -/
def FrameKind.ofCode : Nat → Option FrameKind
  | 1 => some .data
  | 2 => some .grid
  | 3 => some .resp
  | 4 => some .sound
  | 5 => some .note
  | _ => none

/-- R24: bytes 0..21 of a header. -/
def headerBody (h : Header) : List Byte :=
  beBytes 1 h.kind.code ++ beBytes 2 h.house.toNat ++ addrBytes h.tx ++ addrBytes h.rx ++
    beBytes 1 (h.pair.val + 4 * h.priority.val + 16 * h.trusted.toNat + 32 * h.floor.toNat) ++
    beBytes 2 h.phase.toNat ++ [h.tag] ++ beBytes 1 h.symbols ++
    beBytes 2 (h.segments * 4096 + h.floorSeq.toNat)

/-- R24: the 24 bytes of a header with its check. -/
def headerBytes (h : Header) : List Byte := headerBody h ++ beBytes 2 (crc16 (headerBody h)).toNat

/-- R24, R210: the 96 bytes of the four header symbols: the header followed by zero fill. -/
def headerWire (h : Header) : List Byte := headerBytes h ++ List.replicate (4 * Config.robustBytes - 24) 0#8

/-- R24: whether the header check of 24 bytes matches. -/
def headerCheck (b : List Byte) : Bool := fieldAt 22 2 b == (crc16 (slice 0 22 b)).toNat

/-- R24: the range of the payload symbol count and of the segment count of each kind. -/
def countsLawful : FrameKind → Nat → Nat → Bool
  | .data, n, g => decide (1 ≤ n ∧ n ≤ 96 ∧ 1 ≤ g ∧ g ≤ 8)
  | .grid, n, g => n == 13 && g == 0
  | .resp, n, g => n == 0 && g == 0
  | .sound, n, g => n == 24 && g == 0
  | .note, n, g => decide (1 ≤ n ∧ n ≤ 12) && g == 0

/-- R24: the validity test, made on the copy of the header received on `copyPair`. -/
def readHeader (copyPair : Pair) (b : List Byte) : Option Header :=
  match FrameKind.ofCode (byteAt 0 b).toNat with
  | none => none
  | some kind =>
    let x := (byteAt 15 b).toNat
    let y := fieldAt 20 2 b
    let rx := addrAt 9 b
    let tag := byteAt 18 b
    let flr := (byteAt 15 b).getLsbD 5
    if h : bitsOf x 0 2 < 3 then
      let hd : Header :=
        { kind := kind
          house := BitVec.ofNat 16 (fieldAt 1 2 b)
          tx := addrAt 3 b
          rx := rx
          pair := ⟨bitsOf x 0 2, h⟩
          priority := Fin.ofNat 4 (bitsOf x 2 2)
          trusted := (byteAt 15 b).getLsbD 4
          floor := flr
          phase := BitVec.ofNat 10 (fieldAt 16 2 b)
          tag := tag
          symbols := (byteAt 19 b).toNat
          segments := bitsOf y 12 4
          floorSeq := BitVec.ofNat 12 y }
      if countsLawful kind hd.symbols hd.segments &&
          ((rx == Addr.broadcast) == (kind == .sound || kind == .note)) &&
          (tag == 0#8 || kind == .data) &&
          (!flr || (kind == .data && tag != 0#8)) &&
          (kind != .sound || hd.pair == copyPair) then some hd else none
    else none

/-- R21: the payload symbols of a frame; a RESP has two body symbols though its header count is 0. -/
def Header.payloadSymbols (h : Header) : Nat := if h.kind = .resp then 2 else h.symbols

/-- R21: the length of a frame from its frame start to its end. -/
def Header.duration (h : Header) : Nat := 192 + 32 * h.payloadSymbols

/-! ### Segments (R28) -/

/-- R28: a segment as the segment engine receives it. -/
inductive RxSegment where
  | intact (seq : Seq) (first last : Bool) (payload : List Byte)
  | damaged (seq : Option Seq)
deriving DecidableEq, Repr

/-- R28: the first six bytes of a segment header. -/
def segmentHead (seq : Seq) (first last : Bool) (len : Nat) : List Byte :=
  beBytes 2 (first.toNat * 2 ^ 15 + last.toNat * 2 ^ 14 + seq.toNat) ++ beBytes 2 len ++ beBytes 2 0

/-- R28: a segment on the line: header, payload, CRC. -/
def segmentBytes (seq : Seq) (first last : Bool) (payload : List Byte) : List Byte :=
  let head := segmentHead seq first last payload.length
  let covered := head ++ beBytes 2 (crc16 head).toNat ++ payload
  covered ++ beBytes 4 (crc32 covered).toNat

/-- R28: the walk over a DATA payload of `n` segments: one item per segment named by the segment count, and once a segment is
unlocatable, it and all later ones are damaged and without a sequence. -/
def walkSegments : Nat → List Byte → List RxSegment
  | 0, _ => []
  | n + 1, b =>
    let len := bitsOf (fieldAt 2 2 b) 0 9
    if fieldAt 6 2 b == (crc16 (slice 0 6 b)).toNat && decide (1 ≤ len ∧ len ≤ Config.pieceBytes) &&
        decide (8 + len + 4 ≤ b.length) then
      let seq : Seq := BitVec.ofNat 12 (fieldAt 0 2 b)
      let item :=
        if fieldAt (8 + len) 4 b == (crc32 (slice 0 (8 + len) b)).toNat then
          RxSegment.intact seq ((byteAt 0 b).getLsbD 7) ((byteAt 0 b).getLsbD 6) (slice 8 len b)
        else RxSegment.damaged (some seq)
      item :: walkSegments n (b.drop (8 + len + 4))
    else List.replicate (n + 1) (RxSegment.damaged none)

/-! ### Carriage record (R29) -/

/-- R29: the carriage record of a host frame. -/
def carriageBytes (f : HostFrame) : List Byte :=
  addrBytes f.origin ++ addrBytes f.final ++ beBytes 1 f.hop ++ beBytes 1 (f.queue.val + 1) ++ beBytes 2 f.eth.length

/-- R29: the record and the Ethernet frame together. -/
def HostFrame.bytes (f : HostFrame) : List Byte := carriageBytes f ++ f.eth

/-- R147: the number of pieces, ceil((L + 16) / 480). -/
def HostFrame.pieces (f : HostFrame) : Nat := ceilDiv (f.eth.length + 16) Config.pieceBytes

/-- R29: a piece of 480 bytes, the last holding the rest. -/
def HostFrame.piece (f : HostFrame) (i : Nat) : List Byte := slice (Config.pieceBytes * i) Config.pieceBytes f.bytes

/-- R144: the transmit charge, ceil((L + 16) / 64) × 64. -/
def HostFrame.charge (f : HostFrame) : Nat := ceilDiv (f.eth.length + 16) 64 * 64

/-- R144: the receive charge of a segment of `b` payload bytes. -/
def segmentCharge (b : Nat) : Nat := ceilDiv b 64 * 64

/-! ### RESP body (R31) -/

/-- R210: the codes of the RESP statuses. -/
def RespStatus.code : RespStatus → Nat
  | .accepted => 0
  | .gridUnknown => 1
  | .noRoom => 2
  | .capConflict => 3

/-- R210: a status code above 3 counts as a failed body check. -/
def RespStatus.ofCode : Nat → Option RespStatus
  | 0 => some .accepted
  | 1 => some .gridUnknown
  | 2 => some .noRoom
  | 3 => some .capConflict
  | _ => none

/-- A run of bits, bit 0 first, as a number. -/
def bitsToNat : List Bool → Nat
  | [] => 0
  | b :: rest => b.toNat + 2 * bitsToNat rest

/-- R31: bytes 0..45 of a RESP body. -/
def respBody (r : RespBody) : List Byte :=
  let bands := r.bands.getD []
  let packed := (bands.map bandBytes).flatten
  beBytes 1 r.status.code ++ beBytes 1 r.entries.length ++ beBytes 1 (bitsToNat r.entries) ++
    beBytes 1 (r.bands.isSome.toNat * 128 + bands.length) ++ packed ++ List.replicate (42 - packed.length) 0#8

/-- R31: the 48 bytes of a RESP body with its check. -/
def respBytes (r : RespBody) : List Byte := respBody r ++ beBytes 2 (crc16 (respBody r)).toNat

/-- R31, R33: the RESP body read, or none when its body check fails. Entries past the count are not read. -/
def readResp (b : List Byte) : Option (RespBody × Nat) :=
  if fieldAt 46 2 b == (crc16 (slice 0 46 b)).toNat then
    match RespStatus.ofCode (byteAt 0 b).toNat with
    | none => none
    | some st =>
      let n := (byteAt 1 b).toNat
      let x := byteAt 3 b
      let bands := if x.getLsbD 7 then some (receivedBands 4 (min (bitsOf x.toNat 0 4) 8) b) else none
      some ({ status := st, entries := (List.range (min n 8)).map fun i => (byteAt 2 b).getLsbD i, bands := bands }, n)
  else none

/-! ### GRID parts (R34) -/

/-- R34: one part of a grid as it is carried. -/
structure GridPart where
  tag : Byte
  k : Nat
  index : Fin 4
  pair : Pair
  map : Vector (Fin 4) 6
  rate : Nat
  column : Column
deriving DecidableEq, Repr

/-- R210: the levels in a run of bytes, eight to three bytes, the first in the highest bits. -/
def readLevels : List Byte → Column
  | a :: b :: c :: rest =>
    let x := a.toNat * 65536 + b.toNat * 256 + c.toNat
    ((List.range 8).map fun i => Fin.ofNat 8 (bitsOf x (21 - 3 * i) 3)) ++ readLevels rest
  | _ => []

/-- R210: the bytes of a column. -/
def levelBytes : Column → List Byte
  | a :: b :: c :: d :: e :: f :: g :: h :: rest =>
    beBytes 3 ([a, b, c, d, e, f, g, h].foldl (fun n l => n * 8 + l.val) 0) ++ levelBytes rest
  | _ => []

/-- R210: the packed map: bits 2s + 1 and 2s name the column of slot s. -/
def mapNat (m : Vector (Fin 4) 6) : Nat :=
  (List.finRange 6).foldl (fun n s => n + m[s].val * 4 ^ s.val) 0

/-- R210: the map read. -/
def readMap (x : Nat) : Vector (Fin 4) 6 := Vector.ofFn fun s => Fin.ofNat 4 (bitsOf x (2 * s.val) 2)

/-- R34: bytes 0..295 of a GRID payload. -/
def gridPartBody (p : GridPart) : List Byte :=
  [p.tag] ++ beBytes 1 (p.k + 8 * p.index.val + 32 * p.pair.val) ++ beBytes 2 (mapNat p.map) ++ beBytes 3 p.rate ++
    beBytes 1 0 ++ levelBytes p.column

/-- R34: the 300 bytes of a GRID payload with its check. -/
def gridPartBytes (p : GridPart) : List Byte := gridPartBody p ++ beBytes 4 (crc32 (gridPartBody p)).toNat

/-- R34: the part of a received GRID payload, or none when its check or its validity test fails. -/
def readGridPart (b : List Byte) : Option GridPart :=
  let x := (byteAt 1 b).toNat
  let k := bitsOf x 0 3
  let i := bitsOf x 3 2
  let map := readMap (fieldAt 2 2 b)
  if h : bitsOf x 5 2 < 3 ∧ i < 4 then
    if fieldAt 296 4 b == (crc32 (slice 0 296 b)).toNat && byteAt 0 b != 0#8 && decide (1 ≤ k ∧ k ≤ 4 ∧ i < k) &&
        (List.finRange 6).all (fun s => decide (map[s].val < k)) &&
        (List.range k).all (fun c => (List.finRange 6).any fun s => map[s].val == c) then
      some { tag := byteAt 0 b, k := k, index := ⟨i, h.2⟩, pair := ⟨bitsOf x 5 2, h.1⟩, map := map,
             rate := fieldAt 4 3 b, column := readLevels (slice 8 288 b) }
    else none
  else none

/-! ### NOTE (R35) -/

/-- R35: a sound request: a pair and a non-empty set of slots in the sender's numbering. -/
structure SoundRequest where
  pair : Pair
  slots : BitVec 6
deriving DecidableEq, Repr

/-- R35: an item of a NOTE's reach list. -/
structure NoteItem where
  addr : Addr
  rate : Nat
  request : Option SoundRequest
deriving DecidableEq, Repr

/-- R35: the contents of a NOTE. -/
structure NotePayload where
  relay : Bool
  bands : List Band
  items : List NoteItem
deriving DecidableEq, Repr

/-- R35: the bytes of a NOTE of `b` bands and `r` items. -/
def noteLength (b r : Nat) : Nat := 8 + 3 * b + 11 * r

/-- R35: its payload symbols. -/
def noteSymbols (b r : Nat) : Nat := ceilDiv (noteLength b r) 24

/-- R35: the 11 bytes of an item. -/
def noteItemBytes (i : NoteItem) : List Byte :=
  addrBytes i.addr ++ beBytes 3 i.rate ++
    (match i.request with
     | some q => beBytes 1 (128 + q.pair.val) ++ beBytes 1 q.slots.toNat
     | none => beBytes 2 0)

/-- R35: every byte of a NOTE before its check. -/
def noteBody (p : NotePayload) : List Byte :=
  beBytes 1 p.relay.toNat ++ beBytes 1 p.bands.length ++ beBytes 1 p.items.length ++ beBytes 1 0 ++
    (p.bands.map bandBytes).flatten ++ (p.items.map noteItemBytes).flatten

/-- R35: the bytes of a NOTE with its check. -/
def noteBytes (p : NotePayload) : List Byte := noteBody p ++ beBytes 4 (crc32 (noteBody p)).toNat

/-- R35: an item with its repairs: a rate above 180,000 is taken as 180,000, and a sound request naming pair 3 or an empty slot
set is dropped from it. -/
def noteItemAt (at_ : Nat) (b : List Byte) : NoteItem :=
  let x := byteAt (at_ + 9) b
  let slots : BitVec 6 := (byteAt (at_ + 10) b).truncate 6
  { addr := addrAt at_ b
    rate := min (fieldAt (at_ + 6) 3 b) Config.maxRate
    request :=
      if h : bitsOf x.toNat 0 2 < 3 then
        if x.getLsbD 7 && slots != 0#6 then some { pair := ⟨bitsOf x.toNat 0 2, h⟩, slots := slots } else none
      else none }

/-- R35: a received NOTE of `n` payload symbols with its repairs, or none when it is rejected. -/
def readNote (n : Nat) (b : List Byte) : Option NotePayload :=
  let nb := (byteAt 1 b).toNat
  let nr := (byteAt 2 b).toNat
  let body := 4 + 3 * nb + 11 * nr
  if decide (nb ≤ 8 ∧ nr ≤ 23 ∧ noteLength nb nr ≤ 24 * n) && fieldAt body 4 b == (crc32 (slice 0 body b)).toNat then
    some { relay := (byteAt 0 b).getLsbD 0
           bands := receivedBands 4 nb b
           items := ((List.range nr).map fun i => noteItemAt (4 + 3 * nb + 11 * i) b).filter
             fun i => i.addr != Addr.broadcast }
  else none

/-! ### Ethernet frames (R186) -/

/-- R186: an Ethernet frame taken apart. -/
structure EthView where
  dst : Addr
  src : Addr
  /-- the VLAN priority, when the frame carries a tag -/
  vlan : Option (Fin 8)
  etherType : Nat
  /-- the bytes after the EtherType and before the frame check sequence -/
  data : List Byte
deriving DecidableEq, Repr

/-- R186: bytes 12..13 hold 0x8100 in a tagged frame; its priority is bits 15..13 of bytes 14..15. -/
def ethView (f : List Byte) : EthView :=
  let tagged := fieldAt 12 2 f == 0x8100
  let at_ := if tagged then 16 else 12
  { dst := addrAt 0 f
    src := addrAt 6 f
    vlan := if tagged then some (Fin.ofNat 8 (bitsOf (fieldAt 14 2 f) 13 3)) else none
    etherType := fieldAt at_ 2 f
    data := (f.take (f.length - 4)).drop (at_ + 2) }

/-- An untagged Ethernet frame, filled with zeros to the shortest lawful length, with its frame check sequence (assumption
log 19). -/
def ethFrame (dst src : Addr) (etherType : Nat) (data : List Byte) : List Byte :=
  let body := addrBytes dst ++ addrBytes src ++ beBytes 2 etherType ++ data
  let filled := body ++ List.replicate (60 - body.length) 0#8
  filled ++ fcsBytes filled

/-! ### Management requests (R190, R210) -/

/-- R210: the argument bytes, counted from byte 0 after the EtherType, that each kind needs. -/
def argumentEnd : Nat → Nat
  | 1 | 2 => 4
  | 3 | 5 => 5
  | 4 => 16
  | _ => 3

/-- R197, R210: a WINDOW READ's arguments, or none when a coded argument names no defined value. -/
def readWindow (d : List Byte) : Option WindowRequest :=
  let source : Option WindowSource :=
    match (byteAt 3 d).toNat, (byteAt 5 d).toNat with
    | 0, 0 => some (.grid .rxCurrent)
    | 0, 1 => some (.grid .rxPending)
    | 0, 2 => some (.grid .txActive)
    | 0, 3 => some (.grid .txAssembling)
    | 1, 0 => some (.snr 0)
    | 1, 1 => some (.snr 1)
    | 1, 2 => some (.snr 2)
    | _, _ => none
  let order := (byteAt 7 d).toNat
  match source with
  | none => none
  | some src =>
    if (byteAt 6 d).toNat < 2 && order < 8 then
      some { source := src
             index := (byteAt 4 d).toNat
             extentMode := (byteAt 6 d).toNat == 1
             order := { slotMajor := order % 2 == 1, carrierReverse := order / 2 % 2 == 1, slotReverse := order / 4 == 1 }
             carrierStart := fieldAt 8 2 d
             carrierStop := fieldAt 10 2 d
             slotStart := (byteAt 12 d).toNat
             slotStop := (byteAt 13 d).toNat
             resume := fieldAt 14 2 d }
    else none

/-- R190: what a request asks, by its kind and arguments; `malformed` when it is not well formed. -/
def readBody (d : List Byte) : RequestBody :=
  let kind := (byteAt 2 d).toNat
  if d.length < argumentEnd kind then .malformed
  else
    match kind with
    | 1 => .status (byteAt 3 d)
    | 2 => .counters (byteAt 3 d != 0#8)
    | 3 => .stationTable (byteAt 3 d).toNat (byteAt 4 d).toNat
    | 4 => match readWindow d with
      | some w => .windowRead w
      | none => .malformed
    | 5 => .addressMap (byteAt 3 d).toNat (byteAt 4 d).toNat
    | 6 => .configRead
    | 7 => .restart
    | _ => .malformed

/-- R190: a request from the Ethernet frame that carries it. -/
def readRequest (v : EthView) : Request where
  source := v.src
  tag := BitVec.ofNat 16 (fieldAt 0 2 v.data)
  kind := byteAt 2 v.data
  body := readBody v.data

/-! ### The configuration image (R204, R205, R210) -/

/-- A value with the number of clamped fields it took. -/
abbrev Clamped (α : Type) := α × Nat

/-- R205: a value outside its range becomes the nearer end. -/
def nearer (lo hi x : Nat) : Clamped Nat := if x < lo then (lo, 1) else if x > hi then (hi, 1) else (x, 0)

/-- R205: a value above its range becomes `d`. -/
def orElse (hi d x : Nat) : Clamped Nat := if x > hi then (d, 1) else (x, 0)

/-- R205: a queue number 1..6, or `d` outside that range. -/
def queueOr (d : QueueIx) (x : Nat) : Clamped QueueIx :=
  if h : x - 1 < 6 ∧ x ≠ 0 then (⟨x - 1, h.1⟩, 0) else (d, 1)

/-- R205: the duty setting: the nearer end, then down to a multiple of 10. -/
def dutyOf (x : Nat) : Clamped Nat :=
  let y := (nearer 10 90 x).1
  let z := y / 10 * 10
  (z, if z = x then 0 else 1)

/-- R205: the three values of queue `q`, in memory bytes 61 + 4q .. 64 + 4q. -/
def queueSettingsAt (q : Nat) (m : List Byte) : Clamped QueueSettings :=
  let d := nearer 4 64 (byteAt (61 + 4 * q) m).toNat
  let l := nearer 10 2000 (fieldAt (62 + 4 * q) 2 m)
  let p := orElse 3 3 (byteAt (64 + 4 * q) m).toNat
  ({ depth := d.1, lifetimeMs := l.1, priority := Fin.ofNat 4 p.1 }, d.2 + l.2 + p.2)

/-- R205: the band list of the image: a count above 8 becomes 8 (assumption log 26), then each band is clamped. -/
def imageBands (m : List Byte) : Clamped (List Band) :=
  let n := orElse 8 8 (byteAt 31 m).toNat
  let b := clampBands (bandsAt 32 n.1 m)
  (b.1, n.2 + b.2)

/-- R204: whether the factory block is valid. -/
def factoryValid (m : List Byte) : Bool :=
  sumPasses (slice 0 8 m) && !(addrAt 0 m).isGroup && addrAt 0 m != 0#48

/-- R204: the factory address, or the fallback address when the factory block is not valid. -/
def factoryAddr (m : List Byte) : Addr × AddrSource :=
  if factoryValid m then (addrAt 0 m, .factory) else (Config.fallbackAddr, .fallback)

/-- R204: whether the image is valid. -/
def imageValid (m : List Byte) : Bool :=
  sumPasses (slice 16 84 m) && fieldAt 16 2 m == 0x5A3C && fieldAt 18 2 m == 84 && byteAt 20 m == 1#8

/-- R204, R205: the configuration values of a valid image. -/
def imageSettings (m : List Byte) : Settings :=
  let addr := addrAt 22 m
  let ownAddr := !addr.isGroup && addr != 0#48
  let station := if ownAddr then (addr, AddrSource.image) else factoryAddr m
  let b21 := byteAt 21 m
  let pairsRaw : Vector Bool 3 := #v[b21.getLsbD 2, b21.getLsbD 3, b21.getLsbD 4]
  let noPair := pairsRaw == Vector.replicate 3 false
  let margin := orElse 60 60 (byteAt 30 m).toNat
  let bands := imageBands m
  let dq := queueOr 2 (byteAt 60 m).toNat
  let vlan : Vector (Clamped QueueIx) 8 :=
    Vector.ofFn fun p => queueOr dq.1 (bitsOf (byteAt (56 + p.val / 2) m).toNat (if p.val % 2 = 0 then 4 else 0) 4)
  let queues : Vector (Clamped QueueSettings) 6 := Vector.ofFn fun q => queueSettingsAt q.val m
  let tier := orElse 5 0 (byteAt 85 m).toNat
  let note := nearer 250 5000 (fieldAt 87 2 m)
  let sound := nearer 50 2000 (fieldAt 89 2 m)
  let rebuild := nearer 1 30 (byteAt 91 m).toNat
  let duty := dutyOf (byteAt 92 m).toNat
  let hold := nearer 1 255 (byteAt 93 m).toNat
  let deferral := nearer 1 15 (byteAt 94 m).toNat
  let segRetry := nearer 1 15 (byteAt 95 m).toNat
  let partRetry := nearer 1 15 (byteAt 96 m).toNat
  { relay := b21.getLsbD 0
    pauseEnable := b21.getLsbD 1
    pairs := if noPair then #v[true, false, false] else pairsRaw
    station := station.1
    house := BitVec.ofNat 16 (fieldAt 28 2 m)
    margin := margin.1
    bands := bands.1
    vlan := vlan.map (·.1)
    defaultQueue := dq.1
    queues := queues.map (·.1)
    tierOrder := Fin.ofNat 6 tier.1
    leads := #v[(byteAt 86 m).getLsbD 0, (byteAt 86 m).getLsbD 1, (byteAt 86 m).getLsbD 2]
    noteMs := note.1
    soundMs := sound.1
    rebuildS := rebuild.1
    dutyPercent := duty.1
    holdPeriods := hold.1
    deferralLimit := deferral.1
    segmentRetry := segRetry.1
    partRetry := partRetry.1
    imageValid := true
    addrSource := station.2
    clamped := min 255 ((if ownAddr then 0 else 1) + (if noPair then 1 else 0) + margin.2 + bands.2 + dq.2 +
      (vlan.map (·.2)).toList.sum + (queues.map (·.2)).toList.sum + tier.2 + note.2 + sound.2 + rebuild.2 + duty.2 +
      hold.2 + deferral.2 + segRetry.2 + partRetry.2) }

/-- R204: the configuration taken from the serial memory at load completion. -/
def loadSettings (m : List Byte) : Settings :=
  if imageValid m then imageSettings m
  else { Settings.default with station := (factoryAddr m).1, addrSource := (factoryAddr m).2 }

end Sys2Proof.Machine
end

