-- ==== Sys2Proof/Machine/Tracker.lean ====
section
/-! DEFINITION. The mains tracker (chapter Mains Cycle and Slot Time): the filter, the states, the phase readings and the slot
offsets. What entering LOCKED does to the start-up state stands with the commands. -/

namespace Sys2Proof.Machine

/-- R3: the half-cycle filter: a quarter of the difference, truncated toward zero, but at least one step, and the result held
within 7,500..11,000. -/
def filterH (h i : Nat) : Nat :=
  let d : Int := (i : Int) - h
  let q := d.tdiv 4
  let step : Int := if q = 0 then d.sign else q
  (max (Config.halfCycleMin : Int) (min Config.halfCycleMax (h + step))).toNat

/-- R2: the expected crossing, last crossing + H, while both are held. -/
def Tracker.expected (t : Tracker) : Option LineTime :=
  match t.lastCrossing, t.h with
  | some c, some h => some (c.plus h)
  | _, _ => none

/-- R11: the tracker is trusted while its state is LOCKED or HOLDOVER. -/
def Tracker.trusted (t : Tracker) : Bool :=
  match t.state with
  | .locked | .holdover => true
  | .seeking | .freeRun => false

/-- R6: the classes of a real crossing in LOCKED and HOLDOVER. `late` is a crossing past X + 400, which is not classified
(assumption log 15). -/
inductive CrossingClass where
  | agreeing
  | disturbed
  | glitch
  | late
deriving DecidableEq, Repr

/-- R6: a crossing at `now` against the expected crossing `x`. -/
def Tracker.classify (t : Tracker) (x now : LineTime) : CrossingClass :=
  let d := x.offset now
  if -(Config.crossingWindow : Int) ≤ d ∧ d ≤ Config.crossingWindow then .agreeing
  else if d < 0 then
    let proper := match t.lastEdge with
      | some e => decide (Config.halfCycleMin ≤ e.dist now ∧ e.dist now ≤ Config.halfCycleMax)
      | none => false
    if t.lastKind = .synthetic ∧ proper = true then .disturbed else .glitch
  else .late

/-- R9, R10: SEEKING begins with `now` as the reference; H keeps its value. -/
def Tracker.seekFrom (t : Tracker) (now : LineTime) : Tracker :=
  { t with state := .seeking, lastCrossing := some now, lastKind := .real, lockCount := 0, missCount := 0,
           disturbedCount := 0 }

/-- R4: `now` becomes the reference with the given estimate and lock count, and a lock count of 8 enters LOCKED. -/
def Tracker.takeReference (t : Tracker) (now : LineTime) (h : Option Nat) (lock : Nat) : Tracker :=
  if lock ≥ 8 then
    { t with state := .locked, h := h, lastCrossing := some now, lastKind := .real, lockCount := lock, missCount := 0,
             disturbedCount := 0 }
  else { t with h := h, lastCrossing := some now, lastKind := .real, lockCount := lock }

/-- R4: a crossing in SEEKING; the second component says that it is a glitch. -/
def Tracker.seekCrossing (t : Tracker) (now : LineTime) : Tracker × Bool :=
  match t.lastCrossing with
  | none => (t.takeReference now t.h 0, false)
  | some ref =>
    let i := ref.dist now
    if i < Config.halfCycleMin then (t, true)
    else if i > Config.halfCycleMax then (t.takeReference now t.h 0, false)
    else
      match t.lockCount, t.h with
      | n + 1, some h =>
        if i ≤ h + Config.crossingWindow ∧ h ≤ i + Config.crossingWindow then
          (t.takeReference now (some (filterH h i)) (n + 2), false)
        else (t.takeReference now (some i) 1, false)
      | _, _ => (t.takeReference now (some i) 1, false)

/-- R7, R9: an agreeing crossing: H is filtered with the distance from the last crossing, `now` becomes the last crossing, of
kind real, and the state is LOCKED with both counts 0. -/
def Tracker.agree (t : Tracker) (now : LineTime) : Tracker :=
  match t.lastCrossing, t.h with
  | some c, some h =>
    { t with state := .locked, h := some (filterH h (c.dist now)), lastCrossing := some now, lastKind := .real,
             missCount := 0, disturbedCount := 0 }
  | _, _ => t

/-- R4, R6, R7, R9, R10: what a ZC edge at `now` does to the record, the last edge apart; the second component says whether
the ZC glitch counter increments. -/
def Tracker.crossing (t : Tracker) (now : LineTime) : Tracker × Bool :=
  match t.state with
  | .seeking => t.seekCrossing now
  | .freeRun => (t.seekFrom now, false)
  | .locked =>
    match t.expected with
    | none => (t, false)
    | some x =>
      match t.classify x now with
      | .agreeing => (t.agree now, false)
      | .disturbed | .glitch => (t, true)
      | .late => (t, false)
  | .holdover =>
    match t.expected with
    | none => (t, false)
    | some x =>
      match t.classify x now with
      | .agreeing => (t.agree now, false)
      | .glitch => (t, true)
      | .disturbed =>
        if t.disturbedCount + 1 ≥ 4 then (t.seekFrom now, true)
        else ({ t with disturbedCount := t.disturbedCount + 1 }, true)
      | .late => (t, false)

/-- R5: whether the reference of SEEKING is dropped at `now`. -/
def Tracker.dropDue (t : Tracker) (now : LineTime) : Bool :=
  match t.state, t.lastCrossing with
  | .seeking, some ref => ref.dist now == 11001
  | _, _ => false

/-- R8, R9: whether the window of the expected crossing expires at `now`. -/
def Tracker.expiryDue (t : Tracker) (now : LineTime) : Bool :=
  match t.state, t.expected with
  | .locked, some x | .holdover, some x => now == x.plus Config.crossingWindow
  | _, _ => false

/-- R10: whether a synthetic crossing is placed at `now` in FREE-RUN. -/
def Tracker.syntheticDue (t : Tracker) (now : LineTime) : Bool :=
  match t.state, t.expected with
  | .freeRun, some x => now == x
  | _, _ => false

/-- R8, R9: the expected crossing becomes the last crossing, of kind synthetic; LOCKED turns to HOLDOVER with miss count 1 and
disturbed count 0, and HOLDOVER counts the miss and turns to FREE-RUN at 16. -/
def Tracker.expire (t : Tracker) : Tracker :=
  let placed := { t with lastCrossing := t.expected, lastKind := .synthetic }
  match t.state with
  | .locked => { placed with state := .holdover, missCount := 1, disturbedCount := 0 }
  | _ =>
    if t.missCount + 1 ≥ 16 then { placed with state := .freeRun, missCount := 16 }
    else { placed with missCount := t.missCount + 1 }

/-- R12: the half-cycle used for phase readings. -/
def Tracker.phaseH (t : Tracker) : Nat := t.h.getD Config.halfCycleDefault

/-- R12: the phase fraction at `now`. -/
def Tracker.phase (t : Tracker) (now : LineTime) : Nat :=
  match t.lastCrossing with
  | none => 1023
  | some c => min 1023 (c.dist now * 1024 / t.phaseH)

/-- R12: the mains slot of a phase fraction. -/
def slotOfPhase (f : Nat) : MainsSlot := Fin.ofNat 6 (f * 6 / 1024)

/-- R12: the mains slot at `now`. -/
def Tracker.slot (t : Tracker) (now : LineTime) : MainsSlot := slotOfPhase (t.phase now)

/-- R13: the projected phase fraction at an instant that has not yet come. -/
def Tracker.projectedPhase (t : Tracker) (at_ : LineTime) : Nat :=
  match t.lastCrossing with
  | none => 1023
  | some c =>
    let p := c.dist at_
    let p := if p ≥ t.phaseH then p % t.phaseH else p
    p * 1024 / t.phaseH

/-- R13: the projected slot. -/
def Tracker.projectedSlot (t : Tracker) (at_ : LineTime) : MainsSlot := slotOfPhase (t.projectedPhase at_)

/-- R12: the phase fraction now. -/
def State.phase (s : State) : Nat := s.tracker.phase s.lineTime

/-- R12: the own slot now. -/
def State.slot (s : State) : MainsSlot := s.tracker.slot s.lineTime

/-- R11: the own trusted condition now. -/
def State.trusted (s : State) : Bool := s.tracker.trusted

/-! ### Slot offsets (R15 to R18) -/

/-- R16: the outcome of a slot-offset sample: the turn k, or none when it is misaligned. -/
def offsetSample (fr ft : Nat) : Option MainsSlot :=
  let d := (fr + 1024 - ft % 1024) % 1024
  let j := (6 * d + 512) / 1024
  let residual := if 6 * d ≥ 1024 * j then 6 * d - 1024 * j else 1024 * j - 6 * d
  if residual > 256 then none else some (Fin.ofNat 6 j)

/-- R17: a sample applied to an entry's offset fields. -/
def SlotOffset.apply (o : SlotOffset) (k : MainsSlot) : SlotOffset :=
  if o.held = some k then { o with confirm := 0 }
  else
    let n := if o.confirm ≥ 1 ∧ o.candidate = k then o.confirm + 1 else 1
    if n ≥ 3 then { held := some k, candidate := k, confirm := 0 }
    else { held := o.held, candidate := k, confirm := n }

/-- R18: this station's slot `m` in the peer's numbering. -/
def toPeerSlot (o m : MainsSlot) : MainsSlot := Fin.ofNat 6 ((m.val + 6 - o.val) % 6)

/-- R18: the peer's slot `r` in this station's numbering. -/
def toOwnSlot (o r : MainsSlot) : MainsSlot := Fin.ofNat 6 ((r.val + o.val) % 6)

/-- R16: the slot-offset sample of a SOUND or NOTE header with phase fraction `ft` and trusted flag `tt`, against the receive
stamp `(fr, tr)`, applied to entry `i`. -/
def takeOffsetSample (i : EntryIx) (fr : Nat) (tr : Bool) (ft : Nat) (tt : Bool) (s : State) : State :=
  if tr && tt then
    match offsetSample fr ft with
    | none => bump .misalignedOffsets s
    | some k => modEntry i (fun e => { e with offset := e.offset.apply k }) s
  else s

end Sys2Proof.Machine
end

