-- ==== Sys2Proof/Machine/Estimator.lean ====
section
/-! DEFINITION. The channel estimator's SNR store and want counts (chapter Sounding and Channel Estimates). The placement of
SOUND entries stands with the control list, in Control.lean. -/

namespace Sys2Proof.Machine

/-! ### Cells -/

/-- R63: whether a cell is aged at `now`. -/
def Cell.old (now : LineTime) (c : Cell) : Bool := decide (c.count ≥ 1 ∧ c.last.dist now > Config.cellLife)

/-- R63: aging empties an old cell. -/
def Cell.age (now : LineTime) (c : Cell) : Cell := if c.old now then Cell.empty else c

/-- R63: aging of those cells of a set that `which` names. -/
def SnrSet.age (now : LineTime) (which : Pair → MainsSlot → Bool) (x : SnrSet) : SnrSet :=
  Vector.ofFn fun p => Vector.ofFn fun m => if which p m then x[p][m].age now else x[p][m]

/-- R63, R74: how many cells that aging empties. -/
def SnrSet.oldCount (now : LineTime) (which : Pair → MainsSlot → Bool) (x : SnrSet) : Nat :=
  ((List.finRange 3).map fun p => (List.finRange 6).countP fun m => which p m && x[p][m].old now).sum

/-- R63: the named cells of entry `i` are aged and counted. -/
def ageCells (i : EntryIx) (which : Pair → MainsSlot → Bool) (s : State) : State :=
  match s.entry i with
  | none => s
  | some e =>
    bumpBy .cellsAged (e.snr.oldCount s.lineTime which)
      (setEntry i (some { e with snr := e.snr.age s.lineTime which }) s)

/-- R63: all 18 cells of an entry. -/
def ageEntry (i : EntryIx) (s : State) : State := ageCells i (fun _ _ => true) s

/-- R63: all cells of every entry. -/
def ageAll (s : State) : State := (List.finRange 24).foldl (fun s i => ageEntry i s) s

/-- R62: one average moved toward its sample. -/
def stepAverage (avg sample : Int) : Int :=
  let d := sample - avg
  let q := d.tdiv 8
  avg + (if q = 0 then d.sign else q)

/-- R62: a cell (already tested for age) updated from the 768 samples of one group at `now`. -/
def Cell.update (now : LineTime) (samples : List Int) (c : Cell) : Cell where
  count := min 255 (c.count + 1)
  last := now
  avgs := if c.count = 0 then samples else List.zipWith stepAverage c.avgs samples

/-- R61: a reading clamped to −32..223. -/
def clampReading (x : Int) : Int := max (-32) (min 223 x)

/-- R61: the samples of one group of symbols: per carrier the clamped readings summed, divided by the number of symbols and
truncated toward zero. -/
def groupSamples (symbols : List (List Int)) : List Int :=
  (symbols.foldl (fun acc r => List.zipWith (fun a x => a + clampReading x) acc r)
    (List.replicate Config.carriers 0)).map fun total => total.tdiv symbols.length

/-- R61: the symbols noted in slot `m`. -/
def groupOf (slots : List MainsSlot) (readings : List (List Int)) (m : MainsSlot) : List (List Int) :=
  ((slots.zip readings).filter fun x => x.1 == m).map (·.2)

/-- R62: the cells of `p` updated, each from its own group. -/
def SnrSet.update (now : LineTime) (p : Pair) (slots : List MainsSlot) (readings : List (List Int)) (x : SnrSet) : SnrSet :=
  x.set p (Vector.ofFn fun m =>
    let g := groupOf slots readings m
    if g.isEmpty then x[p][m] else x[p][m].update now (groupSamples g))

/-- R64: a pair is eligible when it is enabled and each of its six cells has a count of 3 or more. -/
def eligiblePair (pairs : Vector Bool 3) (x : SnrSet) (p : Pair) : Bool :=
  pairs[p] && (List.finRange 6).all fun m => decide (x[p][m].count ≥ 3)

/-- R64: whether a set has an eligible pair. -/
def hasEligible (pairs : Vector Bool 3) (x : SnrSet) : Bool := (List.finRange 3).any (eligiblePair pairs x)

/-! ### Sound requests and wants -/

/-- R66: the sound request for a set: the lowest-numbered enabled pair that is not eligible, with the slots whose cell has a
count below 3. -/
def requestFor (pairs : Vector Bool 3) (x : SnrSet) : Option SoundRequest :=
  match (List.finRange 3).find? fun p => pairs[p] && !eligiblePair pairs x p with
  | none => none
  | some p =>
    some { pair := p
           slots := BitVec.ofNat 6 (bitsToNat ((List.finRange 6).map fun m => decide (x[p][m].count < 3))) }

/-- R67: a received request sets want counts on its pair: the translated slots to 3 with an offset held, all six without. -/
def raiseWants (o : Option MainsSlot) (q : SoundRequest) (w : Vector (Vector Nat 6) 3) : Vector (Vector Nat 6) 3 :=
  w.set q.pair (Vector.ofFn fun m =>
    match o with
    | none => 3
    | some off =>
      if (List.finRange 6).any fun r => q.slots.getLsbD r.val && toOwnSlot off r == m then 3 else w[q.pair][m])

/-- Whether any want count is not 0 (R69). -/
def Estimator.anyWant (x : Estimator) : Bool :=
  (List.finRange 3).any fun p => (List.finRange 6).any fun m => x.wants[p][m] != 0

/-- R71: whether a SOUND on pair `p` may contend while the own slot is `m`. -/
def Estimator.slotTest (x : Estimator) (p : Pair) (m : MainsSlot) : Bool :=
  x.wants[p][m] != 0 || (List.finRange 6).all fun k => x.wants[p][k] == 0

/-- R71: whether the placed SOUND entry is eligible now. -/
def State.soundEligible (s : State) : Bool :=
  match s.estimator.placed with
  | none => false
  | some x => s.estimator.slotTest x.pair s.slot

/-- R70: the pair of a placement attempt: the lowest-numbered pair with a want, or else the first enabled pair counting upward
from the rotation position. -/
def Estimator.choosePair (x : Estimator) (pairs : Vector Bool 3) : PlacedSound :=
  match (List.finRange 3).find? fun p => (List.finRange 6).any fun m => x.wants[p][m] != 0 with
  | some p => { pair := p, byRotation := false }
  | none =>
    { pair := (([0, 1, 2] : List (Fin 3)).map (x.rotation + ·)).find? (fun p => pairs[p]) |>.getD x.rotation
      byRotation := true }

end Sys2Proof.Machine
end

