-- ==== Sys2Proof/Machine/Builder.lean ====
section
/-! DEFINITION. The grid builder (chapter Grid Construction): the arithmetic of a build, its triggers and its start. The
completion, which hands grids to the grid store, stands in GridStore.lean. -/

namespace Sys2Proof.Machine

/-! ### Caps and levels (R85, R86) -/

/-- R85: a band contains a carrier. -/
def Band.contains (b : Band) (c : Nat) : Bool := decide (b.first ≤ c ∧ c < b.first + b.width)

/-- R85: the raw cap of a carrier under a list of bands: the lowest cap among the bands that contain it, 10 if none does. -/
def rawCap (bands : List Band) (c : Nat) : Nat :=
  bands.foldl (fun n b => if b.contains c then min n b.cap else n) 10

/-- R85: a raw cap rounded down to a loading level. -/
def capLevel (raw : Nat) : Level :=
  if raw ≤ 4 then Fin.ofNat 8 raw
  else if raw < 6 then 4
  else if raw < 8 then 5
  else if raw < 10 then 6
  else 7

/-- R85: the cap of a carrier under a list of bands. -/
def capOf (bands : List Band) (c : Nat) : Level := capLevel (rawCap bands c)

/-- R85: the caps of all carriers. -/
def caps (bands : List Band) : Column := (List.range Config.carriers).map (capOf bands)

/-- R86: the highest level whose threshold does not exceed the effective figure. -/
def levelFor (e : Int) : Level :=
  if e < 16 then 0
  else if e < 28 then 1
  else if e < 44 then 2
  else if e < 56 then 3
  else if e < 80 then 4
  else if e < 104 then 5
  else if e < 128 then 6
  else 7

/-- The smaller of two levels: the codes rise with the levels. -/
def lowerLevel (a b : Level) : Level := if a.val ≤ b.val then a else b

/-- R86: the level vector of one slot's averages. -/
def levelVector (cap : Column) (reserve : Nat) (avgs : List Int) : Column :=
  List.zipWith (fun a c => lowerLevel (levelFor (a - (reserve : Int))) c) avgs cap

/-- R19: the coded bits a column carries in a symbol. -/
def columnSum (c : Column) : Nat := (c.map Level.bits).sum

/-- The pointwise minimum of two columns. -/
def columnMin (a b : Column) : Column := List.zipWith lowerLevel a b

/-! ### Merge and rate (R88 to R91) -/

/-- R88: a column under construction with the number of slots mapped to it. Its sum is `columnSum levels`. -/
structure MergeColumn where
  levels : Column
  slots : Nat
deriving DecidableEq, Repr

/-- R88: the merge state: the columns in order of creation and the map so far. -/
structure MergeState where
  columns : List MergeColumn
  map : List Nat
deriving DecidableEq, Repr

/-- R88: the min-sum m(c). -/
def MergeColumn.minSum (c : MergeColumn) (v : Column) : Nat := columnSum (columnMin c.levels v)

/-- R88: the loss of joining a slot to a column. -/
def MergeColumn.loss (c : MergeColumn) (v : Column) : Nat :=
  (columnSum c.levels - c.minSum v) * c.slots + (columnSum v - c.minSum v)

/-- R89: the acceptance test. -/
def MergeColumn.accepts (c : MergeColumn) (v : Column) : Bool := decide (c.loss v * 32 ≤ columnSum v * (c.slots + 1))

/-- The index of the column of smallest loss among those that `ok` admits, the lowest-numbered on a tie. -/
def leastLoss (ok : MergeColumn → Bool) (v : Column) (cs : List MergeColumn) : Option Nat :=
  let scored := (cs.zipIdx.filter fun x => ok x.1)
  (scored.foldl (fun best x =>
    match best with
    | none => some x
    | some b => if x.1.loss v < b.1.loss v then some x else some b) none).map (·.2)

/-- R89: slot `v` joins column `i`. -/
def MergeState.join (m : MergeState) (i : Nat) (v : Column) : MergeState where
  columns := m.columns.modify i fun c => { levels := columnMin c.levels v, slots := c.slots + 1 }
  map := m.map ++ [i]

/-- R89: slot `v` takes a new column. -/
def MergeState.extend (m : MergeState) (v : Column) : MergeState where
  columns := m.columns ++ [{ levels := v, slots := 1 }]
  map := m.map ++ [m.columns.length]

/-- R88, R89: one slot placed: accepted, given a new column, or at four columns forced into the column of least loss. -/
def MergeState.place (m : MergeState) (v : Column) : MergeState :=
  match leastLoss (fun c => c.accepts v) v m.columns with
  | some i => m.join i v
  | none =>
    if m.columns.length < 4 then m.extend v
    else
      match leastLoss (fun _ => true) v m.columns with
      | some i => m.join i v
      | none => m.extend v

/-- R88 to R90: the merge of the six slot vectors, in slot order. -/
def mergeSlots (vs : List Column) : MergeState := vs.foldl MergeState.place { columns := [], map := [] }

/-- R91: the total of a grid: the sum over the six slots of the sum of the column mapped to each. -/
def gridTotal (sums : List Nat) (map : Vector (Fin 4) 6) : Nat :=
  ((List.finRange 6).map fun s => sums.getD map[s].val 0).sum

/-- R91: the grid rate in kbit/s. -/
def rateOf (total : Nat) : Nat := total * 125 / 32

/-- R91: the rate of a grid from its columns and map. -/
def gridRate (columns : List (Option Column)) (map : Vector (Fin 4) 6) : Nat :=
  rateOf (gridTotal (columns.map fun c => columnSum (c.getD [])) map)

/-! ### A build from its snapshot (R85 to R91) -/

/-- R85: the caps of a build: the lowest cap of either list. -/
def Snapshot.caps (x : Snapshot) : Column := Machine.caps (x.localBands ++ x.peerBands.getD [])

/-- R86: the six level vectors of a pair. -/
def Snapshot.vectors (x : Snapshot) (p : Pair) : List Column :=
  (List.finRange 6).map fun m => levelVector x.caps (x.margin + x.boost) x.cells[p][m].avgs

/-- R86: the total of a pair. -/
def Snapshot.total (x : Snapshot) (p : Pair) : Nat := ((x.vectors p).map columnSum).sum

/-- R87: the eligible pair of largest total, the lowest-numbered on a tie. -/
def Snapshot.choose (x : Snapshot) : Option Pair :=
  ((List.finRange 3).filter (eligiblePair x.pairs x.cells)).foldl (fun best p =>
    match best with
    | none => some p
    | some b => if x.total p > x.total b then some p else some b) none

/-- R76, R90: a grid as the builder produces it. -/
structure BuiltGrid where
  pair : Pair
  map : Vector (Fin 4) 6
  columns : List Column
  rate : Nat
deriving DecidableEq, Repr

/-- R87 to R91: the outcome of a build: a grid, or none for "no grid". -/
def Snapshot.build (x : Snapshot) : Option BuiltGrid :=
  match x.choose with
  | none => none
  | some p =>
    if x.total p = 0 then none
    else
      let m := mergeSlots (x.vectors p)
      let map : Vector (Fin 4) 6 := Vector.ofFn fun s => Fin.ofNat 4 (m.map.getD s.val 0)
      let columns := m.columns.map (·.levels)
      some { pair := p, map := map, columns := columns, rate := gridRate (columns.map some) map }

/-! ### Triggers and starts (R76 to R84, R96) -/

/-- R76: no cause. -/
def Causes.empty : Causes := ⟨false, false, false, false, false, false⟩
/-- R76: the single causes. -/
def Causes.ofEligibility : Causes := { Causes.empty with eligibility := true }
/-- R79. -/
def Causes.ofInterval : Causes := { Causes.empty with interval := true }
/-- R80. -/
def Causes.ofError : Causes := { Causes.empty with error := true }
/-- R81. -/
def Causes.ofUnknownGrid : Causes := { Causes.empty with unknownGrid := true }
/-- R81. -/
def Causes.ofCapConflict : Causes := { Causes.empty with capConflict := true }
/-- R82. -/
def Causes.ofAbandonment : Causes := { Causes.empty with abandonment := true }

/-- R76: error, unknown-grid and cap-conflict are forcing causes. -/
def Causes.forced (c : Causes) : Bool := c.error || c.unknownGrid || c.capConflict

/-- R78: a cause added to a set. -/
def Causes.union (a b : Causes) : Causes where
  eligibility := a.eligibility || b.eligibility
  interval := a.interval || b.interval
  error := a.error || b.error
  unknownGrid := a.unknownGrid || b.unknownGrid
  capConflict := a.capConflict || b.capConflict
  abandonment := a.abandonment || b.abandonment

/-- R82: the trigger set of the abandonment cause alone. -/
def Causes.abandonmentAlone (c : Causes) : Bool := c == Causes.ofAbandonment

/-- R163: the bad count of an error window. -/
def badCount (w : List Bool) : Nat := w.countP (! ·)

/-- R96: the boost at a build start without an error cause. -/
def decayBoost (boost bad : Nat) : Nat := if bad ≤ 1 then boost - 2 else boost

/-- R83: a build starts for entry `i` with the trigger set `c`. -/
def startBuild (i : EntryIx) (c : Causes) (s : State) : State :=
  let s := ageEntry i s
  match s.entry i with
  | none => s
  | some e =>
    let boost := if c.error then e.build.boost else decayBoost e.build.boost (badCount e.rx.window)
    let snapshot : Snapshot :=
      { cells := e.snr, margin := s.settings.margin, boost := boost, localBands := s.settings.bands,
        peerBands := e.peerBands, pairs := s.settings.pairs }
    let s := setEntry i (some { e with build := { e.build with
      state := .building s.lineTime c snapshot, boost := boost, retrySpent := c.abandonmentAlone } }) s
    let s := bump .buildsStarted s
    if c.forced then bump .buildsForced s else s

/-- R96: the boost after an error trigger is taken. -/
def raiseBoost (boost : Nat) : Nat := min 32 (boost + 8)

/-- R96, R97: the boost of an entry is raised, and the raise counted. An error trigger taken with the boost already at 32 is counted as
well, though it raises nothing: the manual does not say, and this is the model's choice (DESIGN CHOICE, assumption log 39). -/
def boostUp (i : EntryIx) (s : State) : State :=
  bump .boostRaises (modEntry i (fun e => { e with build := { e.build with boost := raiseBoost e.build.boost } }) s)

/-- R78, R80: a trigger with cause `c` for entry `i`: ignored unless the entry is HEARD or LINKED; an error cause raises the
boost first; then the cells are aged, and the build starts or the cause is remembered. -/
def trigger (i : EntryIx) (c : Causes) (s : State) : State :=
  if s.present i then
    let s := ageEntry i (if c.error then boostUp i s else s)
    match (s.entry i).map (·.build.state) with
    | some BuildState.idle => startBuild i c s
    | some (BuildState.building ..) =>
      bump .rememberedTriggers (modEntry i (fun e => { e with build := { e.build with
        remembered := some ((e.build.remembered.getD Causes.empty).union c) } }) s)
    | none => s
  else bump .ignoredTriggers s

/-- R81: a trigger for the entry of a station, which is not taken when the station has no entry. -/
def triggerFor (a : Addr) (c : Causes) (s : State) : State :=
  match s.findEntry a with
  | some i => trigger i c s
  | none => bump .ignoredTriggers s

/-- R78, R83: the remembered trigger taken up after a completion: a build starts at that instant while the entry is HEARD or
LINKED; otherwise it is dropped and counted once. -/
def takeRemembered (i : EntryIx) (s : State) : State :=
  match (s.entry i).bind (·.build.remembered) with
  | none => s
  | some c =>
    let s' := modEntry i (fun e => { e with build := { e.build with remembered := none } }) s
    if s.present i then startBuild i c s' else bump .ignoredTriggers s'

end Sys2Proof.Machine
end

