-- ==== Sys2Proof/Machine/Routes.lean ====
section
/-! DEFINITION. Rates, routes and the direct hold of the station table (chapter Station Table and Routes, 7.4 to 7.6). -/

namespace Sys2Proof.Machine

/-- R135: the direct rate r_d of the entry at an index (0 for an empty index). -/
def State.directRate (s : State) (i : EntryIx) : Nat :=
  match s.entry i with
  | none => 0
  | some e =>
    if e.state.present && e.hold.isNone then
      match s.roleGrid i .txActive with
      | some g => g.rate
      | none => Config.robustRate
    else 0

/-- R136: the rate of the reach list item of `p` that names address `a`, when it is above 0. -/
def Entry.onward (p : Entry) (a : Addr) : Option Nat :=
  match p.reach with
  | none => none
  | some items => (items.find? fun x => x.addr == a && decide (x.rate > 0)).map (·.rate)

/-- R136: the via rate, the harmonic combination of the two hops. -/
def harmonic (a b : Nat) : Nat := a * b / (a + b)

/-- R136: the via rate of `d` through `p`, when `p` is a valid via for it; `rates` are the direct rates. -/
def viaRate (table : Vector (Option Entry) 24) (rates : EntryIx → Nat) (p d : EntryIx) : Option Nat :=
  match table[p], table[d] with
  | some pe, some de =>
    if p ≠ d ∧ pe.state.present = true ∧ pe.relay = true ∧ rates p > 0 then
      (pe.onward de.addr).map (harmonic (rates p))
    else none
  | _, _ => none

/-- R136: the best valid via for `d` with its via rate: the largest rate, the lowest index on a tie. -/
def bestVia (table : Vector (Option Entry) 24) (rates : EntryIx → Nat) (d : EntryIx) : Option (EntryIx × Nat) :=
  (List.finRange 24).foldl (fun best p =>
    match viaRate table rates p d with
    | none => best
    | some r =>
      match best with
      | none => some (p, r)
      | some b => if r > b.2 then some (p, r) else best) none

/-- R137: whether a rate beats an old one by more than a quarter. -/
def beats (new old : Nat) : Bool := decide (16 * new > 20 * old)

/-- R137: the route of the entry at `d`, from its present route, its direct rate and the valid vias. -/
def chooseRoute (table : Vector (Option Entry) 24) (rates : EntryIx → Nat) (d : EntryIx) (e : Entry) : Route :=
  let best := bestVia table rates d
  let kept : Option (EntryIx × Nat) :=
    match e.route with
    | .via p => (viaRate table rates p d).map fun r => (p, r)
    | _ => none
  match kept with
  | some (p, r) =>
    let v := match best with
      | some (q, rq) => if q ≠ p ∧ beats rq r = true then (q, rq) else (p, r)
      | none => (p, r)
    if e.state.present && decide (rates d ≥ v.2) then .direct else .via v.1
  | none =>
    if e.state.present then
      match best with
      | none => .direct
      | some (q, rq) =>
        match e.route with
        | .via _ => if rates d ≥ rq then .direct else .via q
        | _ => if beats rq (rates d) then .via q else .direct
    else
      match best with
      | some (q, _) => .via q
      | none => .noRoute

/-- R138: the entry at an index with its direct rate and route formed again. -/
def State.rerouted (s : State) (i : EntryIx) : Option Entry :=
  (s.entry i).map fun e =>
    { e with txRate := s.directRate i, route := chooseRoute s.table s.directRate i e }

/-- R128: the direct rate and route of a new entry are formed. -/
def formRoute (i : EntryIx) (s : State) : State := setEntry i (s.rerouted i) s

/-- R138: a route recomputation: the direct rate and then the route of every entry, counting each route that changes. -/
def recompute (s : State) : State :=
  let table := Vector.ofFn s.rerouted
  let changed := (List.finRange 24).countP fun i => (table[i]).map (·.route) != (s.entry i).map (·.route)
  let s' := bumpBy .routeChanges changed { s with table := table }
  if changed = 0 then s' else markEval s'

/-- R126: the state that an entry's grids give it while it is heard. -/
def State.heardState (s : State) (i : EntryIx) : EntryState :=
  if (s.roleSlot i .txActive).isSome || (s.roleSlot i .rxCurrent).isSome then .linked else .heard

/-- R126: a notice from the grid store: an entry that is HEARD or LINKED takes the state that its grids give. -/
def gridNotice (i : EntryIx) (s : State) : State :=
  match s.entry i with
  | none => s
  | some e =>
    let st := s.heardState i
    if e.state.present && e.state != st then markEval (setEntry i (some { e with state := st }) s) else s

/-- R138: a notice that the TX-ACTIVE grid has changed, been committed or been freed. -/
def activeNotice (i : EntryIx) (s : State) : State := recompute (gridNotice i s)

/-! ### Direct hold (R133, R134) -/

/-- R133: the direct hold is set with its expiry 10 s on; from clear it counts and leads to a route recomputation. -/
def setHold (i : EntryIx) (s : State) : State :=
  match s.entry i with
  | none => s
  | some e =>
    let s' := setEntry i (some { e with hold := some (s.lineTime.plus 10000000) }) s
    if e.hold.isSome then s' else recompute (bump .directHolds s')

/-- R134: the direct hold is cleared, with a route recomputation. -/
def clearHold (i : EntryIx) (s : State) : State :=
  match s.entry i with
  | none => s
  | some e => if e.hold.isSome then recompute (setEntry i (some { e with hold := none }) s) else s

/-- R133: a no-response send: the streak increments, and a streak of 8 or more sets the hold. -/
def noResponseSend (i : EntryIx) (s : State) : State :=
  match s.entry i with
  | none => s
  | some e =>
    let n := min 255 (e.streak + 1)
    let s' := setEntry i (some { e with streak := n }) s
    if n ≥ 8 then setHold i s' else s'

/-- R133: a received response sets the streak to 0. -/
def clearStreak (i : EntryIx) (s : State) : State := modEntry i (fun e => { e with streak := 0 }) s

end Sys2Proof.Machine
end

