-- ==== Sys2Proof/Machine/Segments.lean ====
section
/-! DEFINITION. The transmit side of the segment engine and the charges of the frame buffer (chapter Segment Delivery, 8.1, 8.2
and 8.4). The charges are functions of the frames and segments held, so that nothing is held that is not charged. -/

namespace Sys2Proof.Machine

/-! ### Charges (R144) -/

/-- The charges of the frames of a list. -/
def chargesOf (fs : List HostFrame) : Nat := (fs.map HostFrame.charge).sum

/-- R144: the charges of the host frames NUMBERED to an entry. -/
def Entry.txCharge (e : Entry) : Nat := chargesOf (e.tx.numbered.map (·.frame))

/-- R144: the charges of the segments an entry's receive state holds. -/
def RxState.charge (r : RxState) : Nat :=
  (r.reorder.map fun x => segmentCharge x.payload.length).sum + (r.joined.map (·.charge)).getD 0

/-- R144: the transmit charge. -/
def State.txCharge (s : State) : Nat :=
  (s.queues.toList.map chargesOf).sum + (s.table.toList.map fun e => (e.map Entry.txCharge).getD 0).sum

/-- R144: the receive charge. -/
def State.rxCharge (s : State) : Nat :=
  (s.table.toList.map fun e => (e.map fun x => x.rx.charge).getD 0).sum + (s.port.delivery.map (·.charge)).sum

/-! ### Window and marks (R148, R152) -/

/-- R148: the oldest sequence of an unacked list. -/
def TxState.oldest (t : TxState) : Option Seq := t.unacked.head?.map (·.seq)

/-- R148: whether a host frame of `q` pieces has window room. -/
def TxState.windowRoom (t : TxState) (q : Nat) : Bool :=
  match t.oldest with
  | none => true
  | some o => decide ((t.next - o).toNat + q ≤ 32)

/-- R148: the span of sequence numbers, from the oldest to next, that limits window room; none while the list is empty. -/
def TxState.span (t : TxState) : Option Nat := t.oldest.map fun o => (t.next - o).toNat

/-- R152: whether window room has grown from `old` to `t`: the list has emptied, or the span has shrunk. -/
def TxState.roomGrew (t old : TxState) : Bool :=
  match old.span, t.span with
  | some _, none => true
  | some a, some b => decide (b < a)
  | none, _ => false

/-- R148: the marked segments, oldest first. -/
def TxState.marked (t : TxState) : List UnackedSegment := t.unacked.filter (·.marked)

/-- R152: whether an unacked list holds a marked segment. -/
def TxState.hasMarked (t : TxState) : Bool := t.unacked.any (·.marked)

/-- R149: a host frame is numbered: its pieces take the next sequences, join the end of the unacked list, marked and with
attempt count 0, and next advances. -/
def TxState.number (t : TxState) (f : HostFrame) : TxState where
  next := t.next + BitVec.ofNat 12 f.pieces
  unacked := t.unacked ++ (List.range f.pieces).map fun i =>
    { seq := t.next + BitVec.ofNat 12 i, frameId := f.id, piece := i, len := (f.piece i).length, attempts := 0,
      marked := true }
  numbered := t.numbered ++ [{ frame := f, first := t.next }]

/-- R155, R156: every segment of a host frame leaves the unacked list, and the frame is discarded. -/
def TxState.dropFrame (t : TxState) (id : Nat) : TxState where
  next := t.next
  unacked := t.unacked.filter fun x => x.frameId != id
  numbered := t.numbered.filter fun x => x.frame.id != id

/-- The segment with a sequence. -/
def TxState.find (t : TxState) (q : Seq) : Option UnackedSegment := t.unacked.find? fun x => x.seq == q

/-- Changes the segment with a sequence. -/
def TxState.modify (t : TxState) (q : Seq) (f : UnackedSegment → UnackedSegment) : TxState :=
  { t with unacked := t.unacked.map fun x => if x.seq = q then f x else x }

/-- R153: a good segment is removed; the second component says that its host frame has been delivered on the line. -/
def TxState.ackGood (t : TxState) (x : UnackedSegment) : TxState × Bool :=
  let left := t.unacked.filter fun y => y.seq != x.seq
  if left.any fun y => y.frameId == x.frameId then ({ t with unacked := left }, false)
  else ({ t with unacked := left, numbered := t.numbered.filter fun y => y.frame.id != x.frameId }, true)

/-- R153, R154, R155: a segment is marked and takes one attempt; at the retry limit its host frame is dropped, which the second
component says. -/
def TxState.retry (t : TxState) (limit : Nat) (x : UnackedSegment) : TxState × Bool :=
  if x.attempts + 1 ≥ limit then (t.dropFrame x.frameId, true)
  else (t.modify x.seq fun y => { y with attempts := y.attempts + 1, marked := true }, false)

/-- Changes the transmit state of an entry; R152: the unit is told when the list comes to hold a marked segment, and when its window
room grows, which the removal of a segment other than the oldest does not bring about. -/
def modTx (i : EntryIx) (f : TxState → TxState) (s : State) : State :=
  match s.entry i with
  | none => s
  | some e =>
    let t := f e.tx
    let s' := setEntry i (some { e with tx := t }) s
    if (t.hasMarked && !e.tx.hasMarked) || t.roomGrew e.tx then markEval s' else s'

/-- R153: one entry of a received response. -/
def applyEntry (i : EntryIx) (q : Seq) (good : Bool) (s : State) : State :=
  match (s.entry i).bind fun e => e.tx.find q with
  | none => bump .ignoredEntries s
  | some x =>
    if good then
      let s' := modTx i (fun t => (t.ackGood x).1) s
      if ((s.entry i).map fun e => (e.tx.ackGood x).2) = some true then bump .framesDelivered s' else s'
    else
      let s' := modTx i (fun t => (t.retry s.settings.segmentRetry x).1) s
      if ((s.entry i).map fun e => (e.tx.retry s.settings.segmentRetry x).2) = some true then bump .retryDrops s' else s'

/-- R153: the entries of a received response, in frame order. -/
def applyEntries (i : EntryIx) : List (Seq × Bool) → State → State
  | [], s => s
  | (q, good) :: rest, s => applyEntries i rest (applyEntry i q good s)

/-- R153: a received response to the DATA frame in flight; without an in-flight record (its neighbour was removed) every entry
finds nothing and is ignored. -/
def segmentResponse (entries : List Bool) (s : State) : State :=
  match s.inFlight with
  | none => bumpBy .ignoredEntries entries.length s
  | some r => { applyEntries r.entry (r.seqs.zip entries) s with inFlight := none }

/-- R154: one segment of an unanswered frame; a segment no longer on the list is passed over. -/
def applyNoAnswer (i : EntryIx) (q : Seq) (s : State) : State :=
  match (s.entry i).bind fun e => e.tx.find q with
  | none => s
  | some _ => applyEntry i q false s

/-- R154: the segments of an unanswered frame, in frame order. -/
def applyNoAnswers (i : EntryIx) : List Seq → State → State
  | [], s => s
  | q :: rest, s => applyNoAnswers i rest (applyNoAnswer i q s)

/-- R154: the no-response outcome of the DATA frame in flight. -/
def segmentNoResponse (s : State) : State :=
  match s.inFlight with
  | none => s
  | some r => { applyNoAnswers r.entry r.seqs s with inFlight := none }

/-! ### Host frames in their queues -/

/-- Writes a queue; a frame has joined or left it, which R176 lists. -/
def setQueue (q : QueueIx) (fs : List HostFrame) (s : State) : State :=
  markEval { s with queues := s.queues.set q fs }

/-- R156: the queue that holds a frame whose expiry is now. -/
def State.expiringQueue (s : State) (id : Nat) : Option QueueIx :=
  (List.finRange 6).find? fun q => s.queues[q].any fun f => f.id == id && f.expiry == s.lineTime

/-- R156: the entry to which a frame whose expiry is now is NUMBERED. -/
def State.expiringEntry (s : State) (id : Nat) : Option EntryIx :=
  (List.finRange 24).find? fun i =>
    match s.entry i with
    | some e => e.tx.numbered.any fun x => x.frame.id == id && x.frame.expiry == s.lineTime
    | none => false

/-- R156: a host frame expires in its queue or after numbering. -/
def expireFrame (id : Nat) (s : State) : State :=
  match s.expiringQueue id with
  | some q => bump .queueExpiry (setQueue q (s.queues[q].filter fun f => f.id != id) s)
  | none =>
    match s.expiringEntry id with
    | some i => bump .numberedExpiry (modTx i (fun t => t.dropFrame id) s)
    | none => s

end Sys2Proof.Machine
end

