-- ==== Sys2Proof/Machine/Control.lean ====
section
/-! DEFINITION. The control list (chapter Queues, Bridging and Relay, 9.5) with the offering of GRID parts (R105), and the
placement of SOUND entries (R69, R70). -/

namespace Sys2Proof.Machine

/-- R177: whether an entry is a second NOTE, a second SOUND or a second entry for the same part. -/
def ControlEntry.clashes : ControlEntry → ControlEntry → Bool
  | .note, .note => true
  | .sound _, .sound _ => true
  | .gridPart e t p, .gridPart e' t' p' => e == e' && t == t' && p == p'
  | .note, _ | .sound _, _ | .gridPart .., _ => false

/-- R177: whether the list takes an offer. -/
def State.controlTakes (s : State) (c : ControlEntry) : Bool :=
  decide (s.control.length < 16) && !s.control.any fun x => x.clashes c

/-- R177: a taken entry joins the tail. -/
def placeControl (c : ControlEntry) (s : State) : State := markEval { s with control := s.control ++ [c] }

/-- R105: the lowest unplaced part of an entry's issue. -/
def GridRecord.lowestUnplaced (g : GridRecord) : Option PartRecord :=
  g.parts.find? fun p => p.place == .unplaced

/-- R105: the part record with an index, changed. -/
def GridRecord.modPart (g : GridRecord) (i : Fin 4) (f : PartRecord → PartRecord) : GridRecord :=
  { g with parts := g.parts.map fun p => if p.index = i then f p else p }

/-- R105: the lowest unplaced part of entry `e`'s issue is offered; a refused part stays unplaced. -/
def offerLowest (e : EntryIx) (s : State) : State :=
  match (s.entry e).bind (·.store.lowestUnplaced), s.roleGrid e .rxPending with
  | some p, some g =>
    let c := ControlEntry.gridPart e g.tag p.index
    if s.controlTakes c then
      placeControl c (modEntry e (fun x => { x with store := x.store.modPart p.index fun y => { y with place := .onList } }) s)
    else s
  | _, _ => s

/-- R105: the parts of one issue, in index order, while the list takes them. -/
def offerIssue (e : EntryIx) (s : State) : State :=
  (List.range 4).foldl (fun s _ => offerLowest e s) s

/-- R105: room has appeared: the lowest unplaced part of each issue that has one, issue by issue in ascending entry index, and so
on while the list takes them (assumption log 25). -/
def offerAll (s : State) : State :=
  (List.range 4).foldl (fun s _ => (List.finRange 24).foldl (fun s e => offerLowest e s) s) s

/-- R178: the entries that `gone` names leave the control list; when it held 16, room has appeared. -/
def leaveControl (gone : ControlEntry → Bool) (s : State) : State :=
  let kept := s.control.filter fun c => !gone c
  if kept.length = s.control.length then s
  else
    let s' := markEval { s with control := kept }
    if s.control.length ≥ 16 then offerAll s' else s'

/-- Whether a control entry is a part of entry `e`'s issue. -/
def ControlEntry.partOf (e : EntryIx) : ControlEntry → Bool
  | .gridPart e' _ _ => e' == e
  | .note | .sound _ => false

/-- Whether a control entry is a SOUND entry. -/
def ControlEntry.isSound : ControlEntry → Bool
  | .sound _ => true
  | .note | .gridPart .. => false

/-! ### Placement of SOUND entries -/

/-- R69: a placement attempt: the pair is chosen by R70 and a SOUND entry is offered. Taken, the placed entry is set and the
deadline becomes none; refused, the deadline is a sound interval on. -/
def placementAttempt (s : State) : State :=
  let choice := s.estimator.choosePair s.settings.pairs
  let c := ControlEntry.sound choice.pair
  if s.controlTakes c then
    placeControl c { s with estimator := { s.estimator with placed := some choice, deadline := none } }
  else
    bump .placedSoundRefusal
      { s with estimator := { s.estimator with deadline := some (s.lineTime.plus (s.settings.soundMs * 1000)) } }

/-- R69: the interval path: the attempt is passed over while an entry is placed, and the deadline is then none. -/
def intervalPath (s : State) : State :=
  if s.estimator.placed.isSome then { s with estimator := { s.estimator with deadline := none } }
  else placementAttempt s

/-- R69: the 20 ms point. -/
def State.at20ms (s : State) : Bool :=
  match s.estimator.lastSound with
  | some t => s.lineTime == t.plus 20000
  | none => false

/-- R69: whether last sound is none or at least 20,000 µs have passed since it. -/
def State.soundRested (s : State) : Bool :=
  match s.estimator.lastSound with
  | some t => decide (t.dist s.lineTime ≥ 20000)
  | none => true

/-- R67, R71: the wants are raised, and a placed entry that becomes eligible is told to the unit. -/
def wantsRaised (o : Option MainsSlot) (q : SoundRequest) (s : State) : State :=
  let s' := bump .soundRequests { s with estimator := { s.estimator with wants := raiseWants o q s.estimator.wants } }
  if s'.soundEligible && !s.soundEligible then markEval s' else s'

/-- R69: the want path on a request. -/
def wantAttempt (s : State) : State :=
  if s.estimator.placed.isNone && s.soundRested then placementAttempt s else s

/-- R67, R69, R71: a received sound request from the entry with held offset `o`: the wants are raised, a placed entry that becomes
eligible is told to the unit, and the want path may attempt a placement. -/
def soundRequested (o : Option MainsSlot) (q : SoundRequest) (s : State) : State :=
  wantAttempt (wantsRaised o q s)

/-- R73: a SOUND with frame start `start` on pair `p` has been reported sent. -/
def soundSent (p : Pair) (start : LineTime) (s : State) : State :=
  let x := s.estimator
  let wants := match x.notedSlot with
    | some m => x.wants.set p (x.wants[p].set m (x.wants[p][m] - 1))
    | none => x.wants
  let rotated := match x.placed with
    | some y => y.byRotation
    | none => false
  { s with estimator :=
      { wants := wants
        lastSound := some start
        deadline := some (start.plus (s.settings.soundMs * 1000))
        placed := none
        rotation := if rotated then p + 1 else x.rotation
        notedSlot := none } }

end Sys2Proof.Machine
end

