-- ==== Sys2Proof/Machine/GridStore.lean ====
section
/-! DEFINITION. The grid store (chapter Grid Store and Grid Exchange): issuing grids, taking the answers to their parts,
assembling grids from parts, the tag check, the completion of builds, and the loading of DATA frames. -/

namespace Sys2Proof.Machine

/-! ### Issuing (R103 to R105) -/

/-- R103: the tag after a tag, with 255 followed by 1. -/
def tagAfter (t : Byte) : Byte := if t = 255#8 then 1#8 else t + 1#8

/-- R103: the tag given to a grid: the next tag, passing over the tags of the current and the pending grid. -/
def chooseTag (next : Byte) (used : List Byte) : Byte :=
  let pass := fun t => if used.contains t then tagAfter t else t
  pass (pass next)

/-- The tags of the entry's RX grids. -/
def State.rxTags (s : State) (e : EntryIx) : List Byte :=
  ((s.roleGrid e .rxCurrent).map (·.tag)).toList ++ ((s.roleGrid e .rxPending).map (·.tag)).toList

/-- R105, R107 to R109, R112: an issue ends: its part records go, with their control-list entries. -/
def endIssue (e : EntryIx) (st : IssueState) (s : State) : State :=
  leaveControl (ControlEntry.partOf e)
    (modEntry e (fun x => { x with store := { x.store with issue := st, parts := [] } }) s)

/-- R104: the part records of a new issue. -/
def newParts (k : Nat) : List PartRecord :=
  (List.range k).map fun i => { index := Fin.ofNat 4 i, place := .unplaced, inFlight := false, attempts := 0 }

/-- R104: the pending grid of an entry, if it holds one, is freed with its issue. -/
def dropPending (e : EntryIx) (s : State) : State :=
  match s.roleSlot e .rxPending with
  | some i => endIssue e .noIssue (setSlot i none s)
  | none => s

/-- R104: a grid handed over by the builder is issued to entry `e`, or dropped when no slot is FREE. -/
def issueGrid (e : EntryIx) (b : BuiltGrid) (s : State) : State :=
  match s.entry e with
  | none => s
  | some x =>
    let tag := chooseTag x.store.nextTag (s.rxTags e)
    let s := dropPending e s
    match s.freeSlot with
    | none => raisePoolExhausted (bump .droppedIssues s)
    | some i =>
      let grid : Grid :=
        { tag := tag, pair := b.pair, map := b.map, columns := b.columns.map some, rate := b.rate, issueTime := s.lineTime }
      let s := setSlot i (some { entry := e, role := .rxPending, grid := grid }) s
      let s := modEntry e (fun x => { x with store :=
        { nextTag := tagAfter tag, issue := .sending, parts := newParts b.columns.length } }) s
      offerIssue e s

/-! ### Completion of a build (R92 to R95) -/

/-- R93: the issue decision. -/
def issues (reference : Option Grid) (b : BuiltGrid) (forced : Bool) : Bool :=
  match reference with
  | none => true
  | some g =>
    b.pair != g.pair || decide ((max b.rate g.rate - min b.rate g.rate) * 16 ≥ g.rate) || forced

/-- R93: the reference: the RX-PENDING grid if one is held, and otherwise the RX-CURRENT grid. -/
def State.reference (s : State) (e : EntryIx) : Option Grid :=
  match s.roleGrid e .rxPending with
  | some g => some g
  | none => s.roleGrid e .rxCurrent

/-- R76: changes the build record of an entry. -/
def modBuild (e : EntryIx) (f : BuildRecord → BuildRecord) (s : State) : State :=
  modEntry e (fun x => { x with build := f x.build }) s

/-- R92: the result of a build dealt with: issued, held back or no grid, and recorded as the last outcome. -/
def dealWithResult (e : EntryIx) (c : Causes) (result : Option BuiltGrid) (s : State) : State :=
  match result with
  | some b =>
    if issues (s.reference e) b c.forced then
      modBuild e (fun r => { r with last := .issued b.pair b.columns.length b.rate })
        (issueGrid e b (bump .gridsIssued s))
    else
      modBuild e (fun r => { r with last := .heldBack b.pair b.columns.length b.rate }) (bump .gridsHeldBack s)
  | none => modBuild e (fun r => { r with last := .noGrid }) (bump .noGrid s)

/-- R77, R92: whether the build of an entry completes now. -/
def State.completionDue (s : State) (e : EntryIx) : Bool :=
  match (s.entry e).map (·.build.state) with
  | some (BuildState.building start _ _) => s.lineTime == start.plus Config.buildSpan
  | _ => false

/-- R92: the completion event of the build of entry `e`, in the order of that rule. -/
def completeBuild (e : EntryIx) (s : State) : State :=
  match (s.entry e).map (·.build.state) with
  | some (BuildState.building _ c snapshot) =>
    let s := dealWithResult e c snapshot.build s
    let s := modBuild e (fun r => { r with
      deadline := some (s.lineTime.plus (s.settings.rebuildS * 1000000)), state := .idle }) s
    takeRemembered e s
  | _ => s

/-- R79: the rebuild deadline of entry `e` is reached. -/
def rebuildDue (e : EntryIx) (s : State) : State :=
  match s.entry e with
  | none => s
  | some x =>
    let clear := modBuild e (fun r => { r with deadline := none })
    let current := (s.roleSlot e .rxCurrent).isSome
    let pending := (s.roleSlot e .rxPending).isSome
    if x.state.present && current then trigger e Causes.ofInterval (clear s)
    else if current || pending then
      modBuild e (fun r => { r with deadline := some (s.lineTime.plus (s.settings.rebuildS * 1000000)) }) s
    else if x.state.present && hasEligible s.settings.pairs x.snr then trigger e Causes.ofInterval (clear s)
    else clear s

/-! ### Outcomes of parts (R107 to R109, R112) -/

/-- R112: the RX-PENDING grid of an entry becomes RX-CURRENT; `byData` says that a DATA tag check promoted it. -/
def promote (e : EntryIx) (byData : Bool) (s : State) : State :=
  match s.roleSlot e .rxPending with
  | none => s
  | some i =>
    let s := freeRole e .rxCurrent s
    let s := setSlot i (s.pool[i].map fun g => { g with role := .rxCurrent }) s
    let s := endIssue e .delivered s
    let s := bump .gridsPromoted s
    let s := if byData then bump .promotionsByData s else s
    gridNotice e s

/-- R82: the abandonment trigger, suppressed while the retry is spent. -/
def abandonmentTrigger (e : EntryIx) (s : State) : State :=
  match s.entry e with
  | none => s
  | some x => if x.build.retrySpent then bump .abandonmentSuppressed s else trigger e Causes.ofAbandonment s

/-- R108: an issue is abandoned. -/
def abandonIssue (e : EntryIx) (s : State) : State :=
  abandonmentTrigger e (bump .issuesAbandoned (endIssue e .noIssue (freeRole e .rxPending s)))

/-- R109: an issue is withdrawn. -/
def withdrawIssue (e : EntryIx) (s : State) : State :=
  bump .capConflictsReceived (endIssue e .noIssue (freeRole e .rxPending s))

/-- R107: the part in flight that a control entry names, if its issue still holds it. -/
def State.partInFlight (s : State) (e : EntryIx) (tag : Byte) (part : Fin 4) : Option PartRecord :=
  match s.entry e, s.roleGrid e .rxPending with
  | some x, some g =>
    if g.tag = tag then x.store.parts.find? fun p => p.index == part && p.inFlight else none
  | _, _ => none

/-- R107: a part is not accepted: one attempt more, and at the retry limit its issue is abandoned. -/
def partNotTaken (e : EntryIx) (p : PartRecord) (s : State) : State :=
  let n := p.attempts + 1
  let s := modEntry e (fun x => { x with store := x.store.modPart p.index fun y =>
    { y with inFlight := false, attempts := n } }) s
  if n ≥ s.settings.partRetry then abandonIssue e s else s

/-- R107: a part is accepted: it leaves the control list, and when every part is accepted the pending grid is promoted. -/
def partAccepted (e : EntryIx) (tag : Byte) (p : PartRecord) (s : State) : State :=
  let s := modEntry e (fun x => { x with store := x.store.modPart p.index fun y =>
    { y with inFlight := false, place := .accepted } }) s
  let s := leaveControl (fun c => c == .gridPart e tag p.index) s
  if ((s.entry e).map fun x => x.store.parts.all fun y => y.place == .accepted) = some true then promote e false s else s

/-- R107: the received response to a GRID part; a part that its issue no longer holds is ignored here. -/
def partAnswered (c : Option ControlEntry) (st : RespStatus) (s : State) : State :=
  match c with
  | some (.gridPart e tag part) =>
    match s.partInFlight e tag part with
    | none => s
    | some p =>
      match st with
      | .accepted => partAccepted e tag p s
      | .noRoom => partNotTaken e p s
      | .gridUnknown => partNotTaken e p (bump .unexpectedStatus s)
      | .capConflict => withdrawIssue e s
  | _ => s

/-- R107: the no-response outcome of a GRID part. -/
def partNoResponse (c : Option ControlEntry) (s : State) : State :=
  match c with
  | some (.gridPart e tag part) =>
    match s.partInFlight e tag part with
    | none => s
    | some p => partNotTaken e p (bump .partRetries s)
  | _ => s

/-! ### The tag check (R110, R111) -/

/-- R110: the latched grid of an entry for a tag and pair in one role. -/
def State.latch (s : State) (e : EntryIx) (r : Role) (tag : Byte) (p : Pair) : Option Latched :=
  match s.roleSlot e r with
  | none => none
  | some i =>
    match s.pool[i] with
    | some g => if g.grid.tag = tag ∧ g.grid.pair = p then some { slot := i, grid := g.grid } else none
    | none => none

/-- R110: the resolution of a DATA header's grid tag. -/
def State.resolveTag (s : State) (h : Header) : Resolution :=
  match s.findEntry h.tx with
  | none => .unresolved
  | some e =>
    if h.tag = 0#8 then .robust
    else
      match s.latch e .rxCurrent h.tag h.pair with
      | some l => .latched l
      | none =>
        match s.latch e .rxPending h.tag h.pair with
        | some l => .latched l
        | none => .unresolved

/-- R112: a DATA frame whose latched grid its slot still holds as the entry's RX-PENDING grid promotes it. -/
def promoteByData (e : EntryIx) (r : Resolution) (s : State) : State :=
  match r with
  | .latched l => if s.pool[l.slot] = some { entry := e, role := .rxPending, grid := l.grid } then promote e true s else s
  | .robust | .unresolved => s

/-! ### Assembly (R113 to R116) -/

/-- R113: whether a column exceeds the local caps anywhere. -/
def exceedsCaps (bands : List Band) (c : Column) : Bool :=
  (c.zip (caps bands)).any fun x => decide (x.2.val < x.1.val)

/-- R113, R115: the entry's TX-ASSEMBLING slot is freed when its grid meets a condition. -/
def freeAssemblyIf (e : EntryIx) (cond : Grid → Bool) (s : State) : State :=
  match s.roleGrid e .txAssembling with
  | some g => if cond g then freeRole e .txAssembling s else s
  | none => s

/-- R114, R115: whether a part's pair, k, map and rate are those of a grid. -/
def GridPart.sameGrid (p : GridPart) (g : Grid) : Bool :=
  p.pair == g.pair && p.k == g.columns.length && p.map == g.map && p.rate == g.rate

/-- R114: whether a part is identical with the TX-ACTIVE grid of its tag. -/
def GridPart.identical (p : GridPart) (g : Grid) : Bool :=
  p.sameGrid g && (g.columns.getD p.index.val none) == some p.column

/-- R115: the record of a new assembly. -/
def GridPart.newGrid (p : GridPart) (now : LineTime) : Grid where
  tag := p.tag
  pair := p.pair
  map := p.map
  columns := List.replicate p.k none
  rate := p.rate
  issueTime := now

/-- R101, R115: column i written into a grid. -/
def Grid.store (g : Grid) (p : GridPart) : Grid := { g with columns := g.columns.set p.index.val (some p.column) }

/-- R116: whether every column is present. -/
def Grid.whole (g : Grid) : Bool := g.columns.all (·.isSome)

/-- R116: the assembly of an entry is committed: the TX-ACTIVE slot is freed, the assembly takes its role, and the rate is
computed from the columns and map. -/
def commit (e : EntryIx) (s : State) : State :=
  match s.roleSlot e .txAssembling with
  | none => s
  | some i =>
    let s := freeRole e .txActive s
    let s := setSlot i (s.pool[i].map fun h => { h with role := .txActive, grid := { h.grid with
      rate := gridRate h.grid.columns h.grid.map, issueTime := s.lineTime } }) s
    activeNotice e (bump .commits s)

/-- R115: without an assembly for the entry, one is opened for the part's grid in the lowest FREE slot, if there is one. -/
def openAssembly (e : EntryIx) (p : GridPart) (s : State) : State :=
  match s.roleSlot e .txAssembling, s.freeSlot with
  | none, some i => setSlot i (some { entry := e, role := .txAssembling, grid := p.newGrid s.lineTime }) s
  | _, _ => s

/-- R115, R116: column i is stored in the assembly at slot `x`, which is committed when it is whole. -/
def storeColumn (e : EntryIx) (p : GridPart) (x : SlotIx) (s : State) : State :=
  let s := setSlot x (s.pool[x].map fun h => { h with grid := h.grid.store p }) s
  let whole : Bool := (s.pool[x].map fun h => h.grid.whole).getD false
  if whole then commit e s else s

/-- R115, R116: a part that reaches this rule is stored, with the status that answers it. -/
def storePart (e : EntryIx) (p : GridPart) (s : State) : RespStatus × State :=
  let s := openAssembly e p (freeAssemblyIf e (fun g => g.tag != p.tag || !p.sameGrid g) s)
  match s.roleSlot e .txAssembling with
  | none => (.noRoom, bump .assemblyRefused s)
  | some i => (.accepted, storeColumn e p i s)

/-- R113 to R116: a valid GRID part from entry `e`, with the status that answers it. -/
def takePart (e : EntryIx) (p : GridPart) (s : State) : RespStatus × State :=
  if exceedsCaps s.settings.bands p.column then
    (.capConflict, bump .capConflictsSent (freeAssemblyIf e (fun g => g.tag == p.tag) s))
  else
    match s.roleGrid e .txActive with
    | some g =>
      if g.tag = p.tag then
        if p.identical g then (.accepted, s) else storePart e p (activeNotice e (freeRole e .txActive s))
      else storePart e p s
    | none => storePart e p s

/-- R117: a received GRID-UNKNOWN to a DATA frame with grid tag `tag`. -/
def gridUnknownReceived (e : EntryIx) (tag : Byte) (s : State) : State :=
  match s.roleGrid e .txActive with
  | some g => if g.tag = tag then activeNotice e (bump .gridUnknownReceived (freeRole e .txActive s)) else s
  | none => s

/-! ### Loading of DATA frames (R118 to R121) -/

/-- R119: the floor column of a grid. -/
def Grid.floorColumn (g : Grid) : Column :=
  match g.columns.map (·.getD []) with
  | [] => []
  | c :: rest => rest.foldl columnMin c

/-- R120: the column of each of the 96 payload symbols of a frame that starts at `start`, with held offset `o`. -/
def slotColumns (t : Tracker) (o : MainsSlot) (g : Grid) (start : LineTime) : List (Fin 4) :=
  (List.range Config.maxSymbols).map fun i => g.map[toPeerSlot o (t.projectedSlot (start.plus (192 + 32 * i)))]

/-- R118: the loading of a DATA frame to entry `n` that starts at `start`. -/
def chooseLoading (s : State) (n : EntryIx) (start : LineTime) : Loading :=
  match s.entry n, s.roleGrid n .txActive with
  | some e, some g =>
    match e.offset.held with
    | some o => if s.trusted && e.peerTrusted then .perSlot g (slotColumns s.tracker o g start) else .floor g
    | none => .floor g
  | _, _ => .robust

/-- R19: the sum of the column with an index. -/
def Grid.sumAt (g : Grid) (c : Fin 4) : Nat := columnSum ((g.columns.getD c.val none).getD [])

/-- R30: the symbol bits of the first `n` payload symbols under a loading. -/
def Loading.symbolBits (l : Loading) (n : Nat) : List Nat :=
  match l with
  | .robust | .sounding => List.replicate n Config.robustBits
  | .floor g => List.replicate n (columnSum g.floorColumn)
  | .perSlot g cols => (cols.take n).map g.sumAt

/-- R30: the capacity of the first `n` symbols. -/
def Loading.capacity (l : Loading) (n : Nat) : Nat := (l.symbolBits n).sum

/-- R30: the coded bits of a segment of `b` payload bytes. -/
def Loading.segmentBits (l : Loading) (b : Nat) : Nat :=
  match l with
  | .robust | .sounding => (b + 12) * 16
  | .floor _ | .perSlot .. => ceilDiv ((b + 12) * 8 * 4) 3

/-- R121: a loading that cannot carry the first segment within 96 symbols falls back to the robust map. -/
def Loading.fallback (l : Loading) (firstLen : Nat) : Loading :=
  if l.capacity Config.maxSymbols < l.segmentBits firstLen then .robust else l

/-- R24, R118: the grid tag of the header. -/
def Loading.tag : Loading → Byte
  | .floor g | .perSlot g _ => g.tag
  | .robust | .sounding => 0#8

/-- R24, R118: the floor flag. -/
def Loading.isFloor : Loading → Bool
  | .floor _ => true
  | .robust | .perSlot .. | .sounding => false

/-- R22: the pair of a DATA frame. -/
def Loading.pair (l : Loading) (home : Pair) : Pair :=
  match l with
  | .floor g | .perSlot g _ => g.pair
  | .robust | .sounding => home

/-- R30: the least number of symbols whose capacity covers `bits`. -/
def leastSymbols (bits : Nat) : List Nat → Nat
  | [] => 0
  | b :: rest => if bits = 0 then 0 else 1 + leastSymbols (bits - b) rest

end Sys2Proof.Machine
end

