-- ==== Sys2Proof/Machine/Queues.lean ====
section
/-! DEFINITION. The queue and bridge unit (chapter Queues, Bridging and Relay): admission, the head of a queue, the candidate, the
address map, host frames and carriage inspection. -/

namespace Sys2Proof.Machine

/-! ### Admission (R145, R167) -/

/-- R167: a carriage is offered to the queue it names: the depth test, then the buffer test. The Boolean says whether it was
admitted; the frame's identity and expiry are set here. -/
def admission (f : HostFrame) (s : State) : Bool × State :=
  let q := f.queue
  let cfg := s.settings.queues[q]
  if s.queues[q].length ≥ cfg.depth then (false, bump (.tailDrops q) s)
  else if s.txCharge + f.charge > Config.transmitLimit then (false, bump (.bufferDrops q) s)
  else
    let f := { f with id := s.nextFrameId, expiry := s.lineTime.plus (cfg.lifetimeMs * 1000) }
    (true, setQueue q (s.queues[q] ++ [f]) { s with nextFrameId := s.nextFrameId + 1 })

/-! ### The head of a queue (R172) -/

/-- R172: the next hop of a frame, by its hop count and its final station's entry. -/
def State.nextHop (s : State) (f : HostFrame) : Option EntryIx :=
  match s.findEntry f.final with
  | none => none
  | some d =>
    match s.entry d with
    | none => none
    | some e =>
      if f.hop = 0 then
        match e.route with
        | .direct => some d
        | .via i => some i
        | .noRoute => none
      else if e.state.present then some d else none

/-- R172: whether a head with next hop `n` is sendable. -/
def State.sendable (s : State) (f : HostFrame) (n : EntryIx) : Bool :=
  match s.entry n with
  | none => false
  | some e => e.tx.windowRoom f.pieces || e.tx.hasMarked

/-- R172: head frames whose final station has no entry are dropped. -/
def dropUnreachable (q : QueueIx) (s : State) : State :=
  let kept := s.queues[q].dropWhile fun f => (s.findEntry f.final).isNone
  let n := s.queues[q].length - kept.length
  if n = 0 then s else bumpBy .unreachableDrops n (setQueue q kept s)

/-! ### Candidates (R173, R174) -/

/-- R173: the tiers in the tier order. -/
def tierSequence (code : Fin 6) : List (Fin 3) :=
  match code with
  | 0 => [0, 1, 2]
  | 1 => [0, 2, 1]
  | 2 => [1, 0, 2]
  | 3 => [1, 2, 0]
  | 4 => [2, 0, 1]
  | 5 => [2, 1, 0]

/-- R173: the two queues of a tier, its lead queue first. -/
def tierQueues (leads : Vector Bool 3) (t : Fin 3) : List QueueIx :=
  let low : QueueIx := ⟨2 * t.val, by omega⟩
  let high : QueueIx := ⟨2 * t.val + 1, by omega⟩
  if leads[t] then [high, low] else [low, high]

/-- R173: the queue order. -/
def Settings.queueOrder (c : Settings) : List QueueIx := (tierSequence c.tierOrder).flatMap (tierQueues c.leads)

/-- R179: whether an entry of the control list is eligible for a candidate request. -/
def State.controlEligible (s : State) : ControlEntry → Bool
  | .note => true
  | .sound p => s.estimator.slotTest p s.slot
  | .gridPart e tag part => s.present e && (s.partInFlight e tag part).isNone

/-- R174: the access priority of a neighbour's resends: that of the queue its oldest marked segment's host frame names. -/
def State.resendPriority (s : State) (e : Entry) : Fin 4 :=
  match e.tx.marked.head? with
  | none => 0
  | some x =>
    match e.tx.numbered.find? fun y => y.frame.id == x.frameId with
    | some y => s.settings.queues[y.frame.queue].priority
    | none => 0

/-- R174: the first queue, of those listed, whose head is sendable; heads are examined on the way. -/
def searchQueues : List QueueIx → State → Option Candidate × State
  | [], s => (none, s)
  | q :: rest, s =>
    let s := dropUnreachable q s
    let found : Option Candidate :=
      match s.queues[q].head? with
      | none => none
      | some f =>
        match s.nextHop f with
        | none => none
        | some n =>
          if s.sendable f n then some { kind := .queueHead q n, priority := s.settings.queues[q].priority } else none
    match found with
    | some c => (some c, s)
    | none => searchQueues rest s

/-- R174: the HEARD or LINKED entry of lowest index with a marked segment. -/
def State.resendCandidate (s : State) : Option Candidate :=
  match (List.finRange 24).find? fun i => s.present i && ((s.entry i).map (·.tx.hasMarked)).getD false with
  | none => none
  | some i => some { kind := .resends i, priority := ((s.entry i).map s.resendPriority).getD 0 }

/-- R174: the answer to a candidate request. -/
def findCandidate (s : State) : Option Candidate × State :=
  match s.control.find? s.controlEligible with
  | some c => (some { kind := .control c, priority := 3 }, s)
  | none =>
    match searchQueues s.settings.queueOrder s with
    | (some c, s') => (some c, s')
    | (none, s') => (s'.resendCandidate, s')

/-- R174, R176: a candidate request, which also sets the holds-candidate indicator. -/
def candidateRequest (s : State) : Option Candidate × State :=
  let r := findCandidate s
  (r.1, { r.2 with holdsCandidate := r.1.isSome })

/-! ### The address map (R180, R181) -/

/-- R180: the index that maps a device address. -/
def State.findDevice (s : State) (a : Addr) : Option MapIx :=
  (List.finRange 128).find? fun i => (s.addressMap[i].map (·.device)) == some a

/-- Writes an index of the address map. -/
def setMap (i : MapIx) (m : Option MapEntry) (s : State) : State := { s with addressMap := s.addressMap.set i m }

/-- R180: the index last learned longest ago, the lower index on a tie. -/
def State.oldestMap (s : State) : MapIx :=
  (List.finRange 128).foldl (fun best i =>
    let age := fun (k : MapIx) => ((s.addressMap[k]).map fun m => m.learned.dist s.lineTime).getD 0
    if age i > age best then i else best) 0

/-- R180: the map learns a device address with a target. -/
def learnMap (a : Addr) (t : MapTarget) (s : State) : State :=
  let m : MapEntry := { device := a, target := t, learned := s.lineTime }
  match s.findDevice a with
  | some i =>
    let moved := (s.addressMap[i].map (·.target)) != some t
    let s := setMap i (some m) s
    if moved then bump .addressMoves s else s
  | none =>
    match (List.finRange 128).find? fun i => s.addressMap[i].isNone with
    | some i => setMap i (some m) s
    | none => bump .mapReplacements (setMap s.oldestMap (some m) s)

/-- R181: the map entries that name a station are removed. -/
def forgetStation (a : Addr) (s : State) : State :=
  { s with addressMap := s.addressMap.map fun m =>
      match m with
      | some x => if x.target = .station a then none else some x
      | none => none }

/-! ### Frames from the host (R169 to R171) -/

/-- R170: a carriage made here. -/
def State.carriage (s : State) (final : Addr) (q : QueueIx) (eth : List Byte) : HostFrame where
  id := 0
  origin := s.settings.station
  final := final
  hop := 0
  queue := q
  eth := eth
  expiry := 0#32

/-- R171: whether an entry receives a copy: HEARD, LINKED or REMOTE with a route. -/
def Entry.takesCopy (e : Entry) : Bool := e.state != .stale && e.route != .noRoute

/-- R171: one copy of a replicated frame is offered. -/
def offerCopy (q : QueueIx) (eth : List Byte) (final : Addr) (s : State) : State :=
  match admission (s.carriage final q eth) s with
  | (true, s') => bump .copiesQueued s'
  | (false, s') => bump .copiesDropped s'

/-- R171: a host frame is replicated. -/
def replicate (q : QueueIx) (eth : List Byte) (s : State) : State :=
  let finals := (List.finRange 24).filterMap fun i =>
    match s.entry i with
    | some e => if e.takesCopy then some e.addr else none
    | none => none
  if finals.isEmpty then bump .noDestination s
  else finals.foldl (fun s a => offerCopy q eth a s) (bump .replications s)

/-- R169: the queue a frame is classified to. -/
def Settings.classify (c : Settings) (vlan : Option (Fin 8)) : QueueIx :=
  match vlan with
  | some p => c.vlan[p]
  | none => c.defaultQueue

/-- R169: an individual source address is learned with target LOCAL. -/
def learnSource (a : Addr) (s : State) : State := if a.isGroup then s else learnMap a .localHost s

/-- R169, R170: a host frame handed to the unit. -/
def hostFrame (eth : List Byte) (s : State) : State :=
  let v := ethView eth
  let s := learnSource v.src s
  let q := s.settings.classify v.vlan
  if v.dst.isGroup then replicate q eth s
  else
    match (s.findDevice v.dst).bind fun i => s.addressMap[i] with
    | none => replicate q eth s
    | some m =>
      match m.target with
      | .localHost => bump .localDiscards s
      | .station a => (admission (s.carriage a q eth) s).2

/-! ### Carriage inspection and relay (R182, R183) -/

/-- R183: a relay drop. -/
def relayDrop (s : State) : State := raiseRelayDrop (bump .relayDrops s)

/-- R183: whether a station is HEARD or LINKED here. -/
def State.reaches (s : State) (a : Addr) : Bool :=
  match s.findEntry a with
  | some i => s.present i
  | none => false

/-- R183: the relay test. -/
def relay (origin final : Addr) (hop : Nat) (q : QueueIx) (eth : List Byte) (s : State) : State :=
  if hop = 0 ∧ s.settings.relay = true ∧ s.reaches final = true then
    match admission { id := 0, origin := origin, final := final, hop := 1, queue := q, eth := eth, expiry := 0#32 } s with
    | (true, s') => bump .relayedCarriages s'
    | (false, s') => relayDrop s'
  else relayDrop s

/-- R182: a carriage delivered to this station's host. -/
def deliver (origin : Addr) (eth : List Byte) (charge : Nat) (s : State) : State :=
  let s := { s with port := { s.port with delivery := s.port.delivery ++ [{ eth := eth, charge := charge }] } }
  let s := bump .framesToHost s
  let src := (ethView eth).src
  if !src.isGroup && (s.findEntry origin).isSome then learnMap src (.station origin) s else s

/-- R182: carriage inspection of a reassembled run with its receive charge. -/
def inspect (j : JoinedPieces) (s : State) : State :=
  let b := j.bytes
  let hop := (byteAt 12 b).toNat
  let queue := (byteAt 13 b).toNat
  let len := fieldAt 14 2 b
  if h : b.length = len + 16 ∧ 64 ≤ len ∧ len ≤ 1522 ∧ hop ≤ 1 ∧ 1 ≤ queue ∧ queue ≤ 6 then
    let origin := addrAt 0 b
    let final := addrAt 6 b
    let eth := b.drop 16
    if origin = s.settings.station then bump .loopDrops s
    else if final = s.settings.station then deliver origin eth j.charge s
    else relay origin final hop ⟨queue - 1, by omega⟩ eth s
  else bump .carriageErrors s

end Sys2Proof.Machine
end

