-- ==== Sys2Proof/Machine/Receive.lean ====
section
/-! DEFINITION. The receive side of the segment engine (chapter Segment Delivery, 8.5). -/

namespace Sys2Proof.Machine

/-- Changes the receive state of an entry. -/
def modRx (i : EntryIx) (f : RxState → RxState) (s : State) : State := modEntry i (fun e => { e with rx := f e.rx }) s

/-- R159: the receive state started again from the floor `f`. -/
def RxState.restartAt (f : Seq) (r : RxState) : RxState :=
  { r with expected := some f, reorder := [], assembling := false, joined := none }

/-- R159: the floor sequence applied; the counter of its case, if it has one. -/
def RxState.floorStep (f : Seq) (r : RxState) : RxState × Option Counter :=
  match r.expected with
  | none => (r.restartAt f, none)
  | some e =>
    if f = e then (r, none)
    else if Seq.ahead f e then
      ({ r with expected := some f, reorder := r.reorder.filter (fun x => decide ((x.seq - f).toNat ≤ 63)),
                assembling := false, joined := none }, some .floorSkips)
    else if (e - f).toNat ≤ 32 then (r, none)
    else (r.restartAt f, some .resyncs)

/-- What feeding one segment to reassembly gives: the receive state, the host frame it completes, and the counter of its case. -/
structure Feeding where
  rx : RxState
  complete : Option JoinedPieces
  count : Option Counter
deriving DecidableEq, Repr

/-- R161, R162: after a segment is appended or opens a run of pieces: too long is discarded, a last flag completes it. -/
def RxState.joinTo (r : RxState) (j : JoinedPieces) (last : Bool) (count : Option Counter) : Feeding :=
  if j.bytes.length > 1538 then
    { rx := { r with assembling := false, joined := none }, complete := none, count := some .outOfStep }
  else if last then { rx := { r with assembling := true, joined := none }, complete := some j, count := count }
  else { rx := { r with assembling := true, joined := some j }, complete := none, count := count }

/-- R161: a segment fed to reassembly. -/
def RxState.feed (r : RxState) (x : StoredSegment) : Feeding :=
  let opened : JoinedPieces := { bytes := x.payload, charge := segmentCharge x.payload.length }
  if r.assembling then
    match r.joined with
    | none =>
      if x.first then r.joinTo opened x.last none
      else { rx := { r with assembling := false }, complete := none, count := some .outOfStep }
    | some j =>
      if x.first then r.joinTo opened x.last (some .outOfStep)
      else r.joinTo { bytes := j.bytes ++ x.payload, charge := j.charge + segmentCharge x.payload.length } x.last none
  else if x.first then r.joinTo opened x.last none
  else { rx := r, complete := none, count := some .huntingDiscards }

/-- The counter of a case, if it has one. -/
def bumpOpt : Option Counter → State → State
  | some c, s => bump c s
  | none, s => s

/-- R161: one delivery in sequence order: the segment with sequence E is taken from the reorder list, E advances, and the segment
is fed to reassembly; a complete host frame goes to carriage inspection (R162). -/
def deliverOne (i : EntryIx) (s : State) : State :=
  match s.entry i with
  | none => s
  | some e =>
    match e.rx.expected with
    | none => s
    | some q =>
      match e.rx.reorder.find? fun x => x.seq == q with
      | none => s
      | some x =>
        let r := { e.rx with expected := some (q + 1#12), reorder := e.rx.reorder.filter fun y => y.seq != q }
        let fed := r.feed x
        let s := bumpOpt fed.count (setEntry i (some { e with rx := fed.rx }) s)
        match fed.complete with
        | some j => inspect j (bump .framesReassembled s)
        | none => s

/-- R161: deliveries until E is not present; there are no more of them than stored segments. -/
def deliverAll (i : EntryIx) (s : State) : State :=
  (List.range (((s.entry i).map fun e => e.rx.reorder.length).getD 0)).foldl (fun s _ => deliverOne i s) s

/-- R160: the verdict on an intact segment, with its effect. -/
def judgeIntact (i : EntryIx) (q : Seq) (first last : Bool) (payload : List Byte) (s : State) : Bool × State :=
  match (s.entry i).bind fun e => e.rx.expected.map fun x => (e, x) with
  | none => (false, s)
  | some (e, x) =>
    if Seq.ahead x q then (true, bump .duplicates s)
    else if (q - x).toNat ≤ 63 then
      if e.rx.reorder.any fun y => y.seq == q then (true, bump .duplicates s)
      else if s.rxCharge + segmentCharge payload.length ≤ Config.receiveLimit then
        (true, deliverAll i (modRx i (fun r => { r with reorder := r.reorder ++
          [{ seq := q, first := first, last := last, payload := payload }] }) s))
      else (false, bump .reserveFull s)
    else (false, bump .beyondWindow s)

/-- R160: the verdicts on the segments of a frame, in frame order. -/
def judgeAll (i : EntryIx) : List RxSegment → State → List Bool × State
  | [], s => ([], s)
  | .damaged _ :: rest, s =>
    let (vs, s) := judgeAll i rest (bump .damagedSegments s)
    (false :: vs, s)
  | .intact q first last payload :: rest, s =>
    let (v, s) := judgeIntact i q first last payload s
    let (vs, s) := judgeAll i rest s
    (v :: vs, s)

/-- R163: a verdict by CRC entered in a window of at most 64. -/
def pushVerdict (w : List Bool) (good : Bool) : List Bool := (w ++ [good]).drop (w.length + 1 - 64)

/-- R163: one verdict entered for the neighbour; at 8 bad the window is emptied and the error trigger given. -/
def enterVerdict (i : EntryIx) (good : Bool) (s : State) : State :=
  match s.entry i with
  | none => s
  | some e =>
    let w := pushVerdict e.rx.window good
    if badCount w ≥ 8 then
      trigger i Causes.ofError (bump .errorTriggers (modRx i (fun r => { r with window := [] }) s))
    else modRx i (fun r => { r with window := w }) s

/-- R28, R163: whether a segment counts as good by CRC. -/
def RxSegment.good : RxSegment → Bool
  | .intact .. => true
  | .damaged _ => false

/-- R159 to R163: a DATA frame from entry `i` that passed the tag check, with floor sequence `f`; the verdicts answer it. -/
def takeData (i : EntryIx) (f : Seq) (segments : List RxSegment) (s : State) : List Bool × State :=
  let step := (s.entry i).map fun e => e.rx.floorStep f
  let s := match step with
    | some (r, c) => bumpOpt c (modRx i (fun _ => r) s)
    | none => s
  let s := deliverAll i s
  let (vs, s) := judgeAll i segments s
  (vs, segments.foldl (fun s x => enterVerdict i x.good s) s)

end Sys2Proof.Machine
end

