-- ==== Sys2Proof/Machine/Compose.lean ====
section
/-! DEFINITION. Composition of the frames this station sends: DATA (R30, R149 to R151), GRID parts (R106), SOUND (R72), NOTE
(R140) and RESP (R31). -/

namespace Sys2Proof.Machine

/-! ### Thermal allowance (R55, R56) -/

/-- R55: the remaining allowance of the duty period. -/
def State.remaining (s : State) : Nat := s.settings.dutyPercent * 100 - s.thermal.used

/-- R56: the DATA symbol limit; none when no DATA frame fits. -/
def State.symbolLimit (s : State) : Option Nat :=
  if s.thermal.limited then
    if s.remaining < 224 then none else some (min Config.maxSymbols ((s.remaining - 192) / 32))
  else some Config.maxSymbols

/-- R56: whether a frame of this airtime fits. -/
def State.airtimeFits (s : State) (airtime : Nat) : Bool := !s.thermal.limited || decide (airtime ≤ s.remaining)

/-! ### Offering and taking segments (R30, R150) -/

/-- R150: the payload length of the first segment offered for next hop `n`, from the marked segments, or from the head of the
queue when the candidate is one. -/
def State.firstOffered (s : State) (n : EntryIx) (from_ : Option QueueIx) : Option Nat :=
  match s.entry n with
  | none => none
  | some e =>
    match e.tx.marked.head? with
    | some x => some x.len
    | none =>
      match from_ with
      | none => none
      | some q =>
        match s.queues[q].head? with
        | none => none
        | some f => if s.nextHop f = some n ∧ e.tx.windowRoom f.pieces = true then some (f.piece 0).length else none

/-- What taking a run of offered segments gives: the segments taken, their coded bits with those before them, and the first
segment that was offered and not taken. -/
structure Taking where
  taken : List UnackedSegment
  bits : Nat
  stopped : Option UnackedSegment
deriving DecidableEq, Repr

/-- R30: segments are added whole, in order, while the running sum does not exceed the capacity and there are fewer than 8; the
first that does not fit ends the list. -/
def takeSegments (l : Loading) (cap : Nat) : Nat → Nat → List UnackedSegment → Taking
  | _, bits, [] => { taken := [], bits := bits, stopped := none }
  | n, bits, x :: rest =>
    if n < Config.maxSegments ∧ bits + l.segmentBits x.len ≤ cap then
      let t := takeSegments l cap (n + 1) (bits + l.segmentBits x.len) rest
      { t with taken := x :: t.taken }
    else { taken := [], bits := bits, stopped := some x }

/-- R149, R150: the pieces of the frames at the head of queue `q`, frame by frame; a frame is numbered when its first piece is
taken. -/
def takeHeads (l : Loading) (cap : Nat) (q : QueueIx) (n : EntryIx) : Nat → Taking → State → Taking × State
  | 0, t, s => (t, s)
  | fuel + 1, t, s =>
    match s.queues[q] with
    | [] => (t, s)
    | f :: rest =>
      match s.entry n with
      | none => (t, s)
      | some e =>
        if s.nextHop f = some n ∧ e.tx.windowRoom f.pieces = true then
          let pieces := (e.tx.number f).unacked.drop e.tx.unacked.length
          let more := takeSegments l cap t.taken.length t.bits pieces
          let t' : Taking := { taken := t.taken ++ more.taken, bits := more.bits, stopped := more.stopped }
          if more.taken.isEmpty then (t', s)
          else
            let s := setQueue q rest (modTx n (fun x => x.number f) s)
            if more.stopped.isSome then (t', s) else takeHeads l cap q n fuel t' s
        else (t, s)

/-- R28: the bytes of a taken segment, from the host frame it belongs to. -/
def TxState.segmentWire (t : TxState) (x : UnackedSegment) : List Byte :=
  match t.numbered.find? fun y => y.frame.id == x.frameId with
  | none => []
  | some y => segmentBytes x.seq (x.piece == 0) (x.piece + 1 == y.frame.pieces) (y.frame.piece x.piece)

/-- R151: the taken segments are unmarked. -/
def TxState.unmark (t : TxState) (taken : List Seq) : TxState :=
  { t with unacked := t.unacked.map fun x => if taken.contains x.seq then { x with marked := false } else x }

/-- R24: a header of the station, with the values it writes at the frame start `now` (R14). -/
def State.header (s : State) (k : FrameKind) (rx : Addr) (p : Pair) (prio : Fin 4) (symbols : Nat) : Header where
  kind := k
  house := s.settings.house
  tx := s.settings.station
  rx := rx
  pair := p
  priority := prio
  trusted := s.trusted
  floor := false
  phase := BitVec.ofNat 10 s.phase
  tag := 0#8
  symbols := symbols
  segments := 0
  floorSeq := 0#12

/-- R21: a frame that starts now. -/
def State.frame (s : State) (h : Header) (payload : List Byte) (l : Loading) (c : Option ControlEntry) : TxFrame where
  header := h
  payload := payload
  loading := l
  start := s.lineTime
  stop := s.lineTime.plus h.duration
  control := c

/-- R19, R20: the information bytes that the first `n` symbols carry under a loading, by its code rate. -/
def Loading.infoBytes (l : Loading) (n : Nat) : Nat :=
  match l with
  | .robust | .sounding => l.capacity n / 16
  | .floor _ | .perSlot .. => l.capacity n * 3 / 32

/-- R21: a payload followed by zero fill to the end of its last symbol (assumption log 38). -/
def Loading.fill (l : Loading) (n : Nat) (payload : List Byte) : List Byte :=
  payload ++ List.replicate (l.infoBytes n - payload.length) 0#8

/-- R120: the loading of a composed frame holds the columns of its own payload symbols. -/
def Loading.cut (l : Loading) (n : Nat) : Loading :=
  match l with
  | .perSlot g cols => .perSlot g (cols.take n)
  | .robust => .robust
  | .floor g => .floor g
  | .sounding => .sounding

/-- R118, R121: the loading of a DATA frame to `n` whose first segment has `firstLen` payload bytes. -/
def State.loadingFor (s : State) (n : EntryIx) (firstLen : Nat) (start : LineTime) : Loading :=
  (chooseLoading s n start).fallback firstLen

/-- R56: whether a DATA frame carrying a first segment of `firstLen` bytes to `n` fits; `start` is its frame start. -/
def State.dataFits (s : State) (n : EntryIx) (firstLen : Nat) (start : LineTime) : Bool :=
  let l := s.loadingFor n firstLen start
  match s.symbolLimit with
  | none => false
  | some limit => decide (l.segmentBits firstLen ≤ l.capacity limit)

/-- The counters of a composed DATA frame: first sendings and resends (R164), floor frames and fallbacks (R123), and thermal
shortening (R58). -/
def countComposition (s0 : State) (n : EntryIx) (start : LineTime) (l : Loading) (cap : Nat) (t : Taking) (s : State) : State :=
  let resent := t.taken.countP fun x => decide (x.attempts ≥ 1)
  let s := bumpBy .segmentsSent (t.taken.length - resent) s
  let s := bumpBy .segmentsResent resent s
  let s := if l.isFloor then bump .floorFrames s else s
  let s := if l = .robust ∧ chooseLoading s0 n start ≠ .robust then bump .loadingFallbacks s else s
  match t.stopped with
  | some x =>
    if t.taken.length < Config.maxSegments ∧ cap < t.bits + l.segmentBits x.len ∧
        t.bits + l.segmentBits x.len ≤ l.capacity Config.maxSymbols then bump .thermalShortening s else s
  | none => s

/-- R150: the segments taken for next hop `n`, whose marked segments are `marked`: from those first, and then, when the candidate
is a queue head and none of those was left over, from the heads of its queue. -/
def takeOffered (l : Loading) (cap : Nat) (n : EntryIx) (from_ : Option QueueIx) (marked : List UnackedSegment) (s : State) :
    Taking × State :=
  let t := takeSegments l cap 0 0 marked
  match from_ with
  | some q => if t.stopped.isSome then (t, s) else takeHeads l cap q n (Config.maxSegments + 1) t s
  | none => (t, s)

/-- R30, R150, R151: a DATA frame composed now for next hop `n` at access priority `prio`, from the marked segments and, when the
candidate is a queue head, from queue `from_`; none when no segment is taken. -/
def composeData (n : EntryIx) (from_ : Option QueueIx) (prio : Fin 4) (limit firstLen : Nat) (s : State) :
    Option (TxFrame × State) :=
  let l := s.loadingFor n firstLen s.lineTime
  let cap := l.capacity limit
  match s.entry n with
  | none => none
  | some e =>
    let r := takeOffered l cap n from_ e.tx.marked s
    let t := r.1
    if t.taken.isEmpty then none
    else
      let seqs := t.taken.map (·.seq)
      let s1 := modTx n (fun x => x.unmark seqs) r.2
      match s1.entry n with
      | none => none
      | some e1 =>
        let symbols := leastSymbols t.bits (l.symbolBits limit)
        let h : Header :=
          { s.header .data e1.addr (l.pair s.settings.homePair) prio symbols with
            tag := l.tag
            floor := l.isFloor
            segments := t.taken.length
            floorSeq := e1.tx.oldest.getD 0#12 }
        let payload := l.fill symbols (t.taken.map e1.tx.segmentWire).flatten
        let s2 := { s1 with inFlight := some { entry := n, seqs := seqs, tag := l.tag } }
        some (s.frame h payload (l.cut symbols) none, countComposition s n s.lineTime l cap t s2)

/-! ### Control frames -/

/-- R140: the HEARD and LINKED entries in ascending index order. -/
def State.heardEntries (s : State) : List Entry :=
  ((List.finRange 24).filterMap s.entry).filter fun e => e.state.present

/-- R140: the contents of a NOTE formed now. -/
def State.noteContents (s : State) : NotePayload where
  relay := s.settings.relay
  bands := s.settings.bands
  items := (s.heardEntries.take 23).map fun e =>
    { addr := e.addr, rate := e.txRate, request := requestFor s.settings.pairs e.snr }

/-- R140: the payload symbols of a NOTE formed now. -/
def State.noteSymbols (s : State) : Nat := Machine.noteSymbols s.settings.bands.length (min 23 s.heardEntries.length)

/-- R55: the airtime of a control frame formed now. -/
def State.controlAirtime (s : State) : ControlEntry → Nat
  | .note => 192 + 32 * s.noteSymbols
  | .sound _ => 960
  | .gridPart .. => 608

/-- R140: what forming a NOTE does to the part, whether or not the NOTE then fits: the cells of every entry are aged, and the entries past
the 23rd of its reach list are counted. -/
def gatherNote (s : State) : State :=
  let s := ageAll s
  bumpBy .reachOverflow (s.heardEntries.length - 23) s

/-- R46, R140: what comes before the frame of a control entry on the list is tested against the allowance: a NOTE is tested as formed. -/
def gatherControl (c : ControlEntry) (s : State) : State :=
  match c with
  | .note => gatherNote s
  | .sound _ | .gridPart .. => s

/-- R140: the NOTE frame of the table as it stands, its cells aged (`gatherNote`). -/
def formNote (s : State) : TxFrame :=
  s.frame (s.header .note Addr.broadcast s.settings.homePair 3 s.noteSymbols)
    (Loading.robust.fill s.noteSymbols (noteBytes s.noteContents)) .robust (some .note)

/-- R72: a SOUND frame on the pair of the placed entry. -/
def formSound (p : Pair) (s : State) : TxFrame × State :=
  (s.frame (s.header .sound Addr.broadcast p 3 24) [] .sounding (some (.sound p)),
    { s with estimator := { s.estimator with notedSlot := none } })

/-- R106: the GRID frame of a part, formed from the RX-PENDING record, and the part marked in flight. -/
def formGridPart (e : EntryIx) (tag : Byte) (part : Fin 4) (s : State) : Option (TxFrame × State) :=
  match s.entry e, s.roleGrid e .rxPending with
  | some x, some g =>
    let p : GridPart :=
      { tag := g.tag, k := g.columns.length, index := part, pair := g.pair, map := g.map, rate := g.rate,
        column := (g.columns.getD part.val none).getD [] }
    let s' := modEntry e (fun y => { y with store := y.store.modPart part fun z => { z with inFlight := true } }) s
    some (s.frame (s.header .grid x.addr s.settings.homePair 3 13) (Loading.robust.fill 13 (gridPartBytes p)) .robust
      (some (.gridPart e tag part)), s')
  | _, _ => none

/-- R46: the frame of a control entry, after `gatherControl`. -/
def formControl (c : ControlEntry) (s : State) : Option (TxFrame × State) :=
  match c with
  | .note => some (formNote s, s)
  | .sound p => some (formSound p s)
  | .gridPart e tag part => formGridPart e tag part s

/-- R31, R32, R51: the RESP frame of a responder duty. -/
def respFrame (d : ResponderDuty) (r : RespBody) (s : State) : TxFrame :=
  s.frame (s.header .resp d.transmitter d.pair 0 0) (respBytes r) .robust none

end Sys2Proof.Machine
end

