-- ==== Sys2Proof/Machine/Waveform.lean ====
section
/-! DEFINITION. The line signal as far as the manual gives it: what each carrier of each symbol of a frame this station sends carries (R19
to R21, R36, R72), how the demodulator combines the copies of the robust map (R20), and with which map it receives each payload symbol
(R110, R119, R120). -/

namespace Sys2Proof.Machine

/-! ### Carriers (R19) -/

/-- R19: the centre of a carrier in kHz. -/
def carrierCentre (k : Nat) : Nat := 2016 + 36 * k

/-- R19: a transmitter sends nothing on a carrier that its own configured band list caps at 0. -/
def silenced (bands : List Band) (k : Nat) : Bool := capOf bands k == 0

/-- R19, R21, R36: what one carrier carries in one symbol, or through the preamble. -/
inductive CarrierSignal where
  /-- nothing is sent: a silenced carrier, or one at level 0 -/
  | silent
  | preamble
  /-- as many coded bits as the carrier's level -/
  | bits (coded : List Bool)
  /-- the known value of a SOUND, at its fixed level -/
  | known
deriving DecidableEq, Repr

/-- R19: coded bits placed into a symbol carrier by carrier, in ascending carrier order, each carrier taking as many as its level. -/
def placeBits : Column → List Bool → List CarrierSignal
  | [], _ => []
  | l :: rest, coded =>
    (if l.bits = 0 then .silent else .bits (coded.take l.bits)) :: placeBits rest (coded.drop l.bits)

/-- R20: the four carriers of a group of the robust map. -/
def groupCarriers (g : Nat) : List Nat := (List.range 4).map fun i => g + Config.robustGroups * i

/-- R20: the group of a carrier. -/
def groupOfCarrier (k : Nat) : Nat := k % Config.robustGroups

/-- R20: the robust symbol of 384 coded bits: each group's 2 bits on each of its four carriers, the groups taking their bits in ascending
order (assumption log 38). -/
def robustSymbol (coded : List Bool) : List CarrierSignal :=
  (List.range Config.carriers).map fun k => .bits ((coded.drop (2 * groupOfCarrier k)).take 2)

/-- R19: `n` coded bits of a run of bytes, from the bit with index `start`. -/
def codedRun (rate : Config.CodeRate) (bytes : List Byte) (start n : Nat) : List Bool :=
  (List.range n).map fun i => Config.codedBit rate bytes (start + i)

/-! ### The signal of a frame being sent (R21) -/

/-- R21: the parts of a frame. -/
inductive FramePart where
  | preamble
  | header (i : Nat)
  | payload (i : Nat)
deriving DecidableEq, Repr

/-- R21: the part of a frame with payload symbol count `n` that is on the line `d` µs after its frame start. -/
def framePart (n d : Nat) : Option FramePart :=
  if d < 64 then some .preamble
  else if d < 192 then some (.header ((d - 64) / 32))
  else if d < 192 + 32 * n then some (.payload ((d - 192) / 32))
  else none

/-- R19, R118 to R120: payload symbol `i` of a frame, every carrier alike: the robust map, the floor column, the column of its slot, or the
content of a SOUND (R36). -/
def TxFrame.payloadSymbol (f : TxFrame) (i : Nat) : List CarrierSignal :=
  match f.loading with
  | .robust => robustSymbol (codedRun .half f.payload (Config.robustBits * i) Config.robustBits)
  | .floor g =>
    let c := g.floorColumn
    placeBits c (codedRun .threeQuarters f.payload (columnSum c * i) (columnSum c))
  | .perSlot g columns =>
    let c := (g.columns.getD (columns.getD i 0).val none).getD []
    placeBits c (codedRun .threeQuarters f.payload ((columns.take i).map g.sumAt).sum (columnSum c))
  | .sounding => List.replicate Config.carriers .known

/-- R21: a part of a frame, every carrier alike. The header's 96 bytes fill the four header symbols (R24). -/
def TxFrame.part (f : TxFrame) : FramePart → List CarrierSignal
  | .preamble => List.replicate Config.carriers .preamble
  | .header i => robustSymbol (codedRun .half (headerWire f.header) (Config.robustBits * i) Config.robustBits)
  | .payload i => f.payloadSymbol i

/-- R19: the carriers that the own band list caps at 0 are silent in every part of every frame. -/
def silence (bands : List Band) (signal : List CarrierSignal) : List CarrierSignal :=
  signal.zipIdx.map fun x => if silenced bands x.2 then .silent else x.1

/-- R19, R22, R209: what the station sends on the line now: the pair, and the 768 carriers. -/
def State.lineOutput (s : State) : Option (Pair × List CarrierSignal) :=
  match s.line.sending with
  | none => none
  | some f =>
    (framePart f.header.payloadSymbols (f.start.dist s.lineTime)).map fun p =>
      (f.header.pair, silence s.settings.bands (f.part p))

/-! ### Reception (R20, R110, R119, R120) -/

/-- R20: what the demodulator measures on one carrier: its energy in the preamble, and its two soft values in a robust symbol, whose signs
stand for the bits (positive for 1). -/
structure CarrierCopy where
  energy : Nat
  soft : Int × Int
deriving DecidableEq, Repr

/-- R20: a carrier is erased for the whole frame when its preamble energy stays below the silence threshold. -/
def erased (energy : Nat) : Bool := decide (energy < Config.silenceThreshold)

/-- R20: the copies of a group combined: those not erased, each weighted by its preamble energy; none when all four are erased. -/
def combineGroup (copies : List CarrierCopy) : Option (Int × Int) :=
  let live := copies.filter fun c => !erased c.energy
  if live.isEmpty then none
  else some ((live.map fun c => (c.energy : Int) * c.soft.1).sum, (live.map fun c => (c.energy : Int) * c.soft.2).sum)

/-- R20: a robust symbol received: the 192 groups in order, each 2 soft values or 2 erased bits. -/
def combineRobust (carriers : Nat → CarrierCopy) : List (Option (Int × Int)) :=
  (List.range Config.robustGroups).map fun g => combineGroup ((groupCarriers g).map carriers)

/-- R110, R120: the map with which a payload symbol is received. -/
inductive SymbolMap where
  | robust
  | column (c : Column)
  | sounding
deriving DecidableEq, Repr

/-- R119: the floor column of a latched grid, the one its transmitter takes. -/
def Latched.floorColumn (l : Latched) : Column := l.grid.floorColumn

/-- R20, R36, R110, R119, R120: the map with which payload symbol `i` of a reception is received: the floor column of the latched grid in
every symbol when the floor flag is set, and otherwise the column taken at the symbol's start; the payload of a frame that is not processed
or whose tag is unresolved is not demodulated. -/
def Reception.symbolMap (r : Reception) (i : Nat) : Option SymbolMap :=
  match r.header with
  | .used h .processed res =>
    match h.kind, res with
    | .sound, _ => some .sounding
    | .data, .latched l =>
      if h.floor then some (.column l.floorColumn)
      else r.columns[i]?.map fun c => .column ((l.grid.columns.getD c.val none).getD [])
    | .data, .unresolved => none
    | .data, .robust => some .robust
    | .grid, _ | .resp, _ | .note, _ => some .robust
  | .used .. | .awaited | .failed => none

/-- R20: what was measured on a carrier of pair `p`: its energy in the preamble, and its two soft values in a robust symbol. -/
def Reception.copyAt (r : Reception) (p : Pair) (symbol : List (List Int)) (k : Nat) : CarrierCopy :=
  { energy := (r.energies.getD p.val []).getD k 0, soft := ((symbol.getD k []).getD 0 0, (symbol.getD k []).getD 1 0) }

/-- R20: the 384 coded bits of a robust symbol received on pair `p`: those of its groups, in order. -/
def Reception.robustBits (r : Reception) (p : Pair) (symbol : List (List Int)) : List (Option Int) :=
  (combineRobust (r.copyAt p symbol)).flatMap fun g => [g.map (·.1), g.map (·.2)]

/-- R19, R20: the coded bits of a grid-loaded symbol received on pair `p` with column `c`: carrier by carrier, as many as its level, those of
a carrier erased for the frame erased. -/
def Reception.columnBits (r : Reception) (p : Pair) (c : Column) (symbol : List (List Int)) : List (Option Int) :=
  c.zipIdx.flatMap fun x => (List.range x.1.bits).map fun i =>
    if erased ((r.energies.getD p.val []).getD x.2 0) then none else some ((symbol.getD x.2 []).getD i 0)

/-- R20, R24: the 24 bytes of the header as received on pair `p`, the first of the 96 that its four robust symbols hold. -/
def Reception.headerBytes (r : Reception) (p : Pair) : Demodulated → List Byte
  | .decoded b => b
  | .soft symbols => (Config.decoded .half (symbols.flatMap (r.robustBits p))).take 24

/-- R23: the header bytes on each pair that detected the preamble, in pair order, whatever the order in which they are given. -/
def Reception.headerCopies (r : Reception) (copies : List (Pair × Demodulated)) : List (Pair × List Byte) :=
  (List.finRange 3).flatMap fun p => (copies.filter fun x => x.1 == p).map fun x => (p, r.headerBytes p x.2)

/-- R20, R110: the coded bits of payload symbol `i`, by the map with which it is received; none where the payload is not demodulated. -/
def Reception.symbolBits (r : Reception) (p : Pair) (symbol : List (List Int)) (i : Nat) : List (Option Int) :=
  match r.symbolMap i with
  | some .robust => r.robustBits p symbol
  | some (.column c) => r.columnBits p c symbol
  | some .sounding | none => []

/-- R19: the rate at which the payload of a reception is coded. -/
def Reception.rate (r : Reception) : Config.CodeRate :=
  match r.header with
  | .used _ _ (.latched _) => .threeQuarters
  | _ => .half

/-- R20, R23, R110: the payload bytes of a reception, demodulated on the pair that its header names. -/
def Reception.payloadBytes (r : Reception) : Demodulated → List Byte
  | .decoded b => b
  | .soft symbols =>
    match r.header with
    | .used h _ _ => Config.decoded r.rate (symbols.zipIdx.flatMap fun x => r.symbolBits h.pair x.1 x.2)
    | .awaited | .failed => []

end Sys2Proof.Machine
end

