-- ==== Sys2Proof/Machine/Mac.lean ====
section
/-! DEFINITION. The medium access controller and the thermal guard (chapter Medium Access), and the evaluation of the
holds-candidate indicator that starts its periods (R176). -/

namespace Sys2Proof.Machine

/-- Changes the MAC record. -/
def modMac (f : Mac → Mac) (s : State) : State := { s with mac := f s.mac }

/-! ### Contention periods (R41, R57) -/

/-- R57: the thermal wait is set. -/
def setThermalWait (s : State) : State := bump .thermalDeferral (modMac (fun m => { m with thermalWait := true }) s)

/-- R41, R56: whether a candidate's first frame fits the remaining allowance at a period start. -/
def State.candidateFits (s : State) (c : Candidate) : Bool :=
  let start := s.lineTime.plus 80
  match c.kind with
  | .control x => s.airtimeFits (s.controlAirtime x)
  | .queueHead q n =>
    !s.thermal.limited ||
      match s.firstOffered n (some q) with
      | some len => s.dataFits n len start
      | none => true
  | .resends n =>
    !s.thermal.limited ||
      match s.firstOffered n none with
      | some len => s.dataFits n len start
      | none => true

/-- R41: the state becomes IDLE. -/
def toIdle (s : State) : State := modMac (fun m => { m with state := .idle, candidate := none }) s

/-- R41: a candidate is asked for; with one that fits, the state becomes SIGNAL. -/
def askCandidate (s : State) : State :=
  match candidateRequest s with
  | (none, s) => toIdle s
  | (some c, s) =>
    if s.candidateFits c then modMac (fun m => { m with state := .signal, candidate := some c }) s
    else toIdle (setThermalWait s)

/-- R41: a contention period begins now. -/
def beginPeriod (s : State) : State :=
  let s := modMac (fun m => { m with periodStart := s.lineTime, gap := none, candidate := none, toneHeard := false }) s
  if s.startUp = .running ∧ s.mac.thermalWait = false then askCandidate s else toIdle s

/-- R41, R53, R57: the unit tells the MAC that it has come to hold a candidate. -/
def candidateNotice (s : State) : State :=
  if s.mac.state = .idle ∧ s.startUp = .running ∧ s.mac.thermalWait = false then beginPeriod s else s

/-- R176: the indicator is evaluated, and the MAC is told when a candidate is found where it held none. -/
def evaluate (s : State) : State :=
  let had := s.holdsCandidate
  let s := (candidateRequest s).2
  if s.holdsCandidate && !had then candidateNotice s else s

/-- R176: the evaluation at the end of a command within which an event of R176 happened. -/
def evaluateIfDue (s : State) : State :=
  if s.evalDue then { evaluate { s with evalDue := false } with evalDue := false } else s

/-! ### Tone watches and gaps (R39, R43) -/

/-- R43: a tone watch is entered now. -/
def enterToneWatch (s : State) : State :=
  modMac (fun m => { m with state := .deferring, gap := some (.toneWatch (s.lineTime.plus Config.toneWatch)),
                            candidate := none }) s

/-- R39: a quiet gap to 60 µs from now. -/
def enterQuietGap (s : State) : State :=
  modMac (fun m => { m with state := .deferring, gap := some (.quiet (s.lineTime.plus 60)) }) s

/-- R39: a response gap to 120 µs from now. -/
def enterResponseGap (s : State) : State :=
  modMac (fun m => { m with state := .deferring, gap := some (.response (s.lineTime.plus 120)) }) s

/-! ### Transmitting (R46, R47) -/

/-- R46: no frame is formed because the candidate has gone. -/
def candidateGone (s : State) : State := enterToneWatch (bump .transmitAbandoned s)

/-- R46: no frame is formed because it does not fit the remaining allowance. -/
def doesNotFit (s : State) : State := enterToneWatch (setThermalWait s)

/-- R58: the frame kinds that are counted as sent. -/
def FrameKind.sentKind : FrameKind → Option SentKind
  | .data => some .data
  | .grid => some .grid
  | .sound => some .sound
  | .note => some .note
  | .resp => none

/-- R46, R55: a formed frame is handed to the line interface: the state becomes SENDING and its airtime is charged. -/
def sendFrame (f : TxFrame) (s : State) : State :=
  let s := { s with
    line := { s.line with sending := some f }
    thermal := { s.thermal with used := s.thermal.used + f.header.duration } }
  let s := modMac (fun m => { m with state := .sending, candidate := none }) s
  match f.header.kind.sentKind with
  | some k => bump (.framesSent k) s
  | none => s

/-- R46: the DATA frame of a candidate for next hop `n`. -/
def transmitData (n : EntryIx) (from_ : Option QueueIx) (prio : Fin 4) (s : State) : State :=
  match s.firstOffered n from_ with
  | none => candidateGone s
  | some len =>
    match s.symbolLimit with
    | none => doesNotFit s
    | some limit =>
      match composeData n from_ prio limit len s with
      | some (f, s') => sendFrame f s'
      | none => doesNotFit s

/-- R46, R175: the transmit instant. R140: a NOTE on the list is tested against the allowance as formed, every cell aged and its overflow
counted; where it does not fit, the MAC makes no frame of it (R140 read with R46 and R63: DEDUCED, assumption log 40). -/
def transmit (s : State) : State :=
  match s.mac.candidate with
  | none => candidateGone s
  | some c =>
    match c.kind with
    | .control x =>
      if s.control.contains x then
        let s := gatherControl x s
        if s.airtimeFits (s.controlAirtime x) then
          match formControl x s with
          | some (f, s') => sendFrame f s'
          | none => candidateGone s
        else doesNotFit s
      else candidateGone s
    | .queueHead q _ =>
      let s := dropUnreachable q s
      match s.queues[q].head?.bind s.nextHop with
      | some n => transmitData n (some q) c.priority s
      | none => candidateGone s
    | .resends n => if s.present n then transmitData n none c.priority s else candidateGone s

/-- R44: a station enters BACKOFF, drawing a counter below its window if it holds none, and transmits at once on 0. -/
def enterBackoff (s : State) : State :=
  let s := match s.mac.backoff with
    | some _ => s
    | none =>
      draw (modMac (fun m => { m with backoff := some (Config.backoffDraw s.draws % windowOf m.stage) }) s)
  let s := modMac (fun m => { m with state := .backoff, toneHeard := false }) s
  if s.mac.backoff = some 0 then transmit s else s

/-! ### Outcomes (R47 to R50) -/

/-- R47, R50: the window stage becomes 0, the backoff counter is cleared and the deferral count becomes 0. -/
def contentionCleared (s : State) : State := modMac (fun m => { m with stage := 0, backoff := none, deferral := 0 }) s

/-- R37: the window stage increments, staying at 5 once there. -/
def stageUp (n : Nat) : Nat := min 5 (n + 1)

/-- R133: a no-response send of the entry of the station that was to answer. -/
def receiverSilent (w : ResponseWait) (s : State) : State :=
  match s.findEntry w.receiver with
  | some i => noResponseSend i s
  | none => s

/-- R49: the no-response outcome. -/
def noResponseOutcome (s : State) : State :=
  match s.mac.wait with
  | none => s
  | some w =>
    let s := modMac (fun m => { m with wait := none, stage := stageUp m.stage, backoff := none, deferral := 0 }) s
    let s := receiverSilent w (bump .noResponse s)
    match w.kind with
    | .data => segmentNoResponse s
    | .grid => partNoResponse w.control s
    | .resp | .sound | .note => s

/-- R33, R81: a CAP-CONFLICT answer replaces the peer's band list, and for a GRID part gives the cap-conflict trigger. -/
def capConflictReceived (i : EntryIx) (k : FrameKind) (bands : Option (List Band)) (s : State) : State :=
  let s := modEntry i (fun e => { e with peerBands := bands }) s
  if k = .grid then trigger i Causes.ofCapConflict s else s

/-- R133, R134: what the status of a received response does to the direct hold. -/
def holdByStatus (i : EntryIx) (k : FrameKind) (st : RespStatus) (s : State) : State :=
  match st with
  | .accepted => clearHold i s
  | .noRoom => if k = .data then setHold i s else s
  | .gridUnknown | .capConflict => s

/-- R50: what a received response does to the entry of the station it came from. A CAP-CONFLICT to a GRID part of a station without an
entry gives R81's trigger all the same, which R78 does not take and counts as ignored (DEDUCED, assumption log 34). -/
def receiverOutcome (w : ResponseWait) (r : RespBody) (s : State) : State :=
  match s.findEntry w.receiver with
  | none => if r.status = .capConflict ∧ w.kind = .grid then bump .ignoredTriggers s else s
  | some i =>
    let s := holdByStatus i w.kind r.status (clearStreak i s)
    if r.status = .capConflict then capConflictReceived i w.kind r.bands s else s

/-- R50, R117, R153: a received response to the DATA frame in flight. -/
def dataAnswered (r : RespBody) (s : State) : State :=
  let s := match r.status, s.inFlight with
    | .gridUnknown, some x => gridUnknownReceived x.entry x.tag s
    | _, _ => s
  segmentResponse r.entries s

/-- R50: the received-response outcome. -/
def receivedOutcome (r : RespBody) (s : State) : State :=
  match s.mac.wait with
  | none => s
  | some w =>
    let s := receiverOutcome w r (contentionCleared (modMac (fun m => { m with wait := none }) s))
    match w.kind with
    | .data => dataAnswered r s
    | .grid => partAnswered w.control r.status s
    | .resp | .sound | .note => s

/-- R33: whether a RESP body that passed its check is a received response to a wait; `n` is its entry count. -/
def ResponseWait.takes (w : ResponseWait) (r : RespBody) (n : Nat) : Bool :=
  n == w.segments && (r.status != .capConflict || r.bands.isSome)

/-- R33, R48: a processed RESP from `tx` at its frame end. -/
def takeResp (tx : Addr) (payload : List Byte) (s : State) : State :=
  match s.mac.wait with
  | some w =>
    if w.receiver = tx then
      match readResp payload with
      | some (r, n) => if w.takes r n then receivedOutcome r s else noResponseOutcome (bump .failedResponses s)
      | none => noResponseOutcome (bump .failedResponses s)
    else noResponseOutcome (bump .strayResponses s)
  | none => bump .strayResponses s

/-- R139: a sent NOTE clears the placed mark. -/
def noteSent (s : State) : State := { s with note := { s.note with placed := false } }

/-- R47: the broadcast outcome of a sent SOUND or NOTE. -/
def broadcastOutcome (f : TxFrame) (s : State) : State :=
  let s := contentionCleared s
  let s :=
    if f.header.kind = .sound then leaveControl ControlEntry.isSound (soundSent f.header.pair f.start s)
    else leaveControl (fun c => c == .note) (noteSent s)
  enterQuietGap s

/-- R47: the end of a frame this station sent by contention. -/
def frameSent (f : TxFrame) (s : State) : State :=
  let s := { s with line := { s.line with sending := none } }
  match f.header.kind with
  | .data | .grid =>
    let w : ResponseWait :=
      { kind := f.header.kind, receiver := f.header.rx, segments := f.header.segments, frameEnd := s.lineTime,
        control := f.control }
    modMac (fun m => { m with state := .awaitingResponse, wait := some w }) s
  | .sound | .note => broadcastOutcome f s
  | .resp => s

/-- R45: a frame start in BACKOFF: the counter is frozen, the deferral count increments and may raise the stage, and the candidate
is released. -/
def deferToFrame (s : State) : State :=
  let n := s.mac.deferral + 1
  let raised := decide (n ≥ s.settings.deferralLimit)
  let s := bump .deferrals (modMac (fun m => { m with
    state := .receiving, candidate := none
    stage := if raised then stageUp m.stage else m.stage
    deferral := if raised then 0 else n }) s)
  if raised then bump .stageRaises s else s

/-! ### Thermal guard (R54, R57) -/

/-- R54: the guard state after a boundary at which DRVHOT was sampled. -/
def Thermal.sample (t : Thermal) (hot : Bool) (holdPeriods : Nat) : Thermal :=
  if hot then { t with limited := true, holdCount := holdPeriods }
  else if t.limited then { t with holdCount := t.holdCount - 1, limited := decide (t.holdCount - 1 ≠ 0) }
  else t

/-- R54: the used airtime becomes 0 and the guard takes its sample; from COOL to LIMITED raises the flag and counts. -/
def sampleGuard (hot : Bool) (s : State) : State :=
  let t := { s.thermal with used := 0, nextBoundary := s.thermal.nextBoundary.plus Config.dutyPeriod }
  let s' := { s with thermal := t.sample hot s.settings.holdPeriods }
  if hot && !s.thermal.limited then bump .thermalLimit (raiseThermalLimited s') else s'

/-- R54, R57: a duty-period boundary. In LOADING the guard stays in its reset state (assumption log 13). -/
def dutyBoundaryEffect (hot : Bool) (s : State) : State :=
  if s.startUp = .loading then
    { s with thermal := { s.thermal with nextBoundary := s.thermal.nextBoundary.plus Config.dutyPeriod } }
  else
    let s' := modMac (fun m => { m with thermalWait := false }) (sampleGuard hot s)
    if s.mac.thermalWait = true ∧ s.mac.state = .idle then beginPeriod s' else s'

/-! ### Entry to RUNNING (R53, R206) -/

/-- R53: entry to RUNNING begins a contention period if the state is IDLE. -/
def enterRunning (s : State) : State :=
  let s := { s with startUp := .running }
  if s.mac.state = .idle then beginPeriod s else s

/-- R4, R9, R206: entering LOCKED ends the LISTENING wait. -/
def lockEndsListening (s : State) : State := if s.startUp = .listening then enterRunning s else s

end Sys2Proof.Machine
end

