-- ==== Sys2Proof/Machine/Stations.lean ====
section
/-! DEFINITION. The station table (chapter Station Table and Routes): creation, learning, naming, aging and removal of entries, the
note schedule and the intake of NOTEs. -/

namespace Sys2Proof.Machine

/-! ### Removal and creation (R128, R132) -/

/-- R84: a build running for an entry is discarded with it. -/
def discardBuild (i : EntryIx) (s : State) : State :=
  match (s.entry i).map (·.build.state) with
  | some (BuildState.building ..) => bump .buildsDiscarded s
  | _ => s

/-- R132: an entry is removed with its effect on every block, and the routes are formed again. The entries-removed counter is the
caller's, since a replacement does not count there. -/
def removeEntry (i : EntryIx) (s : State) : State :=
  match s.entry i with
  | none => s
  | some e =>
    let s := setEntry i none (discardBuild i s)
    let s := freeAllRoles i s
    let s := { s with inFlight := s.inFlight.filter fun r => r.entry != i }
    let s := leaveControl (ControlEntry.partOf i) s
    recompute (markEval (forgetStation e.addr s))

/-- R128: a new entry at an empty index, with its route formed and then the routes of all. DESIGN CHOICE (assumption log 41): a creation,
also one as REMOTE by naming (R130), counts as a change of an entry's state for R176, whose list does not name it. -/
def createEntry (i : EntryIx) (e : Entry) (s : State) : State :=
  let s := recompute (formRoute i (setEntry i (some e) s))
  markEval (bump (if e.state = .remote then .remoteCreated else .entriesCreated) s)

/-! ### Learning (R127, R129) -/

/-- The index among those that `age` gives an age, of the greatest age, the lowest on a tie. -/
def oldestBy (age : EntryIx → Option Nat) : Option EntryIx :=
  ((List.finRange 24).foldl (fun (best : Option (EntryIx × Nat)) i =>
    match age i, best with
    | none, _ => best
    | some a, none => some (i, a)
    | some a, some b => if a > b.2 then some (i, a) else best) none).map (·.1)

/-- R129: how long ago a STALE entry was last heard. -/
def State.staleAge (s : State) (i : EntryIx) : Option Nat :=
  match s.entry i with
  | some e => if e.state = .stale then some ((e.lastHeard.map fun t => t.dist s.lineTime).getD 0) else none
  | none => none

/-- R129: how long ago a REMOTE entry was last named. -/
def State.remoteAge (s : State) (i : EntryIx) : Option Nat :=
  match s.entry i with
  | some e => if e.state = .remote then some ((e.lastNamed.map fun t => t.dist s.lineTime).getD 0) else none
  | none => none

/-- R129: the entry to replace: the oldest STALE one, or else the oldest REMOTE one. -/
def State.replaceable (s : State) : Option EntryIx :=
  match oldestBy s.staleAge with
  | some i => some i
  | none => oldestBy s.remoteAge

/-- R127, R128: a heard station's new entry. -/
def State.heardEntry (s : State) (a : Addr) (trusted : Bool) : Entry :=
  Entry.fresh a .heard (some s.lineTime) none trusted

/-- R127: the state that learning gives an entry. -/
def State.learnedState (s : State) (i : EntryIx) : EntryState → EntryState
  | .remote => .heard
  | .stale => s.heardState i
  | .heard => .heard
  | .linked => .linked

/-- R127: an entry is heard again. -/
def hearAgain (i : EntryIx) (trusted : Bool) (s : State) : State :=
  match s.entry i with
  | none => s
  | some e =>
    let st := s.learnedState i e.state
    let s' := setEntry i (some { e with
      state := st, lastHeard := some s.lineTime, peerTrusted := trusted,
      lastNamed := if e.state = .remote then none else e.lastNamed }) s
    if st = e.state then s' else recompute (markEval s')

/-- R127, R129: the transmitter of a valid header of this house is learned at its header event. -/
def learn (a : Addr) (trusted : Bool) (s : State) : State :=
  match s.findEntry a with
  | some i => hearAgain i trusted s
  | none =>
    match s.emptyIndex with
    | some i => createEntry i (s.heardEntry a trusted) s
    | none =>
      match s.replaceable with
      | some i => bump .replacements (createEntry i (s.heardEntry a trusted) (removeEntry i s))
      | none => raiseTableFull (bump .heardNotEntered s)

/-! ### Naming and NOTE intake (R130, R141) -/

/-- R130: one named address of a NOTE from `tx`. -/
def nameStation (tx a : Addr) (s : State) : State :=
  if a = s.settings.station ∨ a = tx then s
  else
    match s.findEntry a with
    | some i => modEntry i (fun e => if e.state = .remote then { e with lastNamed := some s.lineTime } else e) s
    | none =>
      match s.emptyIndex with
      | some i => createEntry i (Entry.fresh a .remote none (some s.lineTime) false) s
      | none => bump .remoteNotCreated s

/-- R141: the items of a reach list without those that name an address again. -/
def dropDuplicates (items : List NoteItem) : List NoteItem :=
  items.foldl (fun kept x => if kept.any fun y => y.addr == x.addr then kept else kept ++ [x]) []

/-- R141: a valid NOTE is taken into the entry of its transmitter. -/
def noteIntake (i : EntryIx) (tx : Addr) (n : NotePayload) (s : State) : State :=
  let items := dropDuplicates n.items
  let s := bumpBy .duplicateItems (n.items.length - items.length) s
  let s := modEntry i (fun e => { e with
    relay := n.relay, peerBands := some n.bands, reach := some (items.map fun x => { addr := x.addr, rate := x.rate }) }) s
  let s := match (items.find? fun x => x.addr == s.settings.station).bind (·.request) with
    | some q => soundRequested ((s.entry i).bind (·.offset.held)) q s
    | none => s
  let s := items.foldl (fun s x => nameStation tx x.addr s) s
  bump .notesReceived (recompute s)

/-! ### Aging (R131) -/

/-- R131: the aging deadline of an entry. -/
def Entry.agingDeadline (e : Entry) : Option LineTime :=
  match e.state with
  | .heard | .linked => e.lastHeard.map fun t => t.plus 15000000
  | .stale => e.lastHeard.map fun t => t.plus 60000000
  | .remote => e.lastNamed.map fun t => t.plus 30000000

/-- R131: whether an entry's aging deadline is reached now. -/
def State.agingDue (s : State) (i : EntryIx) : Bool := s.reached ((s.entry i).bind Entry.agingDeadline)

/-- R131: the aging deadline of an entry: it becomes STALE, or it is removed. -/
def ageOut (i : EntryIx) (s : State) : State :=
  match s.entry i with
  | none => s
  | some e =>
    if e.state.present then
      recompute (markEval (bump .entriesStale (setEntry i (some { e with state := .stale }) s)))
    else bump .entriesRemoved (removeEntry i s)

/-- R134: whether an entry's direct hold expires now. -/
def State.holdDue (s : State) (i : EntryIx) : Bool := s.reached ((s.entry i).bind (·.hold))

/-! ### The note schedule (R139) -/

/-- R139: a NOTE entry is offered unless one is placed. -/
def offerNote (s : State) : State :=
  if s.note.placed then s
  else if s.controlTakes .note then placeControl .note { s with note := { s.note with placed := true } }
  else bump .noteRefusals s

/-- R139: the note deadline moves on by the note interval. -/
def moveNoteDeadline (s : State) : State :=
  { s with note := { s.note with deadline := s.note.deadline.map fun d => d.plus (s.settings.noteMs * 1000) } }

/-- R139: the note deadline is reached. -/
def noteDue (s : State) : State := moveNoteDeadline (offerNote (ageAll s))

end Sys2Proof.Machine
end

