-- ==== Sys2Proof/Machine/Line.lean ====
section
/-! DEFINITION. The line interface (chapter Line Frames): receptions, the header event, the payload handed on at the frame end, and
the station's own frames. -/

namespace Sys2Proof.Machine

/-- Changes the line interface. -/
def modLine (f : LineInterface → LineInterface) (s : State) : State := { s with line := f s.line }

/-! ### The frame start (R14, R23, R38) -/

/-- R23: whether the line interface can detect a preamble now. -/
def State.detects (s : State) : Bool := s.startUp != .loading && s.line.sending.isNone && s.line.reception.isNone

/-- R38: what the MAC does at a frame-start event. -/
def macFrameStart (s : State) : State :=
  match s.mac.state with
  | .idle | .deferring => modMac (fun m => { m with state := .receiving, gap := none }) s
  | .signal => modMac (fun m => { m with state := .receiving, candidate := none }) s
  | .backoff => deferToFrame s
  | .awaitingResponse | .responding | .sending | .receiving => s

/-- R14, R20, R23: a reception opens, with the receive stamp of this instant and the energies of its preamble; its frame start is the
transmitter's. -/
def openReception (p : Pair) (b : Preamble) (s : State) : State :=
  let r : Reception :=
    { frameStart := s.lineTime - BitVec.ofNat 32 b.delay, firstPair := p, stampPhase := s.phase, stampTrusted := s.trusted,
      header := .awaited, energies := b.energies, slots := [], columns := [] }
  modLine (fun l => { l with reception := some r }) s

/-! ### The header event (R24 to R27) -/

/-- R23: the header used: the first copy, in pair order, that passes the check and the validity test. -/
def usedHeader (copies : List (Pair × List Byte)) : Option Header :=
  copies.findSome? fun c => if headerCheck c.2 then readHeader c.1 c.2 else none

/-- R26: the receive address filter. -/
def State.filterCase (s : State) (h : Header) : FilterCase :=
  if h.house ≠ s.settings.house then .foreign
  else if h.tx = s.settings.station ∨ h.tx = Addr.broadcast then .clash
  else if h.rx = s.settings.station ∨ h.rx = Addr.broadcast then .processed
  else .overheard

/-- R21, R24: DATA and GRID solicit a RESP. -/
def FrameKind.unicast : FrameKind → Bool
  | .data | .grid => true
  | .resp | .sound | .note => false

/-- R51: the responder duty of a processed DATA or GRID frame that began at `start`. -/
def Header.duty (h : Header) (start : LineTime) : ResponderDuty :=
  { transmitter := h.tx, pair := h.pair, frameEnd := start.plus h.duration, resp := none }

/-- R16: the slot-offset sample of a SOUND or NOTE header; a transmitter without an entry gives none. -/
def sampleHeader (r : Reception) (h : Header) (s : State) : State :=
  match h.kind with
  | .sound | .note =>
    match s.findEntry h.tx with
    | some i => takeOffsetSample i r.stampPhase r.stampTrusted h.phase.toNat h.trusted s
    | none => s
  | .data | .grid | .resp => s

/-- R51: a DATA or GRID frame addressed to this station gives it a responder duty. -/
def openDuty (r : Reception) (h : Header) (s : State) : State :=
  if h.kind.unicast then modMac (fun m => { m with duty := some (h.duty r.frameStart) }) s else s

/-- R27, R51: the MAC is told that a frame addressed to this station has begun, and a DATA header is counted. -/
def beginProcessed (r : Reception) (h : Header) (s : State) : State :=
  if h.kind = .data then bump (.dataReceived h.priority) (openDuty r h s) else openDuty r h s

/-- R110: the resolution that a reception holds. -/
def State.headerResolution (s : State) (h : Header) (c : FilterCase) : Resolution :=
  if h.kind = .data ∧ c = .processed then s.resolveTag h else .robust

/-- R26, R27: the effect of a used header in its filter case. -/
def filterEffect (r : Reception) (h : Header) (c : FilterCase) (s : State) : State :=
  match c with
  | .foreign => bump .foreignFrames s
  | .clash => bump .addressClashes s
  | .overheard => learn h.tx h.trusted s
  | .processed => beginProcessed r h (sampleHeader r h (learn h.tx h.trusted s))

/-- Writes the header of the reception in progress. -/
def setHeader (x : HeaderState) (s : State) : State :=
  modLine (fun l => { l with reception := l.reception.map fun r => { r with header := x } }) s

/-- R23: whether the header event of the reception is now. -/
def State.headerDue (s : State) : Bool :=
  match s.line.reception with
  | some r => r.header == .awaited && s.lineTime == r.frameStart.plus 192
  | none => false

/-- R23: the header bytes on each pair that detected the preamble, in pair order. -/
def State.headerCopies (s : State) (copies : List (Pair × Demodulated)) : List (Pair × List Byte) :=
  match s.line.reception with
  | some r => r.headerCopies copies
  | none => []

/-- R25, R26: the header event with the copies received. -/
def takeHeader (copies : List (Pair × List Byte)) (s : State) : State :=
  match s.line.reception with
  | none => s
  | some r =>
    match usedHeader copies with
    | none =>
      setHeader .failed
        (bump (if copies.any fun c => headerCheck c.2 then .malformedHeaders else .headerCheckFailures) s)
    | some h =>
      let c := s.filterCase h
      let s := filterEffect r h c s
      setHeader (.used h c (s.headerResolution h c)) s

/-! ### Payload symbols (R36, R120) -/

/-- R36: whether a payload symbol of the reception starts now. -/
def State.symbolDue (s : State) : Bool :=
  match s.line.reception with
  | some r =>
    match r.header with
    | .used h _ _ =>
      decide (r.slots.length < h.payloadSymbols) && s.lineTime == r.frameStart.plus (192 + 32 * r.slots.length)
    | .awaited | .failed => false
  | none => false

/-- R36, R120: the own slot is noted, and a per-slot grid-loaded frame takes the column its latched map names for it. -/
def Reception.noteSymbol (r : Reception) (m : MainsSlot) : Reception :=
  let columns :=
    match r.header with
    | .used h _ (.latched l) => if h.floor then r.columns else r.columns ++ [l.grid.map[m]]
    | _ => r.columns
  { r with slots := r.slots ++ [m], columns := columns }

/-! ### SOUND (R60 to R64) -/

/-- R60 to R62: the cells that a SOUND's groups update are aged and updated. -/
def sampleCells (i : EntryIx) (p : Pair) (slots : List MainsSlot) (readings : List (List Int)) (s : State) : State :=
  modEntry i (fun e => { e with snr := e.snr.update s.lineTime p slots readings }) s

/-- R64: whether an entry has an eligible pair. -/
def State.eligibleEntry (s : State) (i : EntryIx) : Bool :=
  match s.entry i with
  | some e => hasEligible s.settings.pairs e.snr
  | none => false

/-- R60 to R64: a SOUND from entry `i` on pair `p` at its frame end. -/
def soundSample (i : EntryIx) (p : Pair) (stampTrusted : Bool) (slots : List MainsSlot) (readings : List (List Int))
    (s : State) : State :=
  if s.present i then
    if stampTrusted && s.trusted then
      let s := ageCells i (fun q m => q == p && !(groupOf slots readings m).isEmpty) s
      let had := s.eligibleEntry i
      let s := bump .soundSampled (sampleCells i p slots readings s)
      if !had && s.eligibleEntry i then trigger i Causes.ofEligibility (bump .eligibilityTriggers s) else s
    else bump .untrustedSound s
  else s

/-! ### The frame end (R27, R32, R39) -/

/-- R32: the RESP of this duty is composed; without one the duty is dropped (R51). -/
def setResp (b : Option RespBody) (s : State) : State :=
  modMac (fun m => { m with duty := match b with
    | some x => m.duty.map fun d => { d with resp := some x }
    | none => none }) s

/-- R32: a RESP body without a band list. -/
def plainResp (st : RespStatus) (entries : List Bool) : RespBody := { status := st, entries := entries, bands := none }

/-- R27, R32, R111: a processed DATA frame's payload. -/
def dataEnd (r : Resolution) (h : Header) (payload : List Byte) (s : State) : State :=
  let bad := List.replicate h.segments false
  match s.findEntry h.tx with
  | none => setResp (some (plainResp .noRoom bad)) s
  | some i =>
    match r with
    | .unresolved => setResp (some (plainResp .gridUnknown bad)) (bump .gridUnknownSent s)
    | .robust | .latched _ =>
      let (vs, s) := takeData i h.floorSeq (walkSegments h.segments payload) (promoteByData i r s)
      setResp (some (plainResp .accepted vs)) s

/-- R27, R32, R34: a processed GRID frame's payload. -/
def gridEnd (h : Header) (payload : List Byte) (s : State) : State :=
  match s.findEntry h.tx with
  | none => setResp (some (plainResp .noRoom [])) s
  | some i =>
    match readGridPart payload with
    | none => setResp none (bump .badControlPayloads s)
    | some p =>
      let (st, s) := takePart i p s
      setResp (some { status := st, entries := [],
                      bands := if st = .capConflict then some s.settings.bands else none }) s

/-- R27, R35, R141: a processed NOTE frame's payload. -/
def noteEnd (h : Header) (payload : List Byte) (s : State) : State :=
  match s.findEntry h.tx with
  | none => s
  | some i =>
    match readNote h.symbols payload with
    | none => bump .badControlPayloads s
    | some n => noteIntake i h.tx n s

/-- R27, R60: a processed SOUND frame's readings. -/
def soundEnd (r : Reception) (h : Header) (readings : List (List Int)) (s : State) : State :=
  match s.findEntry h.tx with
  | none => s
  | some i => soundSample i h.pair r.stampTrusted r.slots readings s

/-- R27: a processed frame's payload handed on by kind; a RESP is matched by R33 apart. -/
def handOn (r : Reception) (h : Header) (res : Resolution) (payload : List Byte) (readings : List (List Int))
    (s : State) : State :=
  match h.kind with
  | .data => dataEnd res h payload s
  | .grid => gridEnd h payload s
  | .sound => soundEnd r h readings s
  | .note => noteEnd h payload s
  | .resp => s

/-- R33, R48: an open response wait is resolved by a reception that is not a processed RESP. -/
def resolveWait (s : State) : State := if s.mac.state = .awaitingResponse then noResponseOutcome s else s

/-- R39: the response gap, or RESPONDING when there is a RESP to send. -/
def answerOrGap (s : State) : State :=
  if (s.mac.duty.bind (·.resp)).isSome then modMac (fun m => { m with state := .responding, gap := none }) s
  else enterResponseGap (modMac (fun m => { m with duty := none }) s)

/-- R39: the next step after a reception with a used header. -/
def nextStep (h : Header) (c : FilterCase) (s : State) : State :=
  if h.kind = .resp then beginPeriod s
  else if h.kind.unicast && c != .foreign then
    if c = .processed then answerOrGap s else enterResponseGap s
  else enterQuietGap s

/-- R23: whether the reception closes now: a used header's at its frame end, a failed header's when its energy falls. -/
def State.frameEndDue (s : State) : Bool :=
  match s.line.reception with
  | some r =>
    match r.header with
    | .used h _ _ => s.lineTime == r.frameStart.plus h.duration
    | .failed => true
    | .awaited => false
  | none => false

/-- R27: the payload bytes of the reception. -/
def State.payloadBytes (s : State) (payload : Demodulated) : List Byte :=
  match s.line.reception with
  | some r => r.payloadBytes payload
  | none => []

/-- R27, R33, R39, R48: the frame-end event of a reception. -/
def endReception (payload : List Byte) (readings : List (List Int)) (s : State) : State :=
  match s.line.reception with
  | none => s
  | some r =>
    let s := modLine (fun l => { l with reception := none }) s
    match r.header with
    | .awaited => s
    | .failed => enterQuietGap (resolveWait s)
    | .used h c res =>
      let s :=
        if c = .processed then
          if h.kind = .resp then takeResp h.tx payload s
          else resolveWait (handOn r h res payload readings s)
        else resolveWait s
      nextStep h c s

/-! ### The station's own RESP (R51, R52) -/

/-- R51: whether the station's RESP starts now. -/
def State.respDue (s : State) : Bool :=
  match s.mac.duty with
  | some d => s.mac.state == .responding && s.line.sending.isNone && d.resp.isSome && s.lineTime == d.frameEnd.plus 60
  | none => false

/-- R51, R52: a RESP is handed to the line interface; a reception in progress is abandoned. -/
def sendResp (d : ResponderDuty) (b : RespBody) (s : State) : State :=
  bump .respSent { s with line := { sending := some (respFrame d b s), reception := none } }

/-- R51, R52, R81: the station's RESP starts; a GRID-UNKNOWN gives its trigger. -/
def startResp (s : State) : State :=
  match s.mac.duty with
  | none => s
  | some d =>
    match d.resp with
    | none => s
    | some b =>
      if b.status = .gridUnknown then triggerFor d.transmitter Causes.ofUnknownGrid (sendResp d b s) else sendResp d b s

/-- R21, R22: whether the frame being sent, of a kind that `which` admits, ends now. -/
def State.sentEndDue (s : State) (which : FrameKind → Bool) : Bool :=
  match s.line.sending with
  | some f => which f.header.kind && s.lineTime == f.stop
  | none => false

/-- R52: the end of the station's own RESP. -/
def endResp (s : State) : State :=
  beginPeriod (modMac (fun m => { m with duty := none }) (modLine (fun l => { l with sending := none }) s))

/-- R72: whether the payload of the station's own SOUND starts now. -/
def State.soundPayloadDue (s : State) : Bool :=
  match s.line.sending with
  | some f => f.header.kind == .sound && s.lineTime == f.start.plus 192
  | none => false

end Sys2Proof.Machine
end

