-- ==== Sys2Proof/Machine/Port.lean ====
section
/-! DEFINITION. The station port (chapter Station Port and Management): frames from and to the host, pauses, the request list, and
what ends every command (`settle`). The contents of the responses stand in Report.lean. -/

namespace Sys2Proof.Machine

/-- Changes the station port. -/
def modPort (f : Port → Port) (s : State) : State := { s with port := f s.port }

/-! ### Pauses (R187, R189) -/

/-- R189: the quanta of a full pause. -/
def fullPause : BitVec 16 := 0xFFFF#16

/-- R189: a pause is made pending; one that waits is replaced. -/
def makePause (q : BitVec 16) (s : State) : State := modPort (fun p => { p with pausePending := some q }) s

/-- R189: the pause state turns ON, with a full pause pending and the refresh deadline 10,000 µs on. -/
def pauseTurnsOn (s : State) : State :=
  makePause fullPause (modPort (fun p => { p with pauseOn := true, refresh := some (s.lineTime.plus 10000) }) s)

/-- R189: the pause state turns OFF, with a zero pause pending. -/
def pauseTurnsOff (s : State) : State := makePause 0#16 (modPort (fun p => { p with pauseOn := false, refresh := none }) s)

/-- R189: the pause state tested against the transmit charge. -/
def pauseTest (s : State) : State :=
  if s.settings.pauseEnable then
    if s.port.pauseOn then
      if s.txCharge < Config.pauseOffBelow then pauseTurnsOff s else s
    else if s.txCharge > Config.pauseOnAbove then pauseTurnsOn s
    else s
  else s

/-- R189: the test after an event that changed the transmit charge from `before`. -/
def pauseTestAfter (before : Nat) (s : State) : State := if s.txCharge = before then s else pauseTest s

/-- R187: the length of a hold of `q` quanta, in µs. -/
def holdTime (m : PortMode) (q : Nat) : Nat :=
  match m with
  | .rmii => ceilDiv (q * 512) 100
  | .rgmii => ceilDiv (q * 512) 1000

/-- R187: the hold end of a pause frame taken now; a zero pause ends the hold at once. -/
def State.holdEnd (s : State) (q : Nat) : Option LineTime :=
  if q = 0 then none else some (s.lineTime.plus (holdTime s.port.mode q))

/-- R187: a MAC control frame from the host. -/
def macControl (v : EthView) (s : State) : State :=
  if fieldAt 0 2 v.data = 1 then
    let s := bump .pauseReceived s
    if s.settings.pauseEnable then modPort (fun p => { p with hold := s.holdEnd (fieldAt 2 2 v.data) }) s else s
  else bump .macControlDrops s

/-! ### Frames to the host (R188) -/

/-- R188: the free transmitter chooses: the pending pause, and with no host hold the response or the oldest delivered frame. While a
request waits with the response buffer empty its service belongs to this same event (R191), so the transmitter waits for that response
before it takes a delivered frame (assumption log 17). -/
def chooseTx (s : State) : State :=
  if s.port.sending.isSome then s
  else
    match s.port.pausePending with
    | some q => modPort (fun p => { p with sending := some (.pause q), pausePending := none }) s
    | none =>
      if s.port.hold.isSome then s
      else if s.port.response.isSome then modPort (fun p => { p with sending := some .response }) s
      else if s.port.delivery.isEmpty || !s.port.requests.isEmpty then s
      else modPort (fun p => { p with sending := some .delivered }) s

/-- R210: the data of a management response, from byte 0 after the EtherType. -/
def responseData (r : Response) : List Byte :=
  let code := match r.status with
    | .ok => 0
    | .unknown => 1
    | .noEntry => 2
    | .noGrid => 3
  beBytes 2 r.tag.toNat ++ [r.kind] ++ beBytes 1 code ++ beBytes 2 r.content.length ++ r.content

/-- R188, R189, R191: the Ethernet frame that the transmitter is sending to the host. -/
def State.hostOutput (s : State) : Option (List Byte) :=
  match s.port.sending with
  | none => none
  | some (.pause q) =>
    some (ethFrame Config.pauseAddr s.settings.station 0x8808 (beBytes 2 1 ++ beBytes 2 q.toNat))
  | some .response => s.port.response.map fun r => ethFrame r.dest s.settings.station 0x88B5 (responseData r)
  | some .delivered => s.port.delivery.head?.map (·.eth)

/-- R188: the frame that has been sent leaves its holder and is counted, and the transmitter is free. -/
def txDone (s : State) : State :=
  match s.port.sending with
  | none => s
  | some (.pause _) => bump .pauseSent (modPort (fun p => { p with sending := none }) s)
  | some .response => bump .responsesSent (modPort (fun p => { p with sending := none, response := none }) s)
  | some .delivered =>
    bump .framesSentToHost (modPort (fun p => { p with sending := none, delivery := p.delivery.tail }) s)

/-- R196: whether the frame being sent is the response of a RESTART request. -/
def State.restartSent (s : State) : Bool :=
  s.port.sending == some .response && (s.port.response.map (·.restarts)).getD false

/-! ### What ends every command -/

/-- What follows the changes of every command that can bring it about: the indicator of R176, the pause test of R189 against the
transmit charge before the command, and the choice of the transmitter (R188). -/
def settle (before : Nat) (s : State) : State := chooseTx (pauseTestAfter before (evaluateIfDue s))

/-- A command with effect `f`, with what follows it. -/
def settled (f : State → State) (s : State) : State := settle s.txCharge (f s)

/-! ### Frames from the host (R186, R190) -/

/-- R190: a request joins the request list, or finds it full. -/
def takeRequest (v : EthView) (s : State) : State :=
  if s.port.requests.length ≥ 4 then bump .requestOverflow s
  else bump .requestsReceived (modPort (fun p => { p with requests := p.requests ++ [readRequest v] }) s)

/-- R186: a frame from the host, tested case by case. -/
def takeHostFrame (frame : List Byte) (s : State) : State :=
  if s.startUp = .loading then s
  else if frame.length < 64 ∨ 1522 < frame.length then bump .hostSizeErrors s
  else if fcsMatches frame = false then bump .hostFcsErrors s
  else
    let v := ethView frame
    if v.etherType = 0x8808 then macControl v s
    else if v.etherType = 0x88B5 ∧ v.dst = s.settings.station then takeRequest v s
    else if v.dst = s.settings.station then bump .ownAddressDrops s
    else hostFrame frame (bump .hostFramesReceived s)

/-! ### The service of requests (R191) -/

/-- R191: a request is served now when it is at the head of the list and the response buffer is empty. -/
def State.serviceDue (s : State) (which : RequestBody → Bool) : Bool :=
  match s.port.requests.head? with
  | some r => s.port.response.isNone && which r.body
  | none => false

/-- R191: a response to a request. -/
def Request.respond (r : Request) (st : ResponseStatus) (content : List Byte) : Response where
  dest := r.source
  tag := r.tag
  kind := r.kind
  status := st
  content := content
  restarts := false

/-- R191: the head request is served: it leaves the list, and the response that `answer` forms from the part as it then stands is
placed in the response buffer. -/
def serve (answer : Request → State → Response) (s : State) : State :=
  match s.port.requests with
  | [] => s
  | r :: rest =>
    let s := modPort (fun p => { p with requests := rest }) s
    modPort (fun p => { p with response := some (answer r s) }) s

end Sys2Proof.Machine
end

