-- ==== Sys2Proof/Machine/AccessCommands.lean ====
section
/-! DEFINITION. The commands of the medium access controller and the thermal guard: signal and contention slots, tones, gaps, the
response deadline and the duty-period boundary. -/

namespace Sys2Proof.Machine

/-- The event `c` has been taken at this instant; the idle step does not raise it again (assumption log 2). -/
def taken (c : Instr) (s : State) : State := { s with raised := c :: s.raised }

/-! ### Signal slots and tones (R42, R43) -/

/-- R42: a candidate of access priority `p` sends a tone in slot 1 when bit 1 is set, in slot 2 when bit 0 is. -/
def sendsTone (p : Fin 4) (slot2 : Bool) : Bool := if slot2 then p.val % 2 == 1 else p.val / 2 == 1

/-- R42, R209: the signal tone that the station is sending now: the pair it is sent on, the home pair, while the tone is enabled. A
station that has withdrawn is no longer in SIGNAL. -/
def State.toneOutput (s : State) : Option Pair :=
  let d := s.mac.periodStart.dist s.lineTime
  if s.mac.state = .signal ∧ d < 80 ∧ (s.mac.candidate.map fun c => sendsTone c.priority (decide (40 ≤ d))) = some true then
    some s.settings.homePair
  else none

/-- R42: whether a priority signal slot ends now; the answer says whether it is slot 2. -/
def State.signalSlot (s : State) : Option Bool :=
  if s.mac.state = .signal then
    if s.lineTime = s.mac.periodStart.plus 40 then some false
    else if s.lineTime = s.mac.periodStart.plus 80 then some true
    else none
  else none

/-- R42: a station that heard a tone in a slot where it sent none withdraws. -/
def State.withdraws (s : State) (slot2 : Bool) : Bool :=
  s.mac.toneHeard && !((s.mac.candidate.map fun c => sendsTone c.priority slot2).getD false)

/-- R42, R44: the end of a priority signal slot. -/
def endSignalSlot (s : State) : State :=
  match s.signalSlot with
  | none => s
  | some slot2 =>
    let s := taken .signalSlotEnd s
    if s.withdraws slot2 then enterToneWatch (bump .withdrawals s)
    else if slot2 then enterBackoff s
    else modMac (fun m => { m with toneHeard := false }) s

/-- SIGNAL_SLOT_END (R42). -/
def execSignalSlotEnd (s : State) : Result := whenLive s fun s => whenDue s.signalSlot.isSome (settled endSignalSlot) s

/-- R43: a tone is heard while no frame of the station's own is on the line. -/
def hearTone (s : State) : State :=
  match s.mac.state with
  | .idle => enterToneWatch s
  | .deferring =>
    match s.mac.gap with
    | some (.quiet _) | some (.response _) => enterToneWatch s
    | some (.toneWatch _) | none => s
  | .signal | .backoff => modMac (fun m => { m with toneHeard := true }) s
  | .receiving | .sending | .awaitingResponse | .responding => s

/-- TONE_HEARD (R43); in LOADING the line interface receives nothing (R53). -/
def execToneHeard (s : State) : Result := whenLive s fun s => whenDue (s.startUp != .loading) hearTone s

/-! ### Contention slots (R44) -/

/-- R44: whether a contention slot of the period ends now. -/
def State.contentionSlot (s : State) : Bool :=
  let d := (s.mac.periodStart.plus 80).dist s.lineTime
  s.mac.state == .backoff && decide (d ≠ 0) && d % 40 == 0

/-- R44: an idle slot decrements the counter, and at 0 the station transmits; when a frame start falls exactly here, to be taken
next, a counter of 1 stays and nothing is transmitted (assumption log 12). -/
def endContentionSlot (preamble : Bool) (s : State) : State :=
  let s := taken (.contentionSlotEnd false) s
  if s.mac.toneHeard then modMac (fun m => { m with toneHeard := false }) s
  else
    match s.mac.backoff with
    | none => s
    | some n =>
      if n ≤ 1 then
        if preamble then s else transmit (modMac (fun m => { m with backoff := some 0 }) s)
      else modMac (fun m => { m with backoff := some (n - 1) }) s

/-- CONTENTION_SLOT_END (R44). -/
def execContentionSlotEnd (preamble : Bool) (s : State) : Result :=
  whenLive s fun s => whenDue s.contentionSlot (settled (endContentionSlot preamble)) s

/-! ### Gaps and watches (R40, R43, R48) -/

/-- R40: whether the deadline of a quiet gap or a response gap is now. -/
def State.gapDue (s : State) : Bool :=
  match s.mac.gap with
  | some (.quiet d) | some (.response d) => s.mac.state == .deferring && s.lineTime == d
  | some (.toneWatch _) | none => false

/-- GAP_DEADLINE (R40). -/
def execGapDeadline (s : State) : Result := whenLive s fun s => whenDue s.gapDue (settled beginPeriod) s

/-- R43: whether a tone watch ends now. -/
def State.watchDue (s : State) : Bool :=
  match s.mac.gap with
  | some (.toneWatch d) => s.mac.state == .deferring && s.lineTime == d
  | some (.quiet _) | some (.response _) | none => false

/-- TONE_WATCH_END (R43). -/
def execToneWatchEnd (s : State) : Result := whenLive s fun s => whenDue s.watchDue (settled beginPeriod) s

/-- R48: whether a response wait runs out now with no frame start. -/
def State.responseDue (s : State) : Bool :=
  match s.mac.wait with
  | some w =>
    s.mac.state == .awaitingResponse && s.line.reception.isNone && s.lineTime == w.frameEnd.plus 120
  | none => false

/-- R48, R49: the no-response outcome, and the period that begins at the deadline. -/
def responseRunsOut (s : State) : State := beginPeriod (noResponseOutcome s)

/-- RESPONSE_DEADLINE (R48). -/
def execResponseDeadline (s : State) : Result := whenLive s fun s => whenDue s.responseDue (settled responseRunsOut) s

/-! ### The thermal guard (R54) -/

/-- R54: whether a duty-period boundary is now. -/
def State.boundaryDue (s : State) : Bool := s.lineTime == s.thermal.nextBoundary

/-- DUTY_BOUNDARY (R54, R57), with the level of DRVHOT sampled at it. -/
def execDutyBoundary (drvhot : Bool) (s : State) : Result :=
  whenLive s fun s => whenDue s.boundaryDue (settled (dutyBoundaryEffect drvhot)) s

end Sys2Proof.Machine
end

