-- ==== Sys2Proof/Machine/EstimatorCommands.lean ====
section
/-! DEFINITION. The commands of the channel estimator and the grid builder: sound deadlines, slot eligibility, build completions and
rebuild deadlines. -/

namespace Sys2Proof.Machine

/-- SOUND_DEADLINE (R69): the interval path. -/
def execSoundDeadline (s : State) : Result :=
  whenLive s fun s => whenDue (s.reached s.estimator.deadline) (settled intervalPath) s

/-- R69: whether the 20 ms point is now, with a want count that is not 0. -/
def State.wantPointDue (s : State) : Bool := s.at20ms && s.estimator.anyWant

/-- R69: the want path at the 20 ms point; while an entry is placed it is passed over. -/
def wantPoint (s : State) : State :=
  let s := taken .sound20msPoint s
  if s.estimator.placed.isSome then
    if s.reached s.estimator.deadline then { s with estimator := { s.estimator with deadline := none } } else s
  else placementAttempt s

/-- SOUND_20MS_POINT (R69). -/
def execSound20msPoint (s : State) : Result := whenLive s fun s => whenDue s.wantPointDue (settled wantPoint) s

/-- R71: whether the placed SOUND entry is eligible where the unit holds no candidate (assumption log 30). -/
def State.slotEligibleDue (s : State) : Bool := s.soundEligible && !s.holdsCandidate

/-- SOUND_SLOT_ELIGIBLE (R71): the unit is told. -/
def execSoundSlotEligible (s : State) : Result := whenLive s fun s => whenDue s.slotEligibleDue (settled markEval) s

/-- BUILD_COMPLETION (R92) of entry `e`. -/
def execBuildCompletion (e : EntryIx) (s : State) : Result :=
  whenLive s fun s => whenDue (s.completionDue e) (settled (completeBuild e)) s

/-- R79: whether the rebuild deadline of entry `e` is now. -/
def State.rebuildIsDue (s : State) (e : EntryIx) : Bool := s.reached ((s.entry e).bind (·.build.deadline))

/-- REBUILD_DEADLINE (R79) of entry `e`. -/
def execRebuildDeadline (e : EntryIx) (s : State) : Result :=
  whenLive s fun s => whenDue (s.rebuildIsDue e) (settled (rebuildDue e)) s

end Sys2Proof.Machine
end

