-- ==== Sys2Proof/Machine/LineCommands.lean ====
section
/-! DEFINITION. The commands of the line interface: frame starts, header events, payload symbols, frame ends, and the station's own
frames. -/

namespace Sys2Proof.Machine

/-- FRAME_START (R20, R23): the preamble `b` is detected on pair `p`. -/
def execFrameStart (p : Pair) (b : Preamble) (s : State) : Result :=
  whenLive s fun s => whenDue s.detects (fun s => macFrameStart (openReception p b s)) s

/-- HEADER_EVENT (R20, R23 to R27). -/
def execHeaderEvent (copies : List (Pair × Demodulated)) (s : State) : Result :=
  whenLive s fun s => whenDue s.headerDue (settled fun s => takeHeader (s.headerCopies copies) s) s

/-- The effect of a payload symbol start (R36, R120). -/
def noteSymbolNow (s : State) : State :=
  modLine (fun l => { l with reception := l.reception.map fun r => r.noteSymbol s.slot }) s

/-- PAYLOAD_SYMBOL_START (R36). -/
def execPayloadSymbolStart (s : State) : Result := whenLive s fun s => whenDue s.symbolDue noteSymbolNow s

/-- FRAME_END (R20, R27, R39). -/
def execFrameEnd (payload : Demodulated) (readings : List (List Int)) (s : State) : Result :=
  whenLive s fun s => whenDue s.frameEndDue (settled fun s => endReception (s.payloadBytes payload) readings s) s

/-- R72: the own slot is noted at the payload start of the station's own SOUND. -/
def noteOwnSlot (s : State) : State := { s with estimator := { s.estimator with notedSlot := some s.slot } }

/-- SOUND_PAYLOAD_START (R72). -/
def execSoundPayloadStart (s : State) : Result := whenLive s fun s => whenDue s.soundPayloadDue noteOwnSlot s

/-- A frame this station sends by contention is of any kind but RESP. -/
def FrameKind.contended (k : FrameKind) : Bool := k != .resp

/-- R47: the end of the frame being sent. -/
def endSent (s : State) : State :=
  match s.line.sending with
  | some f => frameSent f s
  | none => s

/-- SENT_FRAME_END (R47). -/
def execSentFrameEnd (s : State) : Result :=
  whenLive s fun s => whenDue (s.sentEndDue FrameKind.contended) (settled endSent) s

/-- RESP_START (R51, R52). -/
def execRespStart (s : State) : Result := whenLive s fun s => whenDue s.respDue (settled startResp) s

/-- RESP_FRAME_END (R52). -/
def execRespFrameEnd (s : State) : Result :=
  whenLive s fun s => whenDue (s.sentEndDue fun k => k == .resp) (settled endResp) s

end Sys2Proof.Machine
end

