-- ==== Sys2Proof/Machine/Report.lean ====
section
/-! DEFINITION. The contents of the management responses (R192 to R200, R210). A byte whose value the manual does not state,
because what it describes is absent, is a free value (assumption log 18). -/

namespace Sys2Proof.Machine

/-- A free value for field `k` of the report now being formed. -/
def State.absent (s : State) (k : Nat) : Nat := Config.absentField s.draws k

/-- R210: four bytes of a line time. -/
def timeBytes (t : LineTime) : List Byte := beBytes 4 t.toNat

/-- Four bytes of a line time that may be absent. -/
def State.timeOr (s : State) (k : Nat) : Option LineTime → List Byte
  | some t => timeBytes t
  | none => beBytes 4 (s.absent k)

/-! ### STATUS and COUNTERS (R192, R193) -/

/-- R210: the codes of the tracker states. -/
def TrackerState.code : TrackerState → Nat
  | .seeking => 0
  | .locked => 1
  | .holdover => 2
  | .freeRun => 3

/-- R210: the codes of the start-up states; no request is served in LOADING. -/
def StartUp.code : StartUp → Nat
  | .loading => 0
  | .listening => 1
  | .running => 2

/-- R210: the codes of the resets. -/
def ResetKind.code : ResetKind → Nat
  | .power => 0
  | .pin => 1
  | .restart => 2

/-- Whether a control entry is a GRID part. -/
def ControlEntry.isPart : ControlEntry → Bool
  | .gridPart .. => true
  | .note | .sound _ => false

/-- R192, R210: the 53 bytes of a STATUS response. -/
def statusContent (s : State) : List Byte :=
  timeBytes s.lineTime ++ beBytes 1 s.startUp.code ++
    beBytes 1 (s.tracker.state.code + 4 * s.trusted.toNat) ++ beBytes 2 (s.tracker.h.getD 0) ++
    beBytes 1 s.thermal.limited.toNat ++ beBytes 1 s.thermal.holdCount ++ beBytes 1 s.freeSlots ++
    (s.estimator.wants.toList.flatMap fun w => w.toList.map fun n => BitVec.ofNat 8 n) ++
    beBytes 1 ((s.estimator.placed.map fun x => x.pair.val).getD 3) ++
    beBytes 4 s.txCharge ++ beBytes 2 s.rxCharge ++ (s.queues.toList.map fun q => BitVec.ofNat 8 q.length) ++
    beBytes 1 s.control.length ++ beBytes 1 (s.control.countP ControlEntry.isPart) ++ beBytes 1 s.holdsCandidate.toNat ++
    beBytes 1 (s.port.pauseOn.toNat + 2 * s.port.hold.isSome.toNat) ++ beBytes 1 s.port.requests.length ++
    beBytes 1 s.restart.cause.code ++ beBytes 2 s.restart.restarts ++ beBytes 2 s.restart.counterClears ++
    [s.attention.toByte]

/-- R193, R210: every counter, in counter index order. -/
def countersContent (s : State) : List Byte := s.counters.toList.flatMap fun c => beBytes 4 c.toNat

/-! ### Ranges of indexes (R194) -/

/-- R194: the indexes carried whole while the content stays within `room` bytes more. -/
def carryWithin : Nat → List (Nat × List Byte) → List (Nat × List Byte)
  | _, [] => []
  | room, x :: rest => if x.2.length ≤ room then x :: carryWithin (room - x.2.length) rest else []

/-- R194: the indexes carried: the first always, and those after it while the content stays within 1,400 bytes. -/
def carried : List (Nat × List Byte) → List (Nat × List Byte)
  | [] => []
  | x :: rest => x :: carryWithin (1396 - x.2.length) rest

/-- R194, R210: the content of a response over the indexes `first .. last` of a table of `size`. -/
def rangeContent (s : State) (size : Nat) (report : Nat → List Byte) (first last : Nat) : List Byte :=
  let top := min last (size - 1)
  if first > top then beBytes 1 (s.absent 0) ++ beBytes 1 0 ++ beBytes 1 (s.absent 1) ++ beBytes 1 1
  else
    let xs := carried ((List.range (top + 1 - first)).map fun k => (first + k, report (first + k)))
    let next := first + xs.length
    beBytes 1 first ++ beBytes 1 xs.length ++ beBytes 1 next ++ beBytes 1 (decide (next = top + 1)).toNat ++
      xs.flatMap (·.2)

/-! ### STATION TABLE (R143, R210) -/

/-- R210: the codes of the entry states. -/
def EntryState.code : EntryState → Nat
  | .remote => 0
  | .heard => 1
  | .linked => 2
  | .stale => 3

/-- R210: the codes of the issue states. -/
def IssueState.code : IssueState → Nat
  | .noIssue => 0
  | .sending => 1
  | .delivered => 2

/-- R210: one role record of 10 bytes; the rate is 0 for TX-ASSEMBLING. -/
def roleReport (s : State) (k : Nat) (i : EntryIx) (r : Role) : List Byte :=
  let rate := fun n => beBytes 3 (if r = .txAssembling then 0 else n)
  match s.roleSlot i r with
  | some x =>
    match s.pool[x] with
    | some h =>
      beBytes 1 x.val ++ [h.grid.tag] ++ beBytes 1 (h.grid.pair.val + 4 * h.grid.columns.length) ++
        timeBytes h.grid.issueTime ++ rate h.grid.rate
    | none => []
  | none =>
    beBytes 1 255 ++ beBytes 1 (s.absent k) ++ beBytes 1 (s.absent (k + 1) % 32) ++ beBytes 4 (s.absent (k + 2)) ++
      rate (s.absent (k + 3))

/-- R210: byte 8 of an entry's report. -/
def entryFlags (e : Entry) : Nat :=
  e.state.code + 4 * e.peerTrusted.toNat + 8 * e.relay.toNat + 16 * e.hold.isSome.toNat + 32 * e.lastHeard.isSome.toNat +
    64 * e.lastNamed.isSome.toNat + 128 * e.peerBands.isSome.toNat

/-- R210: byte 17: held offset, candidate and confirm count. -/
def offsetReport (s : State) (k : Nat) (o : SlotOffset) : Nat :=
  let held := (o.held.map fun x => x.val).getD 7
  let candidate := if o.confirm = 0 then s.absent k % 8 else o.candidate.val
  held + 8 * candidate + 64 * o.confirm

/-- R210: byte 23: the route. -/
def routeReport (s : State) (k : Nat) : Route → Nat
  | .direct => s.absent k % 32
  | .via i => 64 + i.val
  | .noRoute => 128 + s.absent k % 32

/-- R98, R210: bytes 45..50: the build record. -/
def buildReport (s : State) (k : Nat) (b : BuildRecord) : List Byte :=
  let building := match b.state with
    | .building .. => 1
    | .idle => 0
  let forced := (b.remembered.map Causes.forced).getD false
  let code := match b.last with
    | .noOutcome => 0
    | .issued .. => 1
    | .heldBack .. => 2
    | .noGrid => 3
  let grid := match b.last with
    | .issued p n r | .heldBack p n r => beBytes 1 (p.val + 4 * n) ++ beBytes 3 r
    | .noOutcome | .noGrid => beBytes 1 (s.absent k % 32) ++ beBytes 3 (s.absent (k + 1))
  beBytes 1 (building + 2 * b.remembered.isSome.toNat + 4 * forced.toNat + 8 * b.retrySpent.toNat + 16 * code) ++
    beBytes 1 b.boost ++ grid

/-- R210: the assembly parts, bit i for part i. -/
def assemblyParts (g : Option Grid) : Nat :=
  match g with
  | some x => bitsToNat (x.columns.map (·.isSome))
  | none => 0

/-- R210: two bytes of a sequence that may be none, which sets bit 15. -/
def State.seqOr (s : State) (k : Nat) : Option Seq → List Byte
  | some q => beBytes 2 q.toNat
  | none => beBytes 2 (32768 + s.absent k % 4096)

/-- R165, R210: bytes 96..110: the segment state. -/
def segmentReport (s : State) (k : Nat) (e : Entry) : List Byte :=
  beBytes 2 e.tx.next.toNat ++ s.seqOr k e.tx.oldest ++ beBytes 1 e.tx.unacked.length ++ beBytes 1 e.tx.marked.length ++
    beBytes 1 e.tx.numbered.length ++ s.seqOr (k + 1) e.rx.expected ++ beBytes 1 e.rx.reorder.length ++
    beBytes 1 e.rx.assembling.toNat ++ beBytes 2 ((e.rx.joined.map fun j => j.bytes.length).getD 0xFFFF) ++
    beBytes 1 e.rx.window.length ++ beBytes 1 (badCount e.rx.window)

/-- R210: the peer band list and the reach list. -/
def listsReport (e : Entry) : List Byte :=
  let bands := e.peerBands.getD []
  let items := e.reach.getD []
  beBytes 1 bands.length ++ bands.flatMap bandBytes ++ beBytes 1 items.length ++
    items.flatMap fun x => addrBytes x.addr ++ beBytes 3 x.rate

/-- R143, R210: the report of an index of the station table. -/
def stationReport (s : State) (i : EntryIx) : List Byte :=
  match s.entry i with
  | none => beBytes 1 i.val ++ beBytes 1 0
  | some e =>
    let k := 64 * (i.val + 1)
    beBytes 1 i.val ++ beBytes 1 (1 + 2 * e.reach.isSome.toNat) ++ addrBytes e.addr ++ beBytes 1 (entryFlags e) ++
      s.timeOr k e.lastHeard ++ s.timeOr (k + 1) e.lastNamed ++ beBytes 1 (offsetReport s (k + 2) e.offset) ++
      s.timeOr (k + 3) e.hold ++ beBytes 1 e.streak ++ beBytes 1 (routeReport s (k + 4) e.route) ++ beBytes 3 e.txRate ++
      (e.snr.toList.flatMap fun p => p.toList.map fun c => BitVec.ofNat 8 c.count) ++ buildReport s (k + 5) e.build ++
      roleReport s (k + 8) i .rxCurrent ++ roleReport s (k + 12) i .rxPending ++ roleReport s (k + 16) i .txActive ++
      roleReport s (k + 20) i .txAssembling ++ [e.store.nextTag] ++ beBytes 1 e.store.issue.code ++
      beBytes 1 (e.store.parts.countP fun p => p.place != .accepted) ++
      beBytes 1 (e.store.parts.countP fun p => p.place == .unplaced) ++
      beBytes 1 (assemblyParts (s.roleGrid i .txAssembling)) ++ segmentReport s (k + 24) e ++ listsReport e

/-! ### ADDRESS MAP (R185, R210) -/

/-- R185, R210: the report of an index of the address map. -/
def mapReport (s : State) (i : MapIx) : List Byte :=
  match s.addressMap[i] with
  | none => beBytes 1 i.val ++ beBytes 1 0
  | some m =>
    let target : Nat × Addr := match m.target with
      | .localHost => (3, 0#48)
      | .station a => (1, a)
    beBytes 1 i.val ++ beBytes 1 target.1 ++ addrBytes m.device ++ addrBytes target.2 ++
      beBytes 3 (m.learned.dist s.lineTime / 1000)

/-! ### CONFIG READ (R195, R210) -/

/-- R210: the VLAN map, two queues to a byte, the lower priority in the high half. -/
def vlanBytes (v : Vector QueueIx 8) : List Byte :=
  (List.finRange 4).flatMap fun k =>
    beBytes 1 (16 * (v[2 * k.val].val + 1) + (v[2 * k.val + 1].val + 1))

/-- R195, R210: the 79 bytes of a CONFIG READ response. -/
def configContent (c : Settings) : List Byte :=
  let bands := c.bands.flatMap bandBytes
  let source := match c.addrSource with
    | .image => 0
    | .factory => 1
    | .fallback => 2
  beBytes 1 (c.relay.toNat + 2 * c.pauseEnable.toNat + 4 * bitsToNat c.pairs.toList) ++ addrBytes c.station ++
    beBytes 2 c.house.toNat ++ beBytes 1 c.margin ++ beBytes 1 c.bands.length ++ bands ++
    List.replicate (24 - bands.length) 0#8 ++ vlanBytes c.vlan ++ beBytes 1 (c.defaultQueue.val + 1) ++
    (c.queues.toList.flatMap fun q => beBytes 1 q.depth ++ beBytes 2 q.lifetimeMs ++ beBytes 1 q.priority.val) ++
    beBytes 1 c.tierOrder.val ++ beBytes 1 (bitsToNat c.leads.toList) ++ beBytes 2 c.noteMs ++ beBytes 2 c.soundMs ++
    beBytes 1 c.rebuildS ++ beBytes 1 c.dutyPercent ++ beBytes 1 c.holdPeriods ++ beBytes 1 c.deferralLimit ++
    beBytes 1 c.segmentRetry ++ beBytes 1 c.partRetry ++ beBytes 1 c.imageValid.toNat ++ beBytes 1 source ++
    beBytes 1 c.clamped

/-! ### WINDOW READ (R197 to R200) -/

/-- R198: a window as clipped. -/
structure ClippedWindow where
  carrierStart : Nat
  carrierEnd : Nat
  slotStart : Nat
  slotEnd : Nat
deriving DecidableEq, Repr

/-- R198: the bounds clipped, in either mode. -/
def WindowRequest.clip (w : WindowRequest) : ClippedWindow where
  carrierStart := w.carrierStart
  carrierEnd := min 767 (if w.extentMode then w.carrierStart + w.carrierStop else w.carrierStop)
  slotStart := w.slotStart
  slotEnd := min 5 (if w.extentMode then w.slotStart + w.slotStop else w.slotStop)

/-- R198: the carriers of a window. -/
def ClippedWindow.carriers (c : ClippedWindow) : Nat := c.carrierEnd + 1 - c.carrierStart

/-- R198: the slots of a window. -/
def ClippedWindow.slots (c : ClippedWindow) : Nat := c.slotEnd + 1 - c.slotStart

/-- R198: the cell count N. A start past its end, or past the last carrier or slot, makes it 0. -/
def ClippedWindow.cells (c : ClippedWindow) : Nat := c.carriers * c.slots

/-- R199: the place of an axis after `n` steps of the walk. -/
def axisAt (start stop : Nat) (reverse : Bool) (n : Nat) : Nat := if reverse then stop - n else start + n

/-- R199: the carrier and slot at a walk position. -/
def ClippedWindow.at_ (c : ClippedWindow) (o : WalkOrder) (pos : Nat) : Nat × Nat :=
  let ci := if o.slotMajor then pos % c.carriers else pos / c.slots
  let si := if o.slotMajor then pos / c.carriers else pos % c.slots
  (axisAt c.carrierStart c.carrierEnd o.carrierReverse ci, axisAt c.slotStart c.slotEnd o.slotReverse si)

/-- R200: what a window read reads: the value of each carrier and slot, the held flags and the description. -/
structure WindowView where
  /-- one row per slot; a slot that is not held has none -/
  rows : List (Option (List Nat))
  description : List Byte
deriving DecidableEq, Repr

/-- R200: a grid's cells and description. -/
def gridView (r : Role) (g : Grid) : WindowView where
  rows := (List.finRange 6).map fun m => (g.columns.getD g.map[m].val none).map fun c => c.map Level.bits
  description :=
    [g.tag] ++ beBytes 1 (g.pair.val + 4 * g.columns.length) ++ beBytes 2 (mapNat g.map) ++ timeBytes g.issueTime ++
      beBytes 3 (if r = .txAssembling then 0 else g.rate) ++ List.replicate 19 0#8

/-- R200: the cells of an entry on a pair and their description; a cell of count 0 holds no value. -/
def snrView (s : State) (cells : Vector Cell 6) : WindowView where
  rows := (List.finRange 6).map fun m =>
    if cells[m].count = 0 then none else some (cells[m].avgs.map fun a => (a + 32).toNat)
  description :=
    (cells.toList.map fun c => BitVec.ofNat 8 c.count) ++
      (List.finRange 6).flatMap fun m => s.timeOr (2 + m.val) (if cells[m].count = 0 then none else some cells[m].last)

/-- R197, R200: the view a WINDOW READ names, or the status that answers it. -/
def windowView (s : State) (w : WindowRequest) : ResponseStatus × Option WindowView :=
  if h : w.index < 24 then
    match s.entry ⟨w.index, h⟩ with
    | none => (.noEntry, none)
    | some e =>
      match w.source with
      | .grid r =>
        match s.roleGrid ⟨w.index, h⟩ r with
        | some g => (.ok, some (gridView r g))
        | none => (.noGrid, none)
      | .snr p => (.ok, some (snrView s e.snr[p]))
  else (.noEntry, none)

/-- R210: the code of a walk order. -/
def WalkOrder.code (o : WalkOrder) : Nat := o.slotMajor.toNat + 2 * o.carrierReverse.toNat + 4 * o.slotReverse.toNat

/-- R200: the cell at a carrier and slot; one that holds no value is 0. -/
def WindowView.cell (v : WindowView) (x : Nat × Nat) : Nat :=
  match v.rows.getD x.2 none with
  | some row => row.getD x.1 0
  | none => 0

/-- R210: bytes 0..2 of a WINDOW READ response. -/
def WindowRequest.sourceBytes (w : WindowRequest) : List Byte :=
  match w.source with
  | .grid r =>
    let code := match r with
      | .rxCurrent => 0
      | .rxPending => 1
      | .txActive => 2
      | .txAssembling => 3
    beBytes 1 0 ++ beBytes 1 w.index ++ beBytes 1 code
  | .snr p => beBytes 1 1 ++ beBytes 1 w.index ++ beBytes 1 p.val

/-- R198 to R200, R210: the content of a WINDOW READ response: 50 bytes and the cells. -/
def windowContent (w : WindowRequest) (v : WindowView) : List Byte :=
  let c := w.clip
  let n := c.cells
  let after := min (w.resume + 1024) n
  let count := after - w.resume
  w.sourceBytes ++ beBytes 1 w.order.code ++ beBytes 2 c.carrierStart ++ beBytes 2 c.carrierEnd ++ beBytes 1 c.slotStart ++
    beBytes 1 c.slotEnd ++ beBytes 2 n ++ beBytes 2 w.resume ++ beBytes 2 count ++ beBytes 2 after ++
    beBytes 1 (decide (after = n)).toNat ++ beBytes 1 (bitsToNat (v.rows.map (·.isSome))) ++ v.description ++
    (List.range count).map fun k => BitVec.ofNat 8 (v.cell (c.at_ w.order (w.resume + k)))

/-! ### The answer to each request -/

/-- R192: a STATUS request is answered. -/
def answerStatus (r : Request) (s : State) : Response := r.respond .ok (statusContent s)

/-- R193: a COUNTERS request is answered. -/
def answerCounters (r : Request) (s : State) : Response := r.respond .ok (countersContent s)

/-- R143, R194: a STATION TABLE request is answered. -/
def answerStations (first last : Nat) (r : Request) (s : State) : Response :=
  r.respond .ok (rangeContent s 24 (fun i => stationReport s (Fin.ofNat 24 i)) first last)

/-- R185, R194: an ADDRESS MAP request is answered. -/
def answerMap (first last : Nat) (r : Request) (s : State) : Response :=
  r.respond .ok (rangeContent s 128 (fun i => mapReport s (Fin.ofNat 128 i)) first last)

/-- R197: a WINDOW READ request is answered. -/
def answerWindow (w : WindowRequest) (r : Request) (s : State) : Response :=
  match windowView s w with
  | (st, some v) => r.respond st (windowContent w v)
  | (st, none) => r.respond st []

/-- R195: a CONFIG READ request is answered. -/
def answerConfig (r : Request) (s : State) : Response := r.respond .ok (configContent s.settings)

/-- R196: a RESTART request is answered; sending the answer restarts the part. -/
def answerRestart (r : Request) (_ : State) : Response := { r.respond .ok [] with restarts := true }

/-- R190: a request that is not well formed is answered UNKNOWN. -/
def answerUnknown (r : Request) (_ : State) : Response := r.respond .unknown []

end Sys2Proof.Machine
end

