-- ==== Sys2Proof/Machine/PortCommands.lean ====
section
/-! DEFINITION. The commands of the station port: frames from the host, the end of frames to it, holds, pauses, and the service of
requests. -/

namespace Sys2Proof.Machine

/-- HOST_FRAME_RECEIVED (R186). -/
def execHostFrameReceived (frame : List Byte) (s : State) : Result := whenLive s (settled (takeHostFrame frame))

/-- R187: the host hold ends. -/
def endHold (s : State) : State := modPort (fun p => { p with hold := none }) s

/-- HOST_HOLD_END (R187). -/
def execHostHoldEnd (s : State) : Result := whenLive s fun s => whenDue (s.reached s.port.hold) (settled endHold) s

/-- R189: a full pause is made pending, and the refresh deadline moves on. -/
def refreshPause (s : State) : State :=
  makePause fullPause (modPort (fun p => { p with refresh := p.refresh.map fun d => d.plus 10000 }) s)

/-- PAUSE_REFRESH (R189). -/
def execPauseRefresh (s : State) : Result :=
  whenLive s fun s => whenDue (s.port.pauseOn && s.reached s.port.refresh) (settled refreshPause) s

/-- R188, R196: the last byte of a frame to the host has been sent; that of a RESTART response performs a RESTART reset. -/
def hostTxEnd (strap : Bool) (s : State) : State :=
  if s.restartSent then finishReset .restart strap (txDone s) else settled txDone s

/-- HOST_TX_DONE (R188). -/
def execHostTxDone (strap : Bool) (s : State) : Result :=
  whenLive s fun s => whenDue s.port.sending.isSome (hostTxEnd strap) s

/-! ### STATUS and ATTENTION_CLEAR (R192) -/

/-- R192: the clear set of the STATUS request at the head of the list. -/
def State.clearSet (s : State) : BitVec 8 :=
  match (s.port.requests.head?.map Request.body : Option RequestBody) with
  | some (.status c) => c
  | _ => 0#8

/-- R192: a STATUS request is served, and the flags of its clear set are then cleared. -/
def serveStatus (s : State) : State :=
  let c := s.clearSet
  let s := serve answerStatus s
  { s with attention := s.attention.clearNamed c }

/-- A STATUS request. -/
def RequestBody.isStatus : RequestBody → Bool
  | .status _ => true
  | .counters _ | .stationTable .. | .windowRead _ | .addressMap .. | .configRead | .restart | .malformed => false

/-- A STATUS request that names flags to clear. -/
def RequestBody.isStatusClear : RequestBody → Bool
  | .status c => c &&& 0x3F#8 != 0#8
  | .counters _ | .stationTable .. | .windowRead _ | .addressMap .. | .configRead | .restart | .malformed => false

/-- STATUS (R192). -/
def execStatus (s : State) : Result :=
  whenLive s fun s => whenDue (s.serviceDue RequestBody.isStatus) (settled serveStatus) s

/-- ATTENTION_CLEAR (R192, R202): the service of a STATUS request that names flags. -/
def execAttentionClear (s : State) : Result :=
  whenLive s fun s => whenDue (s.serviceDue RequestBody.isStatusClear) (settled serveStatus) s

/-! ### COUNTERS and COUNTERS_CLEAR (R193) -/

/-- R193: the clear choice of the COUNTERS request at the head of the list. -/
def State.clearChoice (s : State) : Bool :=
  match (s.port.requests.head?.map Request.body : Option RequestBody) with
  | some (.counters c) => c
  | _ => false

/-- R193, R208: every counter is set to 0, and the counter clears of the restart record increment. -/
def clearAllCounters (s : State) : State :=
  clearCounters { s with restart := { s.restart with counterClears := sat16 s.restart.counterClears } }

/-- R193: a COUNTERS request is served, and with the clear choice yes the counters are then cleared. -/
def serveCounters (s : State) : State :=
  let c := s.clearChoice
  let s := serve answerCounters s
  if c then clearAllCounters s else s

/-- A COUNTERS request. -/
def RequestBody.isCounters : RequestBody → Bool
  | .counters _ => true
  | .status _ | .stationTable .. | .windowRead _ | .addressMap .. | .configRead | .restart | .malformed => false

/-- A COUNTERS request with the clear choice yes. -/
def RequestBody.isCountersClear : RequestBody → Bool
  | .counters c => c
  | .status _ | .stationTable .. | .windowRead _ | .addressMap .. | .configRead | .restart | .malformed => false

/-- COUNTERS (R193). -/
def execCounters (s : State) : Result :=
  whenLive s fun s => whenDue (s.serviceDue RequestBody.isCounters) (settled serveCounters) s

/-- COUNTERS_CLEAR (R193): the service of a COUNTERS request with the clear choice yes. -/
def execCountersClear (s : State) : Result :=
  whenLive s fun s => whenDue (s.serviceDue RequestBody.isCountersClear) (settled serveCounters) s

/-! ### The other requests (R190, R194 to R197) -/

/-- R191: the head request answered by its kind, STATUS and COUNTERS apart. -/
def answerOther (r : Request) (s : State) : Response :=
  match r.body with
  | .stationTable first last => answerStations first last r s
  | .windowRead w => answerWindow w r s
  | .addressMap first last => answerMap first last r s
  | .configRead => answerConfig r s
  | .restart => answerRestart r s
  | .malformed => answerUnknown r s
  | .status _ => answerStatus r s
  | .counters _ => answerCounters r s

/-- A STATION TABLE request. -/
def RequestBody.isStationTable : RequestBody → Bool
  | .stationTable .. => true
  | .status _ | .counters _ | .windowRead _ | .addressMap .. | .configRead | .restart | .malformed => false

/-- A WINDOW READ request. -/
def RequestBody.isWindowRead : RequestBody → Bool
  | .windowRead _ => true
  | .status _ | .counters _ | .stationTable .. | .addressMap .. | .configRead | .restart | .malformed => false

/-- An ADDRESS MAP request. -/
def RequestBody.isAddressMap : RequestBody → Bool
  | .addressMap .. => true
  | .status _ | .counters _ | .stationTable .. | .windowRead _ | .configRead | .restart | .malformed => false

/-- STATION_TABLE (R143, R194). -/
def execStationTable (s : State) : Result :=
  whenLive s fun s =>
    whenDue (s.serviceDue RequestBody.isStationTable) (settled fun s => draw (serve answerOther s)) s

/-- WINDOW_READ (R197). -/
def execWindowRead (s : State) : Result :=
  whenLive s fun s => whenDue (s.serviceDue RequestBody.isWindowRead) (settled fun s => draw (serve answerOther s)) s

/-- ADDRESS_MAP (R185, R194). -/
def execAddressMap (s : State) : Result :=
  whenLive s fun s => whenDue (s.serviceDue RequestBody.isAddressMap) (settled fun s => draw (serve answerOther s)) s

/-- CONFIG_READ (R195). -/
def execConfigRead (s : State) : Result :=
  whenLive s fun s => whenDue (s.serviceDue fun b => b == .configRead) (settled (serve answerOther)) s

/-- RESTART (R196). -/
def execRestart (s : State) : Result :=
  whenLive s fun s => whenDue (s.serviceDue fun b => b == .restart) (settled (serve answerOther)) s

/-- UNKNOWN_REQUEST (R190). -/
def execUnknownRequest (s : State) : Result :=
  whenLive s fun s =>
    whenDue (s.serviceDue fun b => b == .malformed) (settled fun s => bump .unknownRequests (serve answerOther s)) s

end Sys2Proof.Machine
end

