-- ==== Sys2Proof/Machine/StartCommands.lean ====
section
/-! DEFINITION. The commands of resets and start-up (chapter Configuration Image and Start-up, 11.2). -/

namespace Sys2Proof.Machine

/-- POWER_RESET (R207): power-on; the part is held in its reset state. -/
def execPowerReset (s : State) : Result := .next (beginReset .power s)

/-- PIN_RESET (R207): the RESET input is asserted; the part is held in its reset state. -/
def execPinReset (s : State) : Result := .next (beginReset .pin s)

/-- R206 to R209: the end of the POWER or PIN reset that holds the part. -/
def endReset (strap : Bool) (s : State) : State :=
  match s.held with
  | some k => finishReset k strap s
  | none => s

/-- RESET_END (R207); with no reset holding the part it changes nothing (assumption log 1). -/
def execResetEnd (strap : Bool) (s : State) : Result := .next (endReset strap s)

/-- R206: LISTENING is entered with the configuration loaded from the serial memory. -/
def enterListening (memory : List Byte) (s : State) : State :=
  let c := loadSettings memory
  let s := { s with
    settings := c
    startUp := .listening
    listening := some (s.lineTime.plus 2000000)
    estimator := { s.estimator with deadline := some s.lineTime }
    note := { s.note with deadline := some s.lineTime } }
  if c.imageValid then s else raiseConfigDefault s

/-- R204 to R206: load completion; when the tracker is already LOCKED, RUNNING follows at once. -/
def loadEffect (memory : List Byte) (s : State) : State :=
  let s := enterListening memory s
  if s.tracker.state = .locked then enterRunning s else s

/-- LOAD_COMPLETION (R206). -/
def execLoadCompletion (memory : List Byte) (s : State) : Result :=
  whenLive s fun s => whenDue (s.startUp == .loading) (settled (loadEffect memory)) s

/-- R206: whether the listening deadline is now. -/
def State.listeningDue (s : State) : Bool := s.startUp == .listening && s.reached s.listening

/-- LISTENING_DEADLINE (R206). -/
def execListeningDeadline (s : State) : Result := whenLive s fun s => whenDue s.listeningDue (settled enterRunning) s

end Sys2Proof.Machine
end

