-- ==== Sys2Proof/Machine/TableCommands.lean ====
section
/-! DEFINITION. The commands of the station table, the segment engine's expiries and the address map. -/

namespace Sys2Proof.Machine

/-- ENTRY_AGING_DEADLINE (R131) of entry `e`. -/
def execEntryAgingDeadline (e : EntryIx) (s : State) : Result :=
  whenLive s fun s => whenDue (s.agingDue e) (settled (ageOut e)) s

/-- HOLD_EXPIRY (R134) of entry `e`. -/
def execHoldExpiry (e : EntryIx) (s : State) : Result :=
  whenLive s fun s => whenDue (s.holdDue e) (settled (clearHold e)) s

/-- NOTE_DEADLINE (R139). -/
def execNoteDeadline (s : State) : Result := whenLive s fun s => whenDue (s.reached s.note.deadline) (settled noteDue) s

/-- FRAME_EXPIRY (R156) of the host frame `id`; a frame whose expiry is not now stays (assumption log 1). -/
def execFrameExpiry (id : Nat) (s : State) : Result := whenLive s (settled (expireFrame id))

/-- R181: whether the map entry at `i` ages out now. -/
def State.mapDue (s : State) (i : MapIx) : Bool :=
  s.reached ((s.addressMap[i]).map fun m => m.learned.plus 300000000)

/-- R181: the map entry at `i` is removed. -/
def ageMap (i : MapIx) (s : State) : State := bump .mapAged (setMap i none s)

/-- MAP_AGING (R181) of index `i`. -/
def execMapAging (i : MapIx) (s : State) : Result := whenLive s fun s => whenDue (s.mapDue i) (ageMap i) s

end Sys2Proof.Machine
end

