-- ==== Sys2Proof/Machine/TrackerCommands.lean ====
section
/-! DEFINITION. The commands of the mains tracker: ZC_CROSSING, REFERENCE_DROP, WINDOW_EXPIRY and FREE_RUN_SYNTHETIC. -/

namespace Sys2Proof.Machine

/-- R11: a new tracker record; a change from a trusted state to an untrusted one raises the tracker-untrusted flag. -/
def setTracker (t : Tracker) (s : State) : State :=
  let s' := { s with tracker := t }
  if s.tracker.trusted && !t.trusted then raiseTrackerUntrusted s' else s'

/-- R2, R4, R6 to R10: a ZC edge now. Entering LOCKED ends LISTENING (R206). -/
def crossingEffect (s : State) : State :=
  let r := s.tracker.crossing s.lineTime
  let entered := r.1.state == .locked && s.tracker.state != .locked
  let s := setTracker { r.1 with lastEdge := some s.lineTime } s
  let s := if r.2 then bump .zcGlitches s else s
  if entered then lockEndsListening s else s

/-- R5: the reference is dropped. -/
def dropReference (s : State) : State := setTracker { s.tracker with lastCrossing := none, lockCount := 0 } s

/-- R8, R9: the window of the expected crossing expires. -/
def expireWindow (s : State) : State := setTracker s.tracker.expire s

/-- R10: a synthetic crossing is placed in FREE-RUN. -/
def placeSynthetic (s : State) : State :=
  setTracker { s.tracker with lastCrossing := s.tracker.expected, lastKind := .synthetic } s

/-- ZC_CROSSING (R2). -/
def execZcCrossing (s : State) : Result := whenLive s (settled crossingEffect)

/-- REFERENCE_DROP (R5). -/
def execReferenceDrop (s : State) : Result := whenLive s fun s => whenDue (s.tracker.dropDue s.lineTime) dropReference s

/-- WINDOW_EXPIRY (R8, R9). -/
def execWindowExpiry (s : State) : Result := whenLive s fun s => whenDue (s.tracker.expiryDue s.lineTime) expireWindow s

/-- FREE_RUN_SYNTHETIC (R10). -/
def execFreeRunSynthetic (s : State) : Result :=
  whenLive s fun s => whenDue (s.tracker.syntheticDue s.lineTime) placeSynthetic s

end Sys2Proof.Machine
end

