-- ==== Sys2Proof/Machine/Dispatch.lean ====
section
/-! DEFINITION. The meaning of every command, by one direct call. -/

namespace Sys2Proof.Machine

def exec (i : Instr) (s : State) : Host.Outcome State Fault Refusal :=
  match i with
  | .zcCrossing => Sys2Proof.Machine.execZcCrossing s
  | .referenceDrop => Sys2Proof.Machine.execReferenceDrop s
  | .windowExpiry => Sys2Proof.Machine.execWindowExpiry s
  | .freeRunSynthetic => Sys2Proof.Machine.execFreeRunSynthetic s
  | .frameStart pair preamble => Sys2Proof.Machine.execFrameStart pair preamble s
  | .headerEvent copies => Sys2Proof.Machine.execHeaderEvent copies s
  | .frameEnd payload readings => Sys2Proof.Machine.execFrameEnd payload readings s
  | .signalSlotEnd => Sys2Proof.Machine.execSignalSlotEnd s
  | .toneHeard => Sys2Proof.Machine.execToneHeard s
  | .contentionSlotEnd preamble => Sys2Proof.Machine.execContentionSlotEnd preamble s
  | .soundPayloadStart => Sys2Proof.Machine.execSoundPayloadStart s
  | .sentFrameEnd => Sys2Proof.Machine.execSentFrameEnd s
  | .gapDeadline => Sys2Proof.Machine.execGapDeadline s
  | .toneWatchEnd => Sys2Proof.Machine.execToneWatchEnd s
  | .responseDeadline => Sys2Proof.Machine.execResponseDeadline s
  | .respStart => Sys2Proof.Machine.execRespStart s
  | .respFrameEnd => Sys2Proof.Machine.execRespFrameEnd s
  | .dutyBoundary drvhot => Sys2Proof.Machine.execDutyBoundary drvhot s
  | .soundDeadline => Sys2Proof.Machine.execSoundDeadline s
  | .sound20msPoint => Sys2Proof.Machine.execSound20msPoint s
  | .soundSlotEligible => Sys2Proof.Machine.execSoundSlotEligible s
  | .buildCompletion e => Sys2Proof.Machine.execBuildCompletion e s
  | .rebuildDeadline e => Sys2Proof.Machine.execRebuildDeadline e s
  | .entryAgingDeadline e => Sys2Proof.Machine.execEntryAgingDeadline e s
  | .holdExpiry e => Sys2Proof.Machine.execHoldExpiry e s
  | .noteDeadline => Sys2Proof.Machine.execNoteDeadline s
  | .frameExpiry id => Sys2Proof.Machine.execFrameExpiry id s
  | .mapAging at_ => Sys2Proof.Machine.execMapAging at_ s
  | .hostFrameReceived frame => Sys2Proof.Machine.execHostFrameReceived frame s
  | .hostHoldEnd => Sys2Proof.Machine.execHostHoldEnd s
  | .pauseRefresh => Sys2Proof.Machine.execPauseRefresh s
  | .hostTxDone strap => Sys2Proof.Machine.execHostTxDone strap s
  | .status => Sys2Proof.Machine.execStatus s
  | .attentionClear => Sys2Proof.Machine.execAttentionClear s
  | .counters => Sys2Proof.Machine.execCounters s
  | .countersClear => Sys2Proof.Machine.execCountersClear s
  | .stationTable => Sys2Proof.Machine.execStationTable s
  | .windowRead => Sys2Proof.Machine.execWindowRead s
  | .addressMap => Sys2Proof.Machine.execAddressMap s
  | .configRead => Sys2Proof.Machine.execConfigRead s
  | .restart => Sys2Proof.Machine.execRestart s
  | .unknownRequest => Sys2Proof.Machine.execUnknownRequest s
  | .powerReset => Sys2Proof.Machine.execPowerReset s
  | .pinReset => Sys2Proof.Machine.execPinReset s
  | .resetEnd strap => Sys2Proof.Machine.execResetEnd strap s
  | .loadCompletion memory => Sys2Proof.Machine.execLoadCompletion memory s
  | .listeningDeadline => Sys2Proof.Machine.execListeningDeadline s
  | .payloadSymbolStart => Sys2Proof.Machine.execPayloadSymbolStart s

end Sys2Proof.Machine
end

