-- ==== Sys2Proof/Machine/Tick.lean ====
section
/-! DEFINITION. What the part does with no command waiting: the events of its own clock that fall at the present line time are
raised, and when there are none left the line time advances by one (R1; assumption log 2). -/

namespace Sys2Proof.Machine

/-- A command, if its event is now. -/
def dueIf (due : Bool) (c : Instr) : List Instr := if due then [c] else []

/-- The due events of the tracker, the line interface and the medium access controller. -/
def State.dueLine (s : State) : List Instr :=
  dueIf (s.tracker.dropDue s.lineTime) .referenceDrop ++ dueIf (s.tracker.expiryDue s.lineTime) .windowExpiry ++
    dueIf (s.tracker.syntheticDue s.lineTime) .freeRunSynthetic ++ dueIf s.signalSlot.isSome .signalSlotEnd ++
    dueIf s.contentionSlot (.contentionSlotEnd false) ++ dueIf s.soundPayloadDue .soundPayloadStart ++
    dueIf (s.sentEndDue FrameKind.contended) .sentFrameEnd ++ dueIf s.gapDue .gapDeadline ++
    dueIf s.watchDue .toneWatchEnd ++ dueIf s.responseDue .responseDeadline ++ dueIf s.respDue .respStart ++
    dueIf (s.sentEndDue fun k => k == .resp) .respFrameEnd ++ dueIf s.symbolDue .payloadSymbolStart ++
    dueIf s.boundaryDue (.dutyBoundary (Config.drvhotLevel s.draws))

/-- The due events of one entry of the station table. -/
def State.dueEntry (s : State) (e : EntryIx) : List Instr :=
  dueIf (s.completionDue e) (.buildCompletion e) ++ dueIf (s.rebuildIsDue e) (.rebuildDeadline e) ++
    dueIf (s.agingDue e) (.entryAgingDeadline e) ++ dueIf (s.holdDue e) (.holdExpiry e)

/-- R156: the host frames held for sending whose expiry is now. -/
def State.dueFrames (s : State) : List Instr :=
  let queued := s.queues.toList.flatten
  let numbered := s.table.toList.flatMap fun e => (e.map fun x => x.tx.numbered.map (·.frame)).getD []
  ((queued ++ numbered).filter fun f => f.expiry == s.lineTime).map fun f => .frameExpiry f.id

/-- The due events of the estimator, the note schedule, the port and the start-up. -/
def State.dueOthers (s : State) : List Instr :=
  dueIf (s.reached s.estimator.deadline) .soundDeadline ++ dueIf s.wantPointDue .sound20msPoint ++
    dueIf s.slotEligibleDue .soundSlotEligible ++ dueIf (s.reached s.note.deadline) .noteDeadline ++
    dueIf (s.reached s.port.hold) .hostHoldEnd ++ dueIf (s.port.pauseOn && s.reached s.port.refresh) .pauseRefresh ++
    dueIf s.listeningDue .listeningDeadline

/-- R191: the service of the request at the head of the list, if it is served now. -/
def State.dueService (s : State) : List Instr :=
  match s.port.requests.head? with
  | none => []
  | some r =>
    if s.port.response.isSome then []
    else
      match r.body with
      | .status c => [if RequestBody.isStatusClear (.status c) then .attentionClear else .status]
      | .counters c => [if c then .countersClear else .counters]
      | .stationTable .. => [.stationTable]
      | .windowRead _ => [.windowRead]
      | .addressMap .. => [.addressMap]
      | .configRead => [.configRead]
      | .restart => [.restart]
      | .malformed => [.unknownRequest]

/-- The events of the part's own timing that fall at the present line time. -/
def State.dueEvents (s : State) : List Instr :=
  s.dueLine ++ (List.finRange 24).flatMap s.dueEntry ++ s.dueFrames ++
    ((List.finRange 128).filter s.mapDue).map .mapAging ++ s.dueOthers

/-- Events due together are taken in an order that nothing fixes (assumption log 3): each next one is a free choice among those
left. The number is that of free values drawn so far. -/
def freeOrder : Nat → Nat → List Instr → List Instr
  | 0, _, cs => cs
  | _ + 1, _, [] => []
  | _ + 1, _, [c] => [c]
  | fuel + 1, n, c :: d :: cs =>
    let all := c :: d :: cs
    let k := Config.eventOrder n % all.length
    all.getD k c :: freeOrder fuel (n + 1) (all.eraseIdx k)

/-- The events due and not yet raised at this instant. A service fills the response buffer, so it is due again only where a further
request is at the head with the buffer empty, and is then raised again (R191). -/
def State.fresh (s : State) : List Instr := (s.dueEvents.filter fun c => !s.raised.contains c) ++ s.dueService

/-- What the part does with no command waiting. A POWER or PIN reset holds the line time at 0. -/
def tick (s : State) : State :=
  if s.held.isSome then s
  else
    let cs := s.fresh
    if cs.isEmpty then { s with lineTime := s.lineTime + 1#32, raised := [] }
    else
      { s with pending := freeOrder cs.length s.draws cs, raised := cs ++ s.raised, draws := s.draws + cs.length }

end Sys2Proof.Machine
end

