-- ==== Sys2Proof/Safety.lean ====
section
/-! DEFINITION. What holds of the part in every run, in the terms that statements use. -/

namespace Sys2Proof.Machine

/-- R207: no POWER or PIN reset holds the part. -/
abbrev State.Live (s : State) : Prop := s.held = none

/-- R188: the transmitter is not free while a frame that it could send is ready; delivered frames wait while a request is about to be
served (R191). -/
abbrev Port.Rested (p : Port) : Prop :=
  p.sending.isSome = true ∨
    (p.pausePending = none ∧ (p.hold.isSome = true ∨ (p.response = none ∧ (p.delivery = [] ∨ p.requests ≠ []))))

/-- R176, R188: between commands the indicator stands evaluated and the transmitter has made its choice. -/
abbrev State.Rested (s : State) : Prop := s.evalDue = false ∧ s.port.Rested

/-- R45: the window stage lies in 0..5, and a held backoff counter is less than the window of that stage. -/
def Mac.bounded (m : Mac) : Bool :=
  decide (m.stage ≤ 5) &&
    match m.backoff with
    | some n => decide (n < windowOf m.stage)
    | none => true

/-- R2, R4, R8 to R10: the tracker record in each of its states: the half-cycle lies in its range, SEEKING has not locked, LOCKED
stands on a real crossing with both counts 0, HOLDOVER on a synthetic one with 1..15 misses and at most 3 disturbed crossings, and
FREE-RUN on a synthetic one with 16 misses. -/
def Tracker.lawful (t : Tracker) : Bool :=
  (match t.h with
    | some h => decide (Config.halfCycleMin ≤ h ∧ h ≤ Config.halfCycleMax)
    | none => true) &&
  match t.state with
  | .seeking =>
    decide (t.lockCount ≤ 7 ∧ t.missCount = 0 ∧ t.disturbedCount = 0 ∧
      (1 ≤ t.lockCount → t.lastCrossing.isSome = true ∧ t.h.isSome = true))
  | .locked =>
    decide (t.lastCrossing.isSome = true ∧ t.h.isSome = true ∧ t.lastKind = .real ∧ t.missCount = 0 ∧ t.disturbedCount = 0)
  | .holdover =>
    decide (t.lastCrossing.isSome = true ∧ t.h.isSome = true ∧ t.lastKind = .synthetic ∧ 1 ≤ t.missCount ∧ t.missCount ≤ 15 ∧
      t.disturbedCount ≤ 3)
  | .freeRun =>
    decide (t.lastCrossing.isSome = true ∧ t.h.isSome = true ∧ t.lastKind = .synthetic ∧ t.missCount = 16)

/-- R54: the guard is LIMITED exactly while its hold count is not 0, and the hold count lies in 0..255. -/
def Thermal.lawful (t : Thermal) : Bool := t.limited == decide (t.holdCount ≠ 0) && decide (t.holdCount ≤ 255)

/-- R177, R190: the control list holds at most 16 entries, and the request list at most 4. -/
abbrev State.ListsBounded (s : State) : Prop := s.control.length ≤ 16 ∧ s.port.requests.length ≤ 4

/-- R100, R103: no entry holds two slots of the pool in one role, its RX-PENDING tag differs from its RX-CURRENT tag, and its
TX-ASSEMBLING tag from its TX-ACTIVE tag. -/
def PoolLawful (pool : Vector (Option HeldGrid) 48) : Prop :=
  ∀ (i j : SlotIx) (g h : HeldGrid), pool[i] = some g → pool[j] = some h → g.entry = h.entry →
    (g.role = h.role → i = j) ∧
    (g.role = .rxPending → h.role = .rxCurrent → g.grid.tag ≠ h.grid.tag) ∧
    (g.role = .txAssembling → h.role = .txActive → g.grid.tag ≠ h.grid.tag)

/-- R55: while the guard is LIMITED, the airtime of the frames that the station has started by contention in the present duty period does
not exceed its allowance. That in LOADING the guard is COOL is the model's choice, which takes no sample there where R54 speaks of each
boundary (DEDUCED, assumption log 13). -/
abbrev State.AllowanceHeld (s : State) : Prop :=
  (s.startUp = .loading → s.thermal.limited = false) ∧
    (s.thermal.limited = true → s.thermal.used ≤ s.settings.dutyPercent * 100)

/-- The part `s` with what the events that end a command may write taken from `t`: the MAC record, the heads of the queues, the counters
and the indicator, which a beginning contention period and the evaluation of R176 write, and of the port what R188 and R189 write. A
statement that gives `t` as `s.endedAs t` says that every other field is that of `s`. -/
def State.endedAs (s t : State) : State :=
  { s with
    mac := t.mac
    queues := t.queues
    counters := t.counters
    holdsCandidate := t.holdsCandidate
    port := { s.port with
      sending := t.port.sending, pausePending := t.port.pausePending, pauseOn := t.port.pauseOn, refresh := t.port.refresh } }

/-- An entry without its direct rate and its route, which a route recomputation (R138) may write in every entry. A statement that says
that the entries are `unrouted` alike says that nothing else of them has changed. -/
def Entry.unrouted (e : Entry) : Entry := { e with txRate := 0, route := .noRoute }

/-- R125, R138: every entry but that at `i` is as it was, its direct rate and route apart. -/
def State.OthersKept (s t : State) (i : EntryIx) : Prop :=
  ∀ j : EntryIx, j ≠ i → (t.entry j).map Entry.unrouted = (s.entry j).map Entry.unrouted

/-- R122, R132, R178: the part once entry `i` is gone with its slots of the pool and its parts on the control list, a list of 16 having given
its room to the parts of other entries. -/
def State.leftBy (s : State) (i : EntryIx) : State :=
  leaveControl (fun c => c.partOf i)
    { s with table := s.table.set i none, pool := s.pool.map fun g => g.filter fun h => h.entry != i }

/-- R26: a header of this house that the address filter processes: it names this station, or all stations. -/
abbrev Header.Addressed (h : Header) (s : State) : Prop := h.rx = s.settings.station ∨ h.rx = Addr.broadcast

/-- R16: a SOUND or NOTE header gives a slot-offset sample when it and the receive stamp are both trusted. -/
abbrev Reception.Samples (r : Reception) (h : Header) : Prop :=
  (h.kind = .sound ∨ h.kind = .note) ∧ r.stampTrusted = true ∧ h.trusted = true

/-- R16, R17: the offset record of the transmitter's entry after an addressed header; a sample that is discarded leaves it. -/
def Reception.offsetAfter (r : Reception) (h : Header) (o : SlotOffset) : SlotOffset :=
  if r.Samples h then ((offsetSample r.stampPhase h.phase.toNat).map o.apply).getD o else o

/-- R27, R51: the responder duty after a valid header of this house: an addressed DATA or GRID frame opens one. -/
def State.dutyAfter (s : State) (r : Reception) (h : Header) : Option ResponderDuty :=
  if h.Addressed s ∧ (h.kind = .data ∨ h.kind = .grid) then
    some { transmitter := h.tx, pair := h.pair, frameEnd := r.frameStart.plus (192 + 32 * h.symbols), resp := none }
  else s.mac.duty

/-- R16, R27, R51: what a valid header of a station with an entry leaves with the MAC and the counters of received headers. -/
def State.Told (s t : State) (r : Reception) (h : Header) : Prop :=
  t.mac.duty = s.dutyAfter r h ∧ (s.mac.state ≠ .idle → t.mac = { s.mac with duty := s.dutyAfter r h }) ∧
    (∀ p, t.count (.dataReceived p) =
      if h.Addressed s ∧ h.kind = .data ∧ h.priority = p then satInc (s.count (.dataReceived p)) else s.count (.dataReceived p)) ∧
    t.count .misalignedOffsets =
      if h.Addressed s ∧ r.Samples h ∧ offsetSample r.stampPhase h.phase.toNat = none then satInc (s.count .misalignedOffsets)
      else s.count .misalignedOffsets

/-! ### The part's own events, as statements speak of them -/

/-- R1: when each event of the part's own timing falls at the present line time, by the rule that names its instant. The events that come
from outside, and the service of a request, which R191 starts, have no such instant. -/
def State.Due (s : State) : Instr → Prop
  -- R5, R8 to R10
  | .referenceDrop => s.tracker.state = .seeking ∧ ∃ ref, s.tracker.lastCrossing = some ref ∧ ref.dist s.lineTime = 11001
  | .windowExpiry =>
    (s.tracker.state = .locked ∨ s.tracker.state = .holdover) ∧
      ∃ c h, s.tracker.lastCrossing = some c ∧ s.tracker.h = some h ∧ s.lineTime = (c.plus h).plus 400
  | .freeRunSynthetic =>
    s.tracker.state = .freeRun ∧ ∃ c h, s.tracker.lastCrossing = some c ∧ s.tracker.h = some h ∧ s.lineTime = c.plus h
  -- R42, R44
  | .signalSlotEnd =>
    s.mac.state = .signal ∧ (s.lineTime = s.mac.periodStart.plus 40 ∨ s.lineTime = s.mac.periodStart.plus 80)
  | .contentionSlotEnd preamble =>
    preamble = false ∧ s.mac.state = .backoff ∧ (s.mac.periodStart.plus 80).dist s.lineTime ≠ 0 ∧
      (s.mac.periodStart.plus 80).dist s.lineTime % 40 = 0
  -- R21, R47, R52, R72
  | .soundPayloadStart => ∃ f, s.line.sending = some f ∧ f.header.kind = .sound ∧ s.lineTime = f.start.plus 192
  | .sentFrameEnd => ∃ f, s.line.sending = some f ∧ f.header.kind ≠ .resp ∧ s.lineTime = f.stop
  | .respFrameEnd => ∃ f, s.line.sending = some f ∧ f.header.kind = .resp ∧ s.lineTime = f.stop
  -- R40, R43, R48, R51
  | .gapDeadline =>
    s.mac.state = .deferring ∧ (s.mac.gap = some (.quiet s.lineTime) ∨ s.mac.gap = some (.response s.lineTime))
  | .toneWatchEnd => s.mac.state = .deferring ∧ s.mac.gap = some (.toneWatch s.lineTime)
  | .responseDeadline =>
    s.mac.state = .awaitingResponse ∧ s.line.reception = none ∧ ∃ w, s.mac.wait = some w ∧ s.lineTime = w.frameEnd.plus 120
  | .respStart =>
    s.mac.state = .responding ∧ s.line.sending = none ∧
      ∃ d b, s.mac.duty = some d ∧ d.resp = some b ∧ s.lineTime = d.frameEnd.plus 60
  -- R36, R120
  | .payloadSymbolStart =>
    ∃ r h f x, s.line.reception = some r ∧ r.header = .used h f x ∧ r.slots.length < h.payloadSymbols ∧
      s.lineTime = r.frameStart.plus (192 + 32 * r.slots.length)
  -- R54; the sample of DRVHOT is a free value (assumption log 11)
  | .dutyBoundary drvhot => drvhot = Config.drvhotLevel s.draws ∧ s.lineTime = s.thermal.nextBoundary
  -- R77, R92, R79, R131, R134
  | .buildCompletion i =>
    ∃ e start c x, s.entry i = some e ∧ e.build.state = .building start c x ∧ s.lineTime = start.plus 1000
  | .rebuildDeadline i => ∃ e, s.entry i = some e ∧ e.build.deadline = some s.lineTime
  | .entryAgingDeadline i =>
    ∃ e, s.entry i = some e ∧
      (((e.state = .heard ∨ e.state = .linked) ∧ ∃ t, e.lastHeard = some t ∧ s.lineTime = t.plus 15000000) ∨
        (e.state = .stale ∧ ∃ t, e.lastHeard = some t ∧ s.lineTime = t.plus 60000000) ∨
        (e.state = .remote ∧ ∃ t, e.lastNamed = some t ∧ s.lineTime = t.plus 30000000))
  | .holdExpiry i => ∃ e, s.entry i = some e ∧ e.hold = some s.lineTime
  -- R156, R181
  | .frameExpiry id =>
    ∃ f : HostFrame, f.id = id ∧ f.expiry = s.lineTime ∧
      ((∃ q : QueueIx, f ∈ s.queues[q]) ∨ ∃ i e x, s.entry i = some e ∧ x ∈ e.tx.numbered ∧ x.frame = f)
  | .mapAging i => ∃ m, s.addressMap[i] = some m ∧ s.lineTime = m.learned.plus 300000000
  -- R69, R71, R139
  | .soundDeadline => s.estimator.deadline = some s.lineTime
  | .sound20msPoint =>
    (∃ t, s.estimator.lastSound = some t ∧ s.lineTime = t.plus 20000) ∧
      ∃ (p : Pair) (m : MainsSlot), s.estimator.wants[p][m] ≠ 0
  | .soundSlotEligible =>
    s.holdsCandidate = false ∧ ∃ x, s.estimator.placed = some x ∧
      (s.estimator.wants[x.pair][s.slot] ≠ 0 ∨ ∀ m : MainsSlot, s.estimator.wants[x.pair][m] = 0)
  | .noteDeadline => s.note.deadline = some s.lineTime
  -- R187, R189, R206
  | .hostHoldEnd => s.port.hold = some s.lineTime
  | .pauseRefresh => s.port.pauseOn = true ∧ s.port.refresh = some s.lineTime
  | .listeningDeadline => s.startUp = .listening ∧ s.listening = some s.lineTime
  | .zcCrossing | .frameStart .. | .headerEvent .. | .frameEnd .. | .toneHeard | .hostFrameReceived .. | .hostTxDone .. | .status
  | .attentionClear | .counters | .countersClear | .stationTable | .windowRead | .addressMap | .configRead | .restart | .unknownRequest
  | .powerReset | .pinReset | .resetEnd .. | .loadCompletion .. => False

/-- R191 to R197: the command that serves a request. -/
def RequestBody.service : RequestBody → Instr
  | .status clear => if clear &&& 0x3F#8 = 0#8 then .status else .attentionClear
  | .counters clear => if clear then .countersClear else .counters
  | .stationTable .. => .stationTable
  | .windowRead _ => .windowRead
  | .addressMap .. => .addressMap
  | .configRead => .configRead
  | .restart => .restart
  | .malformed => .unknownRequest

/-! ### Routes and the address map, as statements speak of them -/

/-- R136: `p` is a valid via for `d`, with the via rate `r` of `d` through it; `rates` are the direct rates. (A reach list names an address
once, R141; were one to name it more often, its first item with a rate above 0 would count.) -/
def ViaValid (table : Vector (Option Entry) 24) (rates : EntryIx → Nat) (p d : EntryIx) (r : Nat) : Prop :=
  p ≠ d ∧ 0 < rates p ∧ ∃ pe de items x, table[p] = some pe ∧ table[d] = some de ∧ (pe.state = .heard ∨ pe.state = .linked) ∧
    pe.relay = true ∧ pe.reach = some items ∧ (items.find? fun y => y.addr == de.addr && decide (0 < y.rate)) = some x ∧
    r = rates p * x.rate / (rates p + x.rate)

/-- R136: `q` is the best valid via for `d`, with its via rate: the largest rate, the lowest index on a tie. -/
def ViaBest (table : Vector (Option Entry) 24) (rates : EntryIx → Nat) (q d : EntryIx) (rq : Nat) : Prop :=
  ViaValid table rates q d rq ∧ ∀ p r, ViaValid table rates p d r → r < rq ∨ (r = rq ∧ q ≤ p)

/-- R180: `k` is the map entry with the greatest distance from its last learning to now, the lower index on a tie. -/
def State.MapOldest (s : State) (k : MapIx) : Prop :=
  ∃ x, s.addressMap[k] = some x ∧ ∀ (j : MapIx) (y : MapEntry), s.addressMap[j] = some y →
    y.learned.dist s.lineTime < x.learned.dist s.lineTime ∨ (y.learned.dist s.lineTime = x.learned.dist s.lineTime ∧ k ≤ j)

/-- R180: what the learning of the device address `a` with a target leaves in the map and its two counters: the entry that holds the
address learns the target, and counts a move where it had another; else one is created at the lowest empty index; else, with all 128 held,
the oldest is replaced and counted. -/
def State.Learnt (s t : State) (a : Addr) (target : MapTarget) : Prop :=
  let m : MapEntry := { device := a, target := target, learned := s.lineTime }
  (∀ k x, s.findDevice a = some k → s.addressMap[k] = some x → t.addressMap = s.addressMap.set k (some m) ∧
    t.count .addressMoves = (if x.target = target then s.count .addressMoves else satInc (s.count .addressMoves)) ∧
    t.count .mapReplacements = s.count .mapReplacements) ∧
  (∀ k : MapIx, s.findDevice a = none → s.addressMap[k] = none → (∀ j : MapIx, j < k → s.addressMap[j] ≠ none) →
    t.addressMap = s.addressMap.set k (some m) ∧ t.count .addressMoves = s.count .addressMoves ∧
    t.count .mapReplacements = s.count .mapReplacements) ∧
  (∀ k : MapIx, s.findDevice a = none → (∀ j : MapIx, s.addressMap[j] ≠ none) → s.MapOldest k →
    t.addressMap = s.addressMap.set k (some m) ∧ t.count .addressMoves = s.count .addressMoves ∧
    t.count .mapReplacements = satInc (s.count .mapReplacements))

/-- R210: a field of a report: the `n` bytes from `at_` hold `v`, high byte first. -/
abbrev Carries (report : List Byte) (at_ n v : Nat) : Prop := (report.drop at_).take n = beBytes n v

/-- R210: the fields of a CONFIG READ response (R195): the configuration `c` in the layout of the image, then the facts of R204. -/
def Settings.Reported (c : Settings) (report : List Byte) : Prop :=
  let is := Carries report
  let bit := fun (b : Bool) (n : Nat) => if b then n else 0
  report.length = 79 ∧
  is 0 1 (bit c.relay 1 + bit c.pauseEnable 2 + bit c.pairs[0] 4 + bit c.pairs[1] 8 + bit c.pairs[2] 16) ∧
  is 1 6 c.station.toNat ∧ is 7 2 c.house.toNat ∧ is 9 1 c.margin ∧ is 10 1 c.bands.length ∧
  (∀ (k : Nat) (b : Band), c.bands[k]? = some b → is (11 + 3 * k) 3 (b.first * 2 ^ 14 + b.width * 2 ^ 4 + b.cap)) ∧
  (∀ k, c.bands.length ≤ k → k < 8 → is (11 + 3 * k) 3 0) ∧
  (∀ (k : Nat) (high low : QueueIx), c.vlan[2 * k]? = some high → c.vlan[2 * k + 1]? = some low →
    is (35 + k) 1 (16 * (high.val + 1) + (low.val + 1))) ∧
  is 39 1 (c.defaultQueue.val + 1) ∧
  (∀ q : QueueIx, is (40 + 4 * q.val) 1 c.queues[q].depth ∧ is (41 + 4 * q.val) 2 c.queues[q].lifetimeMs ∧
    is (43 + 4 * q.val) 1 c.queues[q].priority.val) ∧
  is 64 1 c.tierOrder.val ∧ is 65 1 (bit c.leads[0] 1 + bit c.leads[1] 2 + bit c.leads[2] 4) ∧
  is 66 2 c.noteMs ∧ is 68 2 c.soundMs ∧ is 70 1 c.rebuildS ∧ is 71 1 c.dutyPercent ∧ is 72 1 c.holdPeriods ∧
  is 73 1 c.deferralLimit ∧ is 74 1 c.segmentRetry ∧ is 75 1 c.partRetry ∧ is 76 1 (bit c.imageValid 1) ∧
  (c.addrSource = .image → is 77 1 0) ∧ (c.addrSource = .factory → is 77 1 1) ∧ (c.addrSource = .fallback → is 77 1 2) ∧
  is 78 1 c.clamped

/-- R210: the ten bytes of a role record in a station table report, from `at_`. -/
def State.RoleReported (s : State) (i : EntryIx) (r : Role) (report : List Byte) (at_ : Nat) : Prop :=
  (s.roleSlot i r = none → Carries report at_ 1 255) ∧
  (∀ x h, s.roleSlot i r = some x → s.pool[x] = some h →
    Carries report at_ 1 x.val ∧ Carries report (at_ + 1) 1 h.grid.tag.toNat ∧
    Carries report (at_ + 2) 1 (h.grid.pair.val + 4 * h.grid.columns.length) ∧
    Carries report (at_ + 3) 4 h.grid.issueTime.toNat ∧ (r ≠ .txAssembling → Carries report (at_ + 7) 3 h.grid.rate)) ∧
  (r = .txAssembling → Carries report (at_ + 7) 3 0)

/-- R210: the fields of the station table report (R143) of the index `i` that holds the entry `e`. A field whose value the manual does not
state, because what it describes is absent, has no clause. -/
def State.EntryReported (s : State) (i : EntryIx) (e : Entry) (report : List Byte) : Prop :=
  let is := Carries report
  let bit := fun (b : Bool) (n : Nat) => if b then n else 0
  let bands := e.peerBands.getD []
  let items := e.reach.getD []
  report.length = 113 + 3 * bands.length + 9 * items.length ∧
  is 0 1 i.val ∧ is 1 1 (1 + bit e.reach.isSome 2) ∧ is 2 6 e.addr.toNat ∧
  (let state := match e.state with
     | .remote => 0
     | .heard => 1
     | .linked => 2
     | .stale => 3
   is 8 1 (state + bit e.peerTrusted 4 + bit e.relay 8 + bit e.hold.isSome 16 + bit e.lastHeard.isSome 32 +
     bit e.lastNamed.isSome 64 + bit e.peerBands.isSome 128)) ∧
  (∀ t, e.lastHeard = some t → is 9 4 t.toNat) ∧ (∀ t, e.lastNamed = some t → is 13 4 t.toNat) ∧
  (∃ x, x < 8 ∧ (e.offset.confirm ≠ 0 → x = e.offset.candidate.val) ∧
    is 17 1 ((e.offset.held.map Fin.val).getD 7 + 8 * x + 64 * e.offset.confirm)) ∧
  (∀ t, e.hold = some t → is 18 4 t.toNat) ∧ is 22 1 e.streak ∧
  (∃ x, x < 32 ∧ (e.route = .direct → is 23 1 x) ∧ (e.route = .noRoute → is 23 1 (128 + x))) ∧
  (∀ v, e.route = .via v → is 23 1 (64 + v.val)) ∧ is 24 3 e.txRate ∧
  (∀ (p : Pair) (m : MainsSlot), is (27 + 6 * p.val + m.val) 1 e.snr[p][m].count) ∧
  (let building := match e.build.state with
     | .building .. => 1
     | .idle => 0
   let code := match e.build.last with
     | .noOutcome => 0
     | .issued .. => 1
     | .heldBack .. => 2
     | .noGrid => 3
   is 45 1 (building + bit e.build.remembered.isSome 2 + bit ((e.build.remembered.map Causes.forced).getD false) 4 +
     bit e.build.retrySpent 8 + 16 * code)) ∧
  is 46 1 e.build.boost ∧
  (∀ p k rate, e.build.last = .issued p k rate ∨ e.build.last = .heldBack p k rate → is 47 1 (p.val + 4 * k) ∧ is 48 3 rate) ∧
  s.RoleReported i .rxCurrent report 51 ∧ s.RoleReported i .rxPending report 61 ∧ s.RoleReported i .txActive report 71 ∧
  s.RoleReported i .txAssembling report 81 ∧
  is 91 1 e.store.nextTag.toNat ∧
  (e.store.issue = .noIssue → is 92 1 0) ∧ (e.store.issue = .sending → is 92 1 1) ∧ (e.store.issue = .delivered → is 92 1 2) ∧
  is 93 1 (e.store.parts.countP fun p => p.place != .accepted) ∧ is 94 1 (e.store.parts.countP fun p => p.place == .unplaced) ∧
  (s.roleGrid i .txAssembling = none → is 95 1 0) ∧
  (∀ g, s.roleGrid i .txAssembling = some g → is 95 1 (bitsToNat (g.columns.map Option.isSome))) ∧
  is 96 2 e.tx.next.toNat ∧ (∀ q, e.tx.oldest = some q → is 98 2 q.toNat) ∧
  (e.tx.oldest = none → ∃ x, x < 2 ^ 15 ∧ is 98 2 (2 ^ 15 + x)) ∧
  is 100 1 e.tx.unacked.length ∧ is 101 1 (e.tx.unacked.countP (·.marked)) ∧ is 102 1 e.tx.numbered.length ∧
  (∀ q, e.rx.expected = some q → is 103 2 q.toNat) ∧ (e.rx.expected = none → ∃ x, x < 2 ^ 15 ∧ is 103 2 (2 ^ 15 + x)) ∧
  is 105 1 e.rx.reorder.length ∧ is 106 1 (bit e.rx.assembling 1) ∧
  is 107 2 ((e.rx.joined.map fun j => j.bytes.length).getD 0xFFFF) ∧ is 109 1 e.rx.window.length ∧
  is 110 1 (e.rx.window.countP (· == false)) ∧ is 111 1 bands.length ∧
  (∀ (k : Nat) (b : Band), bands[k]? = some b → is (112 + 3 * k) 3 (b.first * 2 ^ 14 + b.width * 2 ^ 4 + b.cap)) ∧
  is (112 + 3 * bands.length) 1 items.length ∧
  ∀ (k : Nat) (x : ReachItem), items[k]? = some x →
    is (113 + 3 * bands.length + 9 * k) 6 x.addr.toNat ∧ is (119 + 3 * bands.length + 9 * k) 3 x.rate

/-- R210: the fields of the address map report (R185) of the index `i` that holds the entry `m`. -/
def State.MapReported (s : State) (i : MapIx) (m : MapEntry) (report : List Byte) : Prop :=
  let is := Carries report
  report.length = 17 ∧ is 0 1 i.val ∧ is 2 6 m.device.toNat ∧
  (m.target = .localHost → is 1 1 3 ∧ is 8 6 0) ∧ (∀ a, m.target = .station a → is 1 1 1 ∧ is 8 6 a.toNat) ∧
  is 14 3 (m.learned.dist s.lineTime / 1000)

/-- R198 to R200, R210: what a WINDOW READ response carries of the window `w` of a source whose slot `m` holds the values `row m`, or
none: the window as clipped, its walk with the part from the resume position on, the held flags and the cells. -/
def WindowRequest.Reported (w : WindowRequest) (row : MainsSlot → Option (List Nat)) (report : List Byte) : Prop :=
  let is := Carries report
  let bit := fun (b : Bool) (n : Nat) => if b then n else 0
  let carrierEnd := min 767 (if w.extentMode then w.carrierStart + w.carrierStop else w.carrierStop)
  let slotEnd := min 5 (if w.extentMode then w.slotStart + w.slotStop else w.slotStop)
  let carriers := carrierEnd + 1 - w.carrierStart
  let slots := slotEnd + 1 - w.slotStart
  let n := carriers * slots
  let after := min (w.resume + 1024) n
  let count := after - w.resume
  report.length = 50 + count ∧
  (∀ r, w.source = .grid r → is 0 1 0) ∧ (∀ p, w.source = .snr p → is 0 1 1 ∧ is 2 1 p.val) ∧ is 1 1 w.index ∧
  (w.source = .grid .rxCurrent → is 2 1 0) ∧ (w.source = .grid .rxPending → is 2 1 1) ∧
  (w.source = .grid .txActive → is 2 1 2) ∧ (w.source = .grid .txAssembling → is 2 1 3) ∧
  is 3 1 (bit w.order.slotMajor 1 + bit w.order.carrierReverse 2 + bit w.order.slotReverse 4) ∧
  is 4 2 w.carrierStart ∧ is 6 2 carrierEnd ∧ is 8 1 w.slotStart ∧ is 9 1 slotEnd ∧ is 10 2 n ∧ is 12 2 w.resume ∧
  is 14 2 count ∧ is 16 2 after ∧ is 18 1 (if after = n then 1 else 0) ∧
  is 19 1 (bit (row 0).isSome 1 + bit (row 1).isSome 2 + bit (row 2).isSome 4 + bit (row 3).isSome 8 + bit (row 4).isSome 16 +
    bit (row 5).isSome 32) ∧
  ∀ (k carrier : Nat) (m : MainsSlot), k < count →
    let carrierStep := if w.order.slotMajor then (w.resume + k) % carriers else (w.resume + k) / slots
    let slotStep := if w.order.slotMajor then (w.resume + k) / carriers else (w.resume + k) % slots
    carrier = (if w.order.carrierReverse then carrierEnd - carrierStep else w.carrierStart + carrierStep) →
    m.val = (if w.order.slotReverse then slotEnd - slotStep else w.slotStart + slotStep) →
    (row m = none → is (50 + k) 1 0) ∧ ∀ values v, row m = some values → values[carrier]? = some v → is (50 + k) 1 v

/-- R200: the levels of the column that a grid's map names for a slot, or none while the column has not arrived. -/
def Grid.levelsAt (g : Grid) (m : MainsSlot) : Option (List Nat) :=
  match g.columns[(g.map[m]).val]? with
  | some (some column) => some (column.map Level.bits)
  | _ => none

/-- R200: the averages of a cell as carried, or none with count 0. -/
def Cell.carried (c : Cell) : Option (List Nat) := if c.count = 0 then none else some (c.avgs.map fun a => (a + 32).toNat)

/-- R205: a band is held within its ranges. -/
abbrev Band.Lawful (b : Band) : Prop := b.first ≤ 767 ∧ 1 ≤ b.width ∧ b.first + b.width ≤ 768 ∧ b.cap ≤ 10

/-- R205: a configuration is held within its ranges. -/
abbrev Settings.Lawful (c : Settings) : Prop :=
  c.margin ≤ 60 ∧ c.bands.length ≤ 8 ∧ (∀ b ∈ c.bands, b.Lawful) ∧ (∃ p : Pair, c.pairs[p] = true) ∧
    (∀ q : QueueIx, 4 ≤ c.queues[q].depth ∧ c.queues[q].depth ≤ 64 ∧ 10 ≤ c.queues[q].lifetimeMs ∧
      c.queues[q].lifetimeMs ≤ 2000) ∧
    (250 ≤ c.noteMs ∧ c.noteMs ≤ 5000) ∧ (50 ≤ c.soundMs ∧ c.soundMs ≤ 2000) ∧ (1 ≤ c.rebuildS ∧ c.rebuildS ≤ 30) ∧
    (10 ≤ c.dutyPercent ∧ c.dutyPercent ≤ 90 ∧ c.dutyPercent % 10 = 0) ∧ (1 ≤ c.holdPeriods ∧ c.holdPeriods ≤ 255) ∧
    (1 ≤ c.deferralLimit ∧ c.deferralLimit ≤ 15) ∧ (1 ≤ c.segmentRetry ∧ c.segmentRetry ≤ 15) ∧
    (1 ≤ c.partRetry ∧ c.partRetry ≤ 15)

/-- R204: the factory address of a serial memory of 100 bytes or more and its source: the factory block is valid when its four words add up
to 0xFFFF and its address is individual and not 0; otherwise the fallback address is taken. -/
def FactoryTaken (m : List Byte) (station : Addr) (source : AddrSource) : Prop :=
  let word := fun i => (byteAt i m).toNat * 256 + (byteAt (i + 1) m).toNat
  let valid := (word 0 + word 2 + word 4 + word 6) % 65536 = 0xFFFF ∧ (addrAt 0 m).isGroup = false ∧ addrAt 0 m ≠ 0#48
  (valid → station = addrAt 0 m ∧ source = .factory) ∧ (¬ valid → station = 0x020000000001#48 ∧ source = .fallback)

/-- R205: the configuration taken with an image that is not valid: the default of every field, and the station address of the factory block. -/
def Settings.Defaulted (c : Settings) (m : List Byte) : Prop :=
  FactoryTaken m c.station c.addrSource ∧ c.imageValid = false ∧ c.clamped = 0 ∧ c.house = 0#16 ∧ c.margin = 24 ∧ c.bands = [] ∧
  (∀ p : Pair, c.pairs[p] = true) ∧ c.defaultQueue.val + 1 = 3 ∧
  (c.vlan.toList.map fun q => q.val + 1) = [3, 6, 5, 4, 3, 2, 2, 1] ∧
  (∀ q : QueueIx, c.queues[q].depth = 32 ∧ c.queues[q].lifetimeMs = 200) ∧
  (c.queues.toList.map fun q => q.priority.val) = [3, 3, 2, 2, 1, 0] ∧ c.tierOrder.val = 0 ∧
  (∀ t : Fin 3, c.leads[t] = false) ∧ c.noteMs = 1000 ∧ c.soundMs = 200 ∧ c.rebuildS = 4 ∧ c.relay = true ∧ c.dutyPercent = 50 ∧
  c.holdPeriods = 50 ∧ c.deferralLimit = 4 ∧ c.segmentRetry = 8 ∧ c.partRetry = 6 ∧ c.pauseEnable = true

/-- R204, R205, R210: the configuration taken from a valid image in the serial memory `m`, field by field: the value stored, or what the
third column of the table of R205 puts in its place, and the number of fields so replaced. That a band count above 8 counts as one of them
is the model's reading (DEDUCED, assumption log 26). -/
def Settings.TakenFrom (c : Settings) (m : List Byte) : Prop :=
  let byte := fun i => (byteAt i m).toNat
  let word := fun i => byte i * 256 + byte (i + 1)
  let within := fun (lo hi x : Nat) => if x < lo then lo else if hi < x then hi else x
  let changed := fun (stored taken : Nat) => if stored = taken then 0 else 1
  let own := (addrAt 22 m).isGroup = false ∧ addrAt 22 m ≠ 0#48
  let pair := fun (p : Pair) => (byte 21).testBit (2 + p.val)
  let noPair := ∀ p : Pair, pair p = false
  let bands := min 8 (byte 31)
  let packed := fun k => byte (32 + 3 * k) * 65536 + byte (33 + 3 * k) * 256 + byte (34 + 3 * k)
  let first := fun k => packed k / 2 ^ 14 % 1024
  let width := fun k => packed k / 2 ^ 4 % 1024
  let cap := fun k => packed k % 16
  let kept := fun k : Nat => ({ first := first k, width := min (max 1 (width k)) (768 - first k), cap := min 10 (cap k) } : Band)
  let queue := fun (p : Fin 8) => if p.val % 2 = 0 then byte (56 + p.val / 2) / 16 else byte (56 + p.val / 2) % 16
  (own → c.station = addrAt 22 m ∧ c.addrSource = .image) ∧ (¬ own → FactoryTaken m c.station c.addrSource) ∧
  c.relay = (byte 21).testBit 0 ∧ c.pauseEnable = (byte 21).testBit 1 ∧
  (∀ p : Pair, (noPair → c.pairs[p] = decide (p = 0)) ∧ (¬ noPair → c.pairs[p] = pair p)) ∧
  c.house.toNat = word 28 ∧ c.margin = within 0 60 (byte 30) ∧
  c.bands = ((List.range bands).filter fun k => decide (first k ≤ 767)).map kept ∧
  c.defaultQueue.val + 1 = (if 1 ≤ byte 60 ∧ byte 60 ≤ 6 then byte 60 else 3) ∧
  (∀ p : Fin 8, c.vlan[p].val + 1 = if 1 ≤ queue p ∧ queue p ≤ 6 then queue p else c.defaultQueue.val + 1) ∧
  (∀ q : QueueIx, c.queues[q].depth = within 4 64 (byte (61 + 4 * q.val)) ∧
    c.queues[q].lifetimeMs = within 10 2000 (word (62 + 4 * q.val)) ∧ c.queues[q].priority.val = within 0 3 (byte (64 + 4 * q.val))) ∧
  c.tierOrder.val = (if byte 85 ≤ 5 then byte 85 else 0) ∧ (∀ t : Fin 3, c.leads[t] = (byte 86).testBit t.val) ∧
  c.noteMs = within 250 5000 (word 87) ∧ c.soundMs = within 50 2000 (word 89) ∧ c.rebuildS = within 1 30 (byte 91) ∧
  c.dutyPercent = within 10 90 (byte 92) / 10 * 10 ∧ c.holdPeriods = (if byte 93 = 0 then 1 else byte 93) ∧
  c.deferralLimit = within 1 15 (byte 94) ∧ c.segmentRetry = within 1 15 (byte 95) ∧ c.partRetry = within 1 15 (byte 96) ∧
  c.imageValid = true ∧
  c.clamped = min 255 ((if c.addrSource = .image then 0 else 1) + (if c.pairs.toList = (List.finRange 3).map pair then 0 else 1) +
    changed (byte 30) c.margin + (if 8 < byte 31 then 1 else 0) +
    ((List.range bands).map fun k =>
      if 767 < first k then 1 else changed (width k) (kept k).width + changed (cap k) (kept k).cap).sum +
    changed (byte 60) (c.defaultQueue.val + 1) + ((List.finRange 8).map fun p => changed (queue p) (c.vlan[p].val + 1)).sum +
    ((List.finRange 6).map fun q => changed (byte (61 + 4 * q.val)) c.queues[q].depth +
      changed (word (62 + 4 * q.val)) c.queues[q].lifetimeMs + changed (byte (64 + 4 * q.val)) c.queues[q].priority.val).sum +
    changed (byte 85) c.tierOrder.val + changed (word 87) c.noteMs + changed (word 89) c.soundMs + changed (byte 91) c.rebuildS +
    changed (byte 92) c.dutyPercent + changed (byte 93) c.holdPeriods + changed (byte 94) c.deferralLimit +
    changed (byte 95) c.segmentRetry + changed (byte 96) c.partRetry)

/-- R24: the headers a sending station writes: every field within the range that the validity test requires. -/
abbrev Header.Lawful (h : Header) : Prop :=
  countsLawful h.kind h.symbols h.segments = true ∧
    ((h.rx = Addr.broadcast) ↔ (h.kind = .sound ∨ h.kind = .note)) ∧
    (h.tag = 0#8 ∨ h.kind = .data) ∧ (h.floor = true → h.kind = .data ∧ h.tag ≠ 0#8)

/-- R31: the RESP bodies a responder composes. -/
abbrev RespBody.Lawful (r : RespBody) : Prop :=
  r.entries.length ≤ 8 ∧ (∀ b, r.bands = some b → b.length ≤ 8 ∧ ∀ x ∈ b, x.Lawful)

/-- R35, R140: the NOTE contents a station forms. -/
abbrev NotePayload.Lawful (p : NotePayload) : Prop :=
  p.bands.length ≤ 8 ∧ (∀ b ∈ p.bands, b.Lawful) ∧ p.items.length ≤ 23 ∧
    ∀ x ∈ p.items, x.addr ≠ Addr.broadcast ∧ x.rate ≤ Config.maxRate ∧ ∀ q, x.request = some q → q.slots ≠ 0#6

/-- R34: the parts an issuer forms. -/
abbrev GridPart.Lawful (p : GridPart) : Prop :=
  p.tag ≠ 0#8 ∧ 1 ≤ p.k ∧ p.k ≤ 4 ∧ p.index.val < p.k ∧ (∀ m : MainsSlot, (p.map[m]).val < p.k) ∧
    (∀ c : Fin 4, c.val < p.k → ∃ m : MainsSlot, p.map[m] = c) ∧ p.rate ≤ Config.maxRate ∧
    p.column.length = Config.carriers

end Sys2Proof.Machine
end

