-- ==== Sys2Proof/Certificates/Slice0/Obligations.lean ====
section
/-! DEFINITION. The statements about the model, in the order of the manual's chapters. A rule named in a docstring is one that the statement
formalises; a statement that rests on a choice of the model says so and names its log entry. -/

open Sys2Proof Sys2Proof.Machine

/-! ### The queue of commands and the passing of time -/

/-- A step runs the command at the front of the queue on the state with the queue's rest. -/
def Obligations.StepTakesFront : Prop :=
  ∀ (c : Instr) (rest : List Instr) (s : State), s.pending = c :: rest → step s = exec c { s with pending := rest }

/-- R1, R191, and the model's own choices (assumption log 2, 3): with no command waiting, a part held in reset stays as it is; with events
due at the present line time that it has not raised there yet, or a service of a request due however often, those are raised, in an order
that nothing fixes; and otherwise the line time advances by one, modulo 2^32. The queue of commands and the count of free values drawn are
the model's own (assumption log 37). What `fresh` holds: each event of the part's own timing whose instant is now (State.Due gives the
condition of each on the state, by its rule: R5, R8 to R10, R21, R36, R40, R42 to R44, R47, R48, R51, R52, R54, R69, R71, R72, R77, R79,
R92, R131, R134, R139, R156, R181, R187, R189, R206), unless it has been raised at this instant; and, with the response buffer empty, the
service of the request at the head of the list (R191). That SOUND_SLOT_ELIGIBLE is due only where the unit holds no candidate, and that the
sample of DRVHOT is a free value, are the model's choices (assumption logs 30 and 11). -/
def Obligations.IdleStepRaisesOrAdvances : Prop :=
  (∀ s : State, s.pending = [] →
    (s.held ≠ none → step s = .next s) ∧
    (s.held = none → s.fresh = [] → step s = .next { s with lineTime := s.lineTime + 1#32, raised := [] }) ∧
    (s.held = none → s.fresh ≠ [] →
      ∃ l : List Instr, l.Perm s.fresh ∧
        step s = .next { s with pending := l, raised := s.fresh ++ s.raised, draws := s.draws + s.fresh.length })) ∧
  (∀ (s : State) (c : Instr),
    c ∈ s.fresh ↔ (s.Due c ∧ c ∉ s.raised) ∨
      ∃ r rest, s.port.requests = r :: rest ∧ s.port.response = none ∧ c = r.body.service)

/-- R207: while a POWER or PIN reset holds the part, no event but another reset's begin or the reset's end changes anything. The rest is
the model's own choice, and no rule of the manual's: that the line time moves with the idle step alone, and no event from outside takes
time (assumption log 2, DESIGN CHOICE, for R1); that a field says which reset holds the part (log 35); and that no event but a reset's
begin or end (a RESTART reset ends a HOST_TX_DONE) moves the line time, the queue of commands (log 37) or that field. -/
def Obligations.HeldAndLiveEvents : Prop :=
  (∀ (c : Instr) (s : State), s.held ≠ none → c ≠ .powerReset → c ≠ .pinReset → (∀ b, c ≠ .resetEnd b) → exec c s = .next s) ∧
  (∀ (c : Instr) (s t : State), exec c s = .next t →
     c ≠ .powerReset → c ≠ .pinReset → (∀ b, c ≠ .resetEnd b) → (∀ b, c = .hostTxDone b → s.restartSent = false) →
     t.lineTime = s.lineTime ∧ t.pending = s.pending ∧ t.held = s.held)

/-! ### Invariants -/

/-- The reset state meets every invariant stated below. -/
def Obligations.ResetMeetsInvariants : Prop :=
  State.reset.Rested ∧ State.reset.mac.bounded = true ∧ State.reset.tracker.lawful = true ∧
    State.reset.thermal.lawful = true ∧ State.reset.AllowanceHeld ∧ State.reset.settings.Lawful ∧ State.reset.ListsBounded ∧
    PoolLawful State.reset.pool

/-- R188: after every step the transmitter toward the host is not idle while a frame that it may send is ready; a delivered frame waits
while a request is about to be served (the model's reading of R191, assumption log 17). And evalDue, the model's own flag that an evaluation
of R176 is due within the present command, is down (the model's choice, assumption log 22, 37): that half does not speak of the value of
the holds-candidate indicator. -/
def Obligations.StepKeepsRest : Prop :=
 ∀ s t : State, s.Rested → step s = .next t → t.Rested

/-- R37, R45: after every step the window stage lies in 0..5 and a held backoff counter is below the window of the stage. -/
def Obligations.StepKeepsBackoffBound : Prop :=
  ∀ s t : State, s.mac.bounded = true → step s = .next t → t.mac.bounded = true

/-- R2 to R10: after every step the tracker record is one that its state allows: H within 7,500..11,000 whenever one is held, and the last
crossing, its kind, the lock, miss and disturbed counts as LOCKED, HOLDOVER, FREE-RUN and SEEKING have them. -/
def Obligations.StepKeepsTracker : Prop :=
  ∀ s t : State, s.tracker.lawful = true → step s = .next t → t.tracker.lawful = true

/-- R54, R205: after every step each configuration value lies within its range, and the thermal guard is LIMITED exactly while its hold
count is not 0. R55: after every step the airtime of the frames that the station has started by contention in the present duty period does
not exceed the period's allowance while the guard is LIMITED. That the guard is COOL throughout LOADING, the other clause of AllowanceHeld,
is the model's choice and no rule of the manual's: R54 has DRVHOT sampled at each boundary, and the model takes no sample at one in LOADING
(DEDUCED, assumption log 13). -/
def Obligations.StepKeepsSettingsAndGuard : Prop :=
  (∀ s t : State, s.settings.Lawful → s.thermal.lawful = true → step s = .next t →
     t.settings.Lawful ∧ t.thermal.lawful = true) ∧
  (∀ s t : State, s.AllowanceHeld → step s = .next t → t.AllowanceHeld)

/-- R177, R190: after every step the control list holds at most 16 entries and the request list at most 4. R100, R103: after every step no
entry holds two slots of the pool in one role, and its RX-PENDING tag differs from its RX-CURRENT tag and its TX-ASSEMBLING tag from its
TX-ACTIVE tag. -/
def Obligations.StepKeepsLists : Prop :=
  (∀ s t : State, s.ListsBounded → step s = .next t → t.ListsBounded) ∧
  (∀ s t : State, PoolLawful s.pool → step s = .next t → PoolLawful t.pool)

/-! ### The mains tracker (chapter 1) -/

/-- R3: the half-cycle filter. The step is a quarter of the difference truncated toward zero, at least one when there is a difference, the
result is held within 7,500..11,000, and an interval that holds steady within that range is reached exactly. -/
def Obligations.HalfCycleFilter : Prop :=
  (∀ h i : Nat,
    let q : Int := ((i : Int) - h).tdiv 4
    let step : Int := if q = 0 then (if h < i then 1 else if i < h then -1 else 0) else q
    (filterH h i : Int) = if (h : Int) + step < 7500 then 7500 else if (h : Int) + step > 11000 then 11000 else h + step) ∧
  (∀ h i : Nat, 7500 ≤ i → i ≤ 11000 → ∃ n : Nat, ∀ m : Nat, n ≤ m → Nat.repeat (fun x => filterH x i) m h = i)

/-- R4: a ZC edge in SEEKING, case by case, with nothing else changed but at a lock gained in LISTENING. R53, R206: that lock enters
RUNNING; a station that is not IDLE goes on as it was, and an IDLE one begins a contention period at that instant (beginPeriod, case by case
in PeriodBegins, and what ends the command: settle, in PortTimers). -/
def Obligations.CrossingInSeeking : Prop :=
  ∀ s : State, s.Live → s.Rested → s.tracker.state = .seeking →
    let k := s.tracker
    let now := s.lineTime
    let answer := fun (r : Tracker) => Host.Outcome.next (φ := Fault) (ρ := Refusal) { s with tracker := r }
    let restart : Tracker := { k with lastCrossing := some now, lastKind := .real, lastEdge := some now, lockCount := 0 }
    (k.lastCrossing = none → exec .zcCrossing s = answer restart) ∧
    (∀ ref, k.lastCrossing = some ref →
      let i := ref.dist now
      (i < 7500 → exec .zcCrossing s = .next (bump .zcGlitches { s with tracker := { k with lastEdge := some now } })) ∧
      (11000 < i → exec .zcCrossing s = answer restart) ∧
      (7500 ≤ i → i ≤ 11000 → k.lockCount = 0 → exec .zcCrossing s = answer { restart with h := some i, lockCount := 1 }) ∧
      (∀ h, k.h = some h → 7500 ≤ i → i ≤ 11000 → 1 ≤ k.lockCount →
        (¬(i ≤ h + 400 ∧ h ≤ i + 400) → exec .zcCrossing s = answer { restart with h := some i, lockCount := 1 }) ∧
        (i ≤ h + 400 → h ≤ i + 400 → k.lockCount < 7 →
          exec .zcCrossing s = answer { restart with h := some (filterH h i), lockCount := k.lockCount + 1 }) ∧
        (i ≤ h + 400 → h ≤ i + 400 → k.lockCount = 7 →
          let locked : Tracker :=
            { state := .locked, h := some (filterH h i), lastCrossing := some now, lastKind := .real, lastEdge := some now,
              lockCount := 8, missCount := 0, disturbedCount := 0 }
          (s.startUp ≠ .listening → exec .zcCrossing s = answer locked) ∧
          (s.startUp = .listening →
            let entered := { s with tracker := locked, startUp := .running }
            (s.mac.state ≠ .idle → exec .zcCrossing s = .next entered) ∧
            (s.mac.state = .idle → exec .zcCrossing s = .next (settle s.txCharge (beginPeriod entered))) ∧
            ∃ t, exec .zcCrossing s = .next t ∧ t = entered.endedAs t))))

/-- R7, with R6's glitch: a ZC edge in LOCKED that agrees filters H and becomes the last crossing; an early one is a glitch and counts. The
state stays LOCKED, and nothing else changes. -/
def Obligations.CrossingInLocked : Prop :=
  ∀ (s : State) (c : LineTime) (h : Nat), s.Live → s.Rested → s.tracker.lawful = true → s.tracker.state = .locked →
    s.tracker.lastCrossing = some c → s.tracker.h = some h →
    let k := s.tracker
    let now := s.lineTime
    let d := (c.plus h).offset now
    (-400 ≤ d → d ≤ 400 →
      ∃ t, exec .zcCrossing s = .next t ∧
        t = { s with tracker :=
          { k with h := some (filterH h (c.dist now)), lastCrossing := some now, lastKind := .real, lastEdge := some now } } ∧
        t.tracker.state = .locked ∧ t.tracker.expected = some (now.plus (filterH h (c.dist now)))) ∧
    (d < -400 → exec .zcCrossing s = .next (bump .zcGlitches { s with tracker := { k with lastEdge := some now } }))

/-- R9 with R6's classes: a ZC edge in HOLDOVER: agreeing leads back to LOCKED, a glitch only counts, a disturbed one counts twice over and
the fourth starts SEEKING with the tracker-untrusted flag raised (R11). R9: in HOLDOVER, X + 400 with no agreeing crossing places the next
synthetic crossing and counts the miss, and the sixteenth miss enters FREE-RUN with the tracker-untrusted flag raised (R11). R53, R206: a
return to LOCKED in LISTENING enters RUNNING; a station that is not IDLE goes on as it was, and an IDLE one begins a contention period at
that instant (beginPeriod, case by case in PeriodBegins). -/
def Obligations.HoldoverEvents : Prop :=
  (∀ (s : State) (c : LineTime) (h : Nat), s.Live → s.Rested → s.tracker.lawful = true → s.tracker.state = .holdover →
     s.tracker.lastCrossing = some c → s.tracker.h = some h →
     let k := s.tracker
     let now := s.lineTime
     let d := (c.plus h).offset now
     let proper := ∃ e, k.lastEdge = some e ∧ 7500 ≤ e.dist now ∧ e.dist now ≤ 11000
     (-400 ≤ d → d ≤ 400 →
       let locked : Tracker :=
         { k with state := .locked, h := some (filterH h (c.dist now)), lastCrossing := some now, lastKind := .real,
                  lastEdge := some now, missCount := 0, disturbedCount := 0 }
       (s.startUp ≠ .listening → exec .zcCrossing s = .next { s with tracker := locked }) ∧
       (s.startUp = .listening →
         let entered := { s with tracker := locked, startUp := .running }
         (s.mac.state ≠ .idle → exec .zcCrossing s = .next entered) ∧
         (s.mac.state = .idle → exec .zcCrossing s = .next (settle s.txCharge (beginPeriod entered))) ∧
         ∃ t, exec .zcCrossing s = .next t ∧ t = entered.endedAs t)) ∧
     (d < -400 → ¬proper → exec .zcCrossing s = .next (bump .zcGlitches { s with tracker := { k with lastEdge := some now } })) ∧
     (d < -400 → proper → k.disturbedCount < 3 →
       exec .zcCrossing s = .next (bump .zcGlitches
         { s with tracker := { k with lastEdge := some now, disturbedCount := k.disturbedCount + 1 } })) ∧
     (d < -400 → proper → k.disturbedCount = 3 →
       exec .zcCrossing s = .next (bump .zcGlitches { s with
         tracker := { k with state := .seeking, lastCrossing := some now, lastKind := .real, lastEdge := some now,
                             lockCount := 0, missCount := 0, disturbedCount := 0 }
         attention := { s.attention with trackerUntrusted := true } }))) ∧
  (∀ (s : State) (c : LineTime) (h : Nat), s.Live → s.tracker.lawful = true → s.tracker.state = .holdover →
     s.tracker.lastCrossing = some c → s.tracker.h = some h → s.lineTime = (c.plus h).plus 400 →
     let placed : Tracker := { s.tracker with lastCrossing := some (c.plus h), lastKind := .synthetic }
     (s.tracker.missCount < 15 →
       exec .windowExpiry s = .next { s with tracker := { placed with missCount := s.tracker.missCount + 1 } }) ∧
     (s.tracker.missCount = 15 →
       exec .windowExpiry s = .next { s with
         tracker := { placed with state := .freeRun, missCount := 16 }
         attention := { s.attention with trackerUntrusted := true } }))

/-- R5: 11,001 µs after the reference in SEEKING the reference is dropped, the lock count goes to 0, H stays, the phase fraction is then
1023, and a crossing at that same instant has the same outcome whether it is taken before or after. -/
def Obligations.ReferenceDropped : Prop :=
  ∀ (s : State) (ref : LineTime), s.Live → s.Rested → s.tracker.state = .seeking → s.tracker.lastCrossing = some ref →
    ref.dist s.lineTime = 11001 →
    let t : State := { s with tracker := { s.tracker with lastCrossing := none, lockCount := 0 } }
    exec .referenceDrop s = .next t ∧ (∀ now, t.tracker.phase now = 1023) ∧ exec .zcCrossing t = exec .zcCrossing s ∧
      exec .zcCrossing t =
        .next { t with tracker := { t.tracker with
          lastCrossing := some s.lineTime, lastKind := .real, lastEdge := some s.lineTime } }

/-- R8: in LOCKED, X + 400 with no agreeing crossing places a synthetic crossing at X and enters HOLDOVER; a crossing at that same instant
taken first agrees and leaves the expiry nothing to do, and taken after is disturbed while H + 400 is in range. -/
def Obligations.ExpiryInLocked : Prop :=
  ∀ (s : State) (c : LineTime) (h : Nat), s.Live → s.Rested → s.tracker.lawful = true → s.tracker.state = .locked →
    s.tracker.lastCrossing = some c → s.tracker.h = some h → s.lineTime = (c.plus h).plus 400 →
    let t : State := { s with tracker := { s.tracker with
      state := .holdover, lastCrossing := some (c.plus h), lastKind := .synthetic, missCount := 1, disturbedCount := 0 } }
    exec .windowExpiry s = .next t ∧ t.tracker.expected = some ((c.plus h).plus h) ∧
    (∃ u, exec .zcCrossing s = .next u ∧ u.tracker.state = .locked ∧ u.tracker.lastCrossing = some s.lineTime ∧
      exec .windowExpiry u = .next u) ∧
    (s.tracker.lastEdge = some c → h ≤ 10600 →
      exec .zcCrossing t = .next (bump .zcGlitches { t with tracker := { t.tracker with
        lastEdge := some s.lineTime, disturbedCount := 1 } }))

/-- R10: in FREE-RUN a synthetic crossing is placed at each expected crossing, with the miss count at 16 and H unchanged; a ZC edge starts
SEEKING with itself as the reference, whichever of the two is taken first; and the tracker is not trusted. -/
def Obligations.FreeRunPlacesAndLeaves : Prop :=
  ∀ (s : State) (c : LineTime) (h : Nat), s.Live → s.Rested → s.tracker.lawful = true → s.tracker.state = .freeRun →
    s.tracker.lastCrossing = some c → s.tracker.h = some h →
    let sought : Tracker :=
      { s.tracker with state := .seeking, lastCrossing := some s.lineTime, lastKind := .real, lastEdge := some s.lineTime,
                       lockCount := 0, missCount := 0, disturbedCount := 0 }
    let placed : State := { s with tracker := { s.tracker with lastCrossing := some s.lineTime, lastKind := .synthetic } }
    s.trusted = false ∧ exec .zcCrossing s = .next { s with tracker := sought } ∧
    (s.lineTime = c.plus h →
      exec .freeRunSynthetic s = .next placed ∧ placed.tracker.missCount = 16 ∧
        exec .zcCrossing placed = .next { s with tracker := sought })

/-- R12, R13: with a last crossing and H held, the phase fraction is 0 at the crossing, never falls as the line time goes on, stands at 1023
from the expected crossing on, and the projection agrees with it for every instant before the expected crossing. With a last crossing and
any H, or 10,000 in its place while none is held, the phase fraction p µs after the crossing is trunc(p × 1024 / H), at most 1023, and the
projection is that of p mod H, past the expected crossing too; each slot is trunc(f × 6 / 1024) of its fraction. With no last crossing the
phase fraction is 1023 and the slot 5. -/
def Obligations.PhaseRunsFromCrossing : Prop :=
  (∀ (k : Tracker) (c : LineTime) (h : Nat), k.lawful = true → k.lastCrossing = some c → k.h = some h →
    k.phase c = 0 ∧
    (∀ m n : Nat, m ≤ n → n < 2 ^ 32 → k.phase (c.plus m) ≤ k.phase (c.plus n) ∧ k.phase (c.plus n) ≤ 1023) ∧
    (∀ n : Nat, h ≤ n → n < 2 ^ 32 → k.phase (c.plus n) = 1023 ∧ k.slot (c.plus n) = 5) ∧
    (∀ n : Nat, n < h → k.projectedPhase (c.plus n) = k.phase (c.plus n))) ∧
  (∀ (k : Tracker) (c : LineTime) (n : Nat), k.lastCrossing = some c → n < 2 ^ 32 →
    let h := k.h.getD 10000
    k.phase (c.plus n) = min 1023 (n * 1024 / h) ∧ (k.slot (c.plus n)).val = k.phase (c.plus n) * 6 / 1024 ∧
    (0 < h →
      k.projectedPhase (c.plus n) = n % h * 1024 / h ∧
      (k.projectedSlot (c.plus n)).val = k.projectedPhase (c.plus n) * 6 / 1024)) ∧
  (∀ (k : Tracker) (now : LineTime), k.lastCrossing = none → k.phase now = 1023 ∧ k.slot now = 5)

/-- R17: a slot-offset sample equal to the held offset ends a run; another one opens or continues its run, and the third consecutive sample
of one value becomes the held offset. -/
def Obligations.OffsetTakesThirdSample : Prop :=
  (∀ (o : SlotOffset) (k : MainsSlot), o.held = some k → (o.apply k).confirm = 0 ∧ (o.apply k).held = some k) ∧
  (∀ (o : SlotOffset) (k : MainsSlot), o.held ≠ some k →
    let n := if 1 ≤ o.confirm ∧ o.candidate = k then o.confirm + 1 else 1
    (n < 3 → o.apply k = { held := o.held, candidate := k, confirm := n }) ∧
    (3 ≤ n → (o.apply k).held = some k ∧ (o.apply k).confirm = 0)) ∧
  (∀ (o : SlotOffset) (k : MainsSlot), (((o.apply k).apply k).apply k).held = some k)

/-! ### The line interface (chapter 2) -/

/-- R14, R23, R38: a preamble detected while the line interface listens opens a reception with the receive stamp of that instant, and the
MAC leaves its gap or its period; while the station sends, receives already or is in LOADING nothing is detected. The state BACKOFF is that
of `FrameStartInBackoff`. That the candidate is cleared here is the model's reading of R37 (DEDUCED, assumption log 27). -/
def Obligations.FrameStartOpensReception : Prop :=
  ∀ (s : State) (p : Pair) (delay : Nat) (energies : List (List Nat)), s.Live →
    let r : Reception :=
      { frameStart := s.lineTime - BitVec.ofNat 32 delay, firstPair := p, stampPhase := s.phase, stampTrusted := s.trusted,
        header := .awaited, energies := energies, slots := [], columns := [] }
    let answer := fun (m : Mac) =>
      Host.Outcome.next (φ := Fault) (ρ := Refusal) { s with line := { s.line with reception := some r }, mac := m }
    (s.startUp ≠ .loading → s.line.sending = none → s.line.reception = none →
      (s.mac.state = .idle ∨ s.mac.state = .deferring →
        exec (.frameStart p ⟨delay, energies⟩) s = answer { s.mac with state := .receiving, gap := none }) ∧
      (s.mac.state = .signal → exec (.frameStart p ⟨delay, energies⟩) s = answer { s.mac with state := .receiving, candidate := none }) ∧
      (s.mac.state = .awaitingResponse ∨ s.mac.state = .responding → exec (.frameStart p ⟨delay, energies⟩) s = answer s.mac)) ∧
    (s.startUp = .loading ∨ s.line.sending ≠ none ∨ s.line.reception ≠ none → exec (.frameStart p ⟨delay, energies⟩) s = .next s)

/-- R45: a frame start in BACKOFF freezes the counter, counts the deferral, at the deferral limit raises the window stage and counts the
deferrals from 0 again, and releases the candidate; the frozen counter is used at the next entry to BACKOFF without a new draw. That the
candidate is cleared here is the model's reading of R37 (DEDUCED, assumption log 27). -/
def Obligations.FrameStartInBackoff : Prop :=
  (∀ (s : State) (p : Pair) (delay : Nat) (energies : List (List Nat)), s.Live → s.startUp ≠ .loading → s.line.sending = none → s.line.reception = none →
    s.mac.state = .backoff →
    let r : Reception :=
      { frameStart := s.lineTime - BitVec.ofNat 32 delay, firstPair := p, stampPhase := s.phase, stampTrusted := s.trusted,
        header := .awaited, energies := energies, slots := [], columns := [] }
    let opened : State := { s with line := { s.line with reception := some r } }
    (s.mac.deferral + 1 < s.settings.deferralLimit →
      exec (.frameStart p ⟨delay, energies⟩) s = .next (bump .deferrals { opened with mac :=
        { s.mac with state := .receiving, candidate := none, deferral := s.mac.deferral + 1 } })) ∧
    (s.settings.deferralLimit ≤ s.mac.deferral + 1 →
      exec (.frameStart p ⟨delay, energies⟩) s = .next (bump .stageRaises (bump .deferrals { opened with mac :=
        { s.mac with state := .receiving, candidate := none, stage := min 5 (s.mac.stage + 1), deferral := 0 } })))) ∧
  (∀ (s : State) (n : Nat), s.mac.backoff = some n → n ≠ 0 →
    enterBackoff s = { s with mac := { s.mac with state := .backoff, toneHeard := false } })

/-- R25: a header event at which no copy passes the header check fails the header, and one at which copies pass it but none passes the
validity test is malformed; each counts, and nothing else changes. R26: a used header of another house is foreign, and one of this house
that carries this station's address or the broadcast address as its transmitter is a clash; each counts and, with the header kept for the
frame end, nothing else changes. R23: the copies of a header stand in pair order, whatever the order in which they are given; the header
used is that of the first of them that passes both the header check and the validity test, and none where no copy does. -/
def Obligations.HeaderNotUsed : Prop :=
  (∀ (s : State) (r : Reception) (copies : List (Pair × Demodulated)), s.Live → s.Rested → s.line.reception = some r →
     r.header = .awaited → s.lineTime = r.frameStart.plus 192 →
     let failed : State := { s with line := { s.line with reception := some { r with header := .failed } } }
     ((∀ c ∈ r.headerCopies copies, headerCheck c.2 = false) → exec (.headerEvent copies) s = .next (bump .headerCheckFailures failed)) ∧
     ((∃ c ∈ r.headerCopies copies, headerCheck c.2 = true) → (∀ c ∈ r.headerCopies copies, headerCheck c.2 = true → readHeader c.1 c.2 = none) →
       exec (.headerEvent copies) s = .next (bump .malformedHeaders failed))) ∧
  (∀ copies : List (Pair × List Byte),
     let unread := fun (c : Pair × List Byte) => headerCheck c.2 = false ∨ readHeader c.1 c.2 = none
     ((∀ c ∈ copies, unread c) → usedHeader copies = none) ∧
     (∀ before c after h, copies = before ++ c :: after → (∀ d ∈ before, unread d) → headerCheck c.2 = true →
       readHeader c.1 c.2 = some h → usedHeader copies = some h)) ∧
  (∀ (r : Reception) (copies : List (Pair × Demodulated)),
     (r.headerCopies copies).Pairwise (fun c d => c.1 ≤ d.1) ∧
     ∀ c, c ∈ r.headerCopies copies ↔ ∃ x ∈ copies, c = (x.1, r.headerBytes x.1 x.2)) ∧
  (∀ (s : State) (r : Reception) (copies : List (Pair × Demodulated)) (h : Header), s.Live → s.Rested →
     s.line.reception = some r → r.header = .awaited → s.lineTime = r.frameStart.plus 192 → usedHeader (r.headerCopies copies) = some h →
     let used := fun (f : FilterCase) =>
       { s with line := { s.line with reception := some { r with header := .used h f .robust } } }
     (h.house ≠ s.settings.house → exec (.headerEvent copies) s = .next (bump .foreignFrames (used .foreign))) ∧
     (h.house = s.settings.house → (h.tx = s.settings.station ∨ h.tx = Addr.broadcast) →
       exec (.headerEvent copies) s = .next (bump .addressClashes (used .clash))))

/-- R26, R27, R51, R110, R127: a header of a HEARD or LINKED station: the entry is heard again; overheard that is all; a processed DATA
header is counted by its priority, opens the responder duty and has its grid tag resolved, a GRID header opens the duty, and a RESP opens
nothing. R16: a processed SOUND or NOTE gives a slot-offset sample where the header and the receive stamp are both trusted: a residual above
256 discards and counts it, and otherwise it is applied to the entry by R17. R127: a header of a REMOTE station, overheard or processed,
makes its entry HEARD, of a STALE one LINKED if it holds a TX-ACTIVE or RX-CURRENT grid and HEARD otherwise; a processed one then has the
effects above (a sample, the duty, the count, the resolution); everything else of the entry and of the others stays, direct rates and routes
apart, which are formed again. R110: the resolution of a tag: 0 is the robust map; a tag and pair equal to those of the entry's RX-CURRENT
grid, or else of its RX-PENDING grid, latch that slot and a copy of its grid; any other is unresolved, and so is every tag of a station
without an entry. -/
def Obligations.HeaderOfKnownStation : Prop :=
  (∀ (fr ft : Nat), fr < 1024 → ft < 1024 →
    let d := (fr + 1024 - ft) % 1024
    let j := (6 * d + 512) / 1024
    let residual := max (6 * d) (1024 * j) - min (6 * d) (1024 * j)
    (256 < residual → offsetSample fr ft = none) ∧ (residual ≤ 256 → offsetSample fr ft = some (Fin.ofNat 6 (j % 6)))) ∧
  (∀ (s : State) (h : Header),
    (s.findEntry h.tx = none → s.resolveTag h = .unresolved) ∧
    (∀ i, s.findEntry h.tx = some i →
      let named := fun (role : Role) (l : Latched) => s.roleSlot i role = some l.slot ∧
        (s.pool[l.slot]).map (·.grid) = some l.grid ∧ l.grid.tag = h.tag ∧ l.grid.pair = h.pair
      (h.tag = 0#8 → s.resolveTag h = .robust) ∧
      (h.tag ≠ 0#8 →
        (∀ l, named .rxCurrent l → s.resolveTag h = .latched l) ∧
        (∀ l, (∀ k, ¬named .rxCurrent k) → named .rxPending l → s.resolveTag h = .latched l) ∧
        ((∀ k, ¬named .rxCurrent k ∧ ¬named .rxPending k) → s.resolveTag h = .unresolved)))) ∧
  (∀ (s : State) (r : Reception) (copies : List (Pair × Demodulated)) (h : Header) (i : EntryIx) (e : Entry), s.Live → s.Rested →
    s.line.reception = some r → r.header = .awaited → s.lineTime = r.frameStart.plus 192 → usedHeader (r.headerCopies copies) = some h →
    h.house = s.settings.house → h.tx ≠ s.settings.station → h.tx ≠ Addr.broadcast →
    s.findEntry h.tx = some i → s.entry i = some e → (e.state = .remote ∨ e.state = .stale) →
    let header := HeaderState.used h (if h.Addressed s then .processed else .overheard)
      (if h.Addressed s ∧ h.kind = .data then s.resolveTag h else .robust)
    ∃ t e', exec (.headerEvent copies) s = .next t ∧ t.entry i = some e' ∧
      e' = { e with
        state := if e.state = .stale ∧ (s.roleSlot i .txActive ≠ none ∨ s.roleSlot i .rxCurrent ≠ none) then .linked else .heard,
        lastHeard := some s.lineTime, peerTrusted := h.trusted,
        lastNamed := if e.state = .remote then none else e.lastNamed,
        offset := if h.Addressed s then r.offsetAfter h e.offset else e.offset,
        txRate := e'.txRate, route := e'.route } ∧
      s.OthersKept t i ∧ s.Told t r h ∧
      t = { s with table := t.table, line := { s.line with reception := some { r with header := header } } }.endedAs t) ∧
  (∀ (s : State) (r : Reception) (copies : List (Pair × Demodulated)) (h : Header) (i : EntryIx) (e : Entry), s.Live → s.Rested →
    s.line.reception = some r → r.header = .awaited → s.lineTime = r.frameStart.plus 192 → usedHeader (r.headerCopies copies) = some h →
    h.house = s.settings.house → h.tx ≠ s.settings.station → h.tx ≠ Addr.broadcast →
    s.findEntry h.tx = some i → s.entry i = some e → (e.state = .heard ∨ e.state = .linked) →
    let heard : State :=
      { s with table := s.table.set i (some { e with lastHeard := some s.lineTime, peerTrusted := h.trusted }) }
    let used := fun (f : FilterCase) (x : Resolution) =>
      { heard with line := { s.line with reception := some { r with header := .used h f x } } }
    (h.rx ≠ s.settings.station → h.rx ≠ Addr.broadcast → exec (.headerEvent copies) s = .next (used .overheard .robust)) ∧
    (h.rx = s.settings.station → h.kind = .resp → exec (.headerEvent copies) s = .next (used .processed .robust)) ∧
    (h.rx = s.settings.station → h.kind = .data →
      exec (.headerEvent copies) s = .next (bump (.dataReceived h.priority) { used .processed (s.resolveTag h) with mac :=
        { s.mac with duty := some { transmitter := h.tx, pair := h.pair,
                                    frameEnd := r.frameStart.plus (192 + 32 * h.symbols), resp := none } } })) ∧
    (h.rx = s.settings.station → h.kind = .grid →
      exec (.headerEvent copies) s = .next { used .processed .robust with mac :=
        { s.mac with duty := some { transmitter := h.tx, pair := h.pair,
                                    frameEnd := r.frameStart.plus (192 + 32 * h.symbols), resp := none } } }) ∧
    (h.rx = Addr.broadcast → (h.kind = .sound ∨ h.kind = .note) →
      (r.stampTrusted = false ∨ h.trusted = false → exec (.headerEvent copies) s = .next (used .processed .robust)) ∧
      (r.stampTrusted = true → h.trusted = true →
        (offsetSample r.stampPhase h.phase.toNat = none →
          exec (.headerEvent copies) s = .next (bump .misalignedOffsets (used .processed .robust))) ∧
        (∀ k, offsetSample r.stampPhase h.phase.toNat = some k →
          let sampled := { e with lastHeard := some s.lineTime, peerTrusted := h.trusted, offset := e.offset.apply k }
          exec (.headerEvent copies) s = .next { used .processed .robust with table := s.table.set i (some sampled) }))))

/-- R127, R128: a valid header of this house from a station without an entry, overheard or processed, takes the lowest empty index as a
HEARD entry with its records begun afresh; the other entries stay, direct rates and routes apart, and the creation is counted once. R129:
with no index empty it takes the index of the STALE entry heard longest ago, or else of the REMOTE entry named longest ago, the lower index
on a tie, whose grids, map entries, control-list parts and in-flight record go with it (R132), and the replacement is counted; and with
neither, nothing is entered, the heard-not-entered counter goes up and the table-full flag is raised. R16, R27, R51: a processed header then
has its effects: a trusted SOUND or NOTE gives the new entry its first slot-offset sample (none where nothing is entered), a DATA or GRID
header opens the responder duty, and a DATA header is counted by its priority. R110: the tag of a DATA header of a new entry is unresolved,
unless it is 0 (for an index that no grid of the pool names), and of a station not entered it is unresolved. R122, R178: in a replacement
the other entries' part records and the control list are as the parts of the old entry leave them (State.leftBy), for every control list;
one of 16 gives its room to other entries' parts, as SentFrameEnds has that offering. -/
def Obligations.HeaderOfNewStation : Prop :=
  (∀ (s : State) (r : Reception) (copies : List (Pair × Demodulated)) (h : Header), s.Live → s.Rested →
    s.line.reception = some r → r.header = .awaited → s.lineTime = r.frameStart.plus 192 → usedHeader (r.headerCopies copies) = some h →
    h.house = s.settings.house → h.tx ≠ s.settings.station → h.tx ≠ Addr.broadcast →
    s.findEntry h.tx = none → s.emptyIndex = none →
    let data := h.Addressed s ∧ h.kind = .data
    let opened := fun (x : Resolution) =>
      let header := HeaderState.used h (if h.Addressed s then .processed else .overheard) x
      { s with line := { s.line with reception := some { r with header := header } } }
    let age := fun (x : Option LineTime) => (x.map fun a => a.dist s.lineTime).getD 0
    let oldest := fun (st : EntryState) (since : Entry → Option LineTime) (i : EntryIx) => ∃ e, s.entry i = some e ∧ e.state = st ∧
      ∀ (j : EntryIx) (x : Entry), s.entry j = some x → x.state = st →
        age (since x) ≤ age (since e) ∧ (j < i → age (since x) < age (since e))
    ((∀ (i : EntryIx) (e : Entry), s.entry i = some e → e.state = .heard ∨ e.state = .linked) →
      let full := bump .heardNotEntered { opened (if data then .unresolved else .robust) with
        attention := { s.attention with tableFull := true },
        mac := { s.mac with duty := s.dutyAfter r h } }
      exec (.headerEvent copies) s = .next (if data then bump (.dataReceived h.priority) full else full)) ∧
    (∀ (i : EntryIx) (old : Entry), s.entry i = some old →
      (oldest .stale Entry.lastHeard i ∨
        ((∀ (j : EntryIx) (x : Entry), s.entry j = some x → x.state ≠ .stale) ∧ oldest .remote Entry.lastNamed i)) →
      ∃ (t : State) (e : Entry), exec (.headerEvent copies) s = .next t ∧ t.entry i = some e ∧
        e = { Entry.fresh h.tx .heard (some s.lineTime) none h.trusted with
          offset := if h.Addressed s then r.offsetAfter h SlotOffset.fresh else SlotOffset.fresh, route := e.route, txRate := e.txRate } ∧
        (s.control.length < 16 → s.OthersKept t i) ∧ s.Told t r h ∧
        (let left := s.leftBy i
         left.OthersKept t i ∧ t.control = left.control) ∧
        (∀ j, j ≠ i → (t.entry j).map (·.addr) = (s.entry j).map (·.addr)) ∧
        (∀ k : SlotIx, t.pool[k] = (s.pool[k]).filter fun g => g.entry != i) ∧
        (∀ k : MapIx, t.addressMap[k] = (s.addressMap[k]).filter fun m => m.target != .station old.addr) ∧
        t.inFlight = s.inFlight.filter (fun x => x.entry != i) ∧
        (s.control.length < 16 → t.control = s.control.filter fun c => !c.partOf i) ∧
        t.count .replacements = satInc (s.count .replacements) ∧ t.count .entriesCreated = satInc (s.count .entriesCreated) ∧
        t.count .entriesRemoved = s.count .entriesRemoved ∧
        t = { opened (if data ∧ h.tag ≠ 0#8 then .unresolved else .robust) with
          table := t.table, pool := t.pool, addressMap := t.addressMap, inFlight := t.inFlight, control := t.control }.endedAs t)) ∧
  (∀ (s : State) (r : Reception) (copies : List (Pair × Demodulated)) (h : Header) (i : EntryIx), s.Live → s.Rested →
    s.line.reception = some r → r.header = .awaited → s.lineTime = r.frameStart.plus 192 → usedHeader (r.headerCopies copies) = some h →
    h.house = s.settings.house → h.tx ≠ s.settings.station → h.tx ≠ Addr.broadcast →
    s.findEntry h.tx = none → s.emptyIndex = some i →
    let opened := fun (x : Resolution) =>
      let header := HeaderState.used h (if h.Addressed s then .processed else .overheard) x
      { s with line := { s.line with reception := some { r with header := header } } }
    ∃ (t : State) (e : Entry) (x : Resolution), exec (.headerEvent copies) s = .next t ∧ t.entry i = some e ∧
      e = { Entry.fresh h.tx .heard (some s.lineTime) none h.trusted with
        offset := if h.Addressed s then r.offsetAfter h SlotOffset.fresh else SlotOffset.fresh, route := e.route, txRate := e.txRate } ∧
      e.route ≠ .noRoute ∧ s.OthersKept t i ∧ s.Told t r h ∧
      (∀ j, j ≠ i → (t.entry j).map (·.addr) = (s.entry j).map (·.addr)) ∧
      t.count .entriesCreated = satInc (s.count .entriesCreated) ∧
      (¬(h.Addressed s ∧ h.kind = .data) ∨ h.tag = 0#8 → x = .robust) ∧
      (h.Addressed s → h.kind = .data → h.tag ≠ 0#8 → (∀ (k : SlotIx) (g : HeldGrid), s.pool[k] = some g → g.entry ≠ i) →
        x = .unresolved) ∧
      t = { opened x with table := t.table }.endedAs t)

/-- R120: at each payload symbol start of a grid-loaded reception the column is taken that the latched grid's map names for the own slot,
unless the floor flag is set. The own slot is noted at the payload symbols of every kind of frame: R36 has it for a SOUND, and R120 uses it
for a grid-loaded DATA frame; for the other kinds it is the model's choice, which nothing reads (assumption log 32, DEDUCED). R72: at the
payload start of its own SOUND the station notes its own slot. -/
def Obligations.PayloadSymbolNotesSlot : Prop :=
  (∀ (s : State) (r : Reception) (h : Header) (f : FilterCase) (x : Resolution), s.Live → s.line.reception = some r →
    r.header = .used h f x → r.slots.length < h.payloadSymbols →
    s.lineTime = r.frameStart.plus (192 + 32 * r.slots.length) →
    let noted := fun (cols : List (Fin 4)) => Host.Outcome.next (φ := Fault) (ρ := Refusal)
      { s with line := { s.line with reception := some { r with slots := r.slots ++ [s.slot], columns := cols } } }
    (∀ l, x = .latched l → h.floor = false → exec .payloadSymbolStart s = noted (r.columns ++ [l.grid.map[s.slot]])) ∧
    (h.floor = true ∨ x = .robust ∨ x = .unresolved → exec .payloadSymbolStart s = noted r.columns)) ∧
  (∀ (s : State) (f : TxFrame), s.Live → s.line.sending = some f → f.header.kind = .sound →
    s.lineTime = f.start.plus 192 →
    exec .soundPayloadStart s = .next { s with estimator := { s.estimator with notedSlot := some s.slot } })

/-- R39: the step after a reception that this station does not process, with no response wait open: a failed header, a SOUND, a NOTE or
a foreign DATA or GRID leads to a quiet gap of 60 µs, an overheard or clashing DATA or GRID to a response gap of 120 µs, and a RESP,
overheard, foreign or clashing, to a contention period that begins at the frame end (R41), with nothing else of the part touched. -/
def Obligations.FrameEndOpensGap : Prop :=
  ∀ (s : State) (r : Reception) (payload : Demodulated) (readings : List (List Int)), s.Live → s.Rested →
    s.line.reception = some r → s.mac.state = .receiving →
    let gap := fun (g : Gap) => Host.Outcome.next (φ := Fault) (ρ := Refusal)
      { s with line := { s.line with reception := none }, mac := { s.mac with state := .deferring, gap := some g } }
    (r.header = .failed → exec (.frameEnd payload readings) s = gap (.quiet (s.lineTime.plus 60))) ∧
    (∀ h f x, r.header = .used h f x → f ≠ .processed → s.lineTime = r.frameStart.plus (192 + 32 * h.payloadSymbols) →
      (h.kind = .sound ∨ h.kind = .note → exec (.frameEnd payload readings) s = gap (.quiet (s.lineTime.plus 60))) ∧
      (h.kind = .data ∨ h.kind = .grid → f = .foreign →
        exec (.frameEnd payload readings) s = gap (.quiet (s.lineTime.plus 60))) ∧
      (h.kind = .data ∨ h.kind = .grid → f ≠ .foreign →
        exec (.frameEnd payload readings) s = gap (.response (s.lineTime.plus 120))) ∧
      (h.kind = .resp →
        let closed : State := { s with line := { s.line with reception := none } }
        ∃ t, exec (.frameEnd payload readings) s = .next t ∧ t = settle s.txCharge (beginPeriod closed) ∧
          t.mac.periodStart = s.lineTime ∧ t.mac.gap = none ∧ (t.mac.state = .idle ∨ t.mac.state = .signal) ∧ t = closed.endedAs t))

/-- R32, R34, R39, R111: the RESP composed at the end of a processed DATA or GRID frame that is not taken: NO-ROOM for a transmitter without
an entry, GRID-UNKNOWN with every entry bad and the counter up for an unresolved tag, and none, with a response gap, for a GRID payload that
fails its check or its validity test. R27, R32, R112, R159, R160: at the end of a DATA frame whose tag is resolved the segment engine takes
its segments, a latched grid still pending being promoted first, and the RESP is ACCEPTED with their verdicts. R159 to R163: those verdicts
are the floor step with the counter of its case, then the verdict on each segment in frame order, that on a damaged one bad and counted, and
then the entry of each in the error window by its CRC alone. R161: while the segment expected next is stored, it leaves the reorder list,
the sequence expected advances, and it is fed to reassembly, a frame so completed going to carriage inspection. R159: the floor step, case
by case. R160, R146: the verdict on an intact segment, case by case; one that is stored is delivered as far as the sequence goes. R163: a
verdict by CRC joins the error window of at most 64, and the eighth bad one in it empties it, is counted and gives the error trigger. R78,
R80, R83, R96: what a trigger does. For an entry not HEARD or LINKED it is counted as ignored, and that is all. Otherwise a trigger with the
error cause first raises the boost by 8, up to 32, and counts the raise (also one at 32, the model's choice: assumption log 39); the 18
cells are aged and counted (R63); and with the build record IDLE a build with that cause starts on the snapshot, the boost lowered by 2
first where the causes hold no error and the error window holds at most one bad segment; it is counted, and with a forcing cause counted as
forced. With a build running the cause joins the remembered trigger, which is counted. -/
def Obligations.FrameEndAnswersRefusal : Prop :=
  (∀ (s : State) (r : Reception) (h : Header) (x : Resolution) (d : ResponderDuty) (i : EntryIx) (payload : Demodulated)
    (readings : List (List Int)), s.Live → s.Rested → s.line.reception = some r → r.header = .used h .processed x →
    s.lineTime = r.frameStart.plus (192 + 32 * h.payloadSymbols) → s.mac.state = .receiving → s.mac.duty = some d →
    h.kind = .data → s.findEntry h.tx = some i → x ≠ .unresolved →
    let taken := takeData i h.floorSeq (walkSegments h.segments (r.payloadBytes payload))
      (promoteByData i x { s with line := { s.line with reception := none } })
    let answer : RespBody := { status := .accepted, entries := taken.1, bands := none }
    exec (.frameEnd payload readings) s = .next (settle s.txCharge { taken.2 with
      mac := { s.mac with state := .responding, gap := none, duty := some { d with resp := some answer } } })) ∧
  (∀ (r : RxState) (f : Seq),
    let restarted : RxState := { r with expected := some f, reorder := [], assembling := false, joined := none }
    (r.expected = none → r.floorStep f = (restarted, none)) ∧
    (∀ e, r.expected = some e →
      (f = e → r.floorStep f = (r, none)) ∧
      (1 ≤ (f - e).toNat → (f - e).toNat ≤ 2047 →
        r.floorStep f = ({ restarted with reorder := r.reorder.filter fun x => decide ((x.seq - f).toNat ≤ 63) }, some .floorSkips)) ∧
      (1 ≤ (e - f).toNat → (e - f).toNat ≤ 32 → r.floorStep f = (r, none)) ∧
      (33 ≤ (e - f).toNat → (e - f).toNat ≤ 2048 → r.floorStep f = (restarted, some .resyncs)))) ∧
  (∀ (s : State) (i : EntryIx) (e : Entry) (f : Seq) (segments : List RxSegment), s.entry i = some e →
    let written := { s with table := s.table.set i (some { e with rx := (e.rx.floorStep f).1 }) }
    let floored := match (e.rx.floorStep f).2 with
      | none => written
      | some k => bump k written
    let judged := judgeAll i segments (deliverAll i floored)
    takeData i f segments s = (judged.1, segments.foldl (fun t x => enterVerdict i x.good t) judged.2)) ∧
  (∀ (s : State) (i : EntryIx) (rest : List RxSegment),
    judgeAll i [] s = ([], s) ∧
    (∀ q,
      let later := judgeAll i rest (bump .damagedSegments s)
      judgeAll i (.damaged q :: rest) s = (false :: later.1, later.2) ∧ (RxSegment.damaged q).good = false) ∧
    (∀ q first last payload,
      let verdict := judgeIntact i q first last payload s
      let later := judgeAll i rest verdict.2
      judgeAll i (.intact q first last payload :: rest) s = (verdict.1 :: later.1, later.2) ∧
        (RxSegment.intact q first last payload).good = true)) ∧
  (∀ (s : State) (i : EntryIx) (e : Entry), s.entry i = some e →
    (e.rx.expected = none → deliverAll i s = s) ∧
    (∀ q, e.rx.expected = some q →
      ((∀ x ∈ e.rx.reorder, x.seq ≠ q) → deliverAll i s = s) ∧
      (∀ x, e.rx.reorder.find? (fun y => y.seq == q) = some x →
        let fed := { e.rx with expected := some (q + 1#12), reorder := e.rx.reorder.filter fun y => y.seq != q }.feed x
        let written := { s with table := s.table.set i (some { e with rx := fed.rx }) }
        let counted := match fed.count with
          | none => written
          | some k => bump k written
        deliverAll i s = deliverAll i (match fed.complete with
          | none => counted
          | some j => inspect j (bump .framesReassembled counted))))) ∧
  (∀ (s : State) (i : EntryIx) (e : Entry) (x q : Seq) (first last : Bool) (payload : List Byte),
    s.entry i = some e → e.rx.expected = some x →
    let verdict := judgeIntact i q first last payload s
    let kept := { e.rx with reorder := e.rx.reorder ++ [{ seq := q, first := first, last := last, payload := payload }] }
    let charge := (payload.length + 63) / 64 * 64
    (1 ≤ (x - q).toNat → (x - q).toNat ≤ 2047 → verdict = (true, bump .duplicates s)) ∧
    ((q - x).toNat ≤ 63 → (∃ y ∈ e.rx.reorder, y.seq = q) → verdict = (true, bump .duplicates s)) ∧
    ((q - x).toNat ≤ 63 → (∀ y ∈ e.rx.reorder, y.seq ≠ q) →
      (s.rxCharge + charge ≤ 16384 →
        verdict = (true, deliverAll i { s with table := s.table.set i (some { e with rx := kept }) })) ∧
      (16384 < s.rxCharge + charge → verdict = (false, bump .reserveFull s))) ∧
    (64 ≤ (q - x).toNat → (q - x).toNat ≤ 2048 → verdict = (false, bump .beyondWindow s))) ∧
  (∀ (s : State) (i : EntryIx) (e : Entry) (good : Bool), s.entry i = some e → e.rx.window.length ≤ 64 →
    let w := (if e.rx.window.length = 64 then e.rx.window.tail else e.rx.window) ++ [good]
    let entered := fun (v : List Bool) => { s with table := s.table.set i (some { e with rx := { e.rx with window := v } }) }
    (w.countP (! ·) < 8 → enterVerdict i good s = entered w) ∧
    (8 ≤ w.countP (! ·) → enterVerdict i good s = trigger i Causes.ofError (bump .errorTriggers (entered [])))) ∧
  (Causes.ofError = ⟨false, false, true, false, false, false⟩ ∧ ∀ (s : State) (i : EntryIx) (e : Entry) (c : Causes), s.entry i = some e →
    let present := e.state = .heard ∨ e.state = .linked
    let all := fun (_ : Pair) (_ : MainsSlot) => true
    let cells := e.snr.age s.lineTime all
    let raised := if c.error then min 32 (e.build.boost + 8) else e.build.boost
    let counted := bumpBy .cellsAged (e.snr.oldCount s.lineTime all) (if c.error then bump .boostRaises s else s)
    let written := fun (b : BuildRecord) => { counted with table := s.table.set i (some { e with snr := cells, build := b }) }
    (¬present → trigger i c s = bump .ignoredTriggers s) ∧
    (present → e.build.state = .idle →
      let boost := if c.error = false ∧ badCount e.rx.window ≤ 1 then raised - 2 else raised
      let started := bump .buildsStarted (written { e.build with
        state := .building s.lineTime c
          { cells := cells, margin := s.settings.margin, boost := boost, localBands := s.settings.bands, peerBands := e.peerBands,
            pairs := s.settings.pairs }
        boost := boost, retrySpent := c == ⟨false, false, false, false, false, true⟩ })
      trigger i c s = if c.error || c.unknownGrid || c.capConflict then bump .buildsForced started else started) ∧
    (∀ start d x, present → e.build.state = .building start d x →
      let remembered : Causes := match e.build.remembered with
        | none => c
        | some y => ⟨y.eligibility || c.eligibility, y.interval || c.interval, y.error || c.error, y.unknownGrid || c.unknownGrid,
            y.capConflict || c.capConflict, y.abandonment || c.abandonment⟩
      trigger i c s = bump .rememberedTriggers (written { e.build with boost := raised, remembered := some remembered }))) ∧
  (∀ (s : State) (r : Reception) (h : Header) (x : Resolution) (d : ResponderDuty) (payload : Demodulated)
    (readings : List (List Int)), s.Live → s.Rested → s.line.reception = some r → r.header = .used h .processed x →
    s.lineTime = r.frameStart.plus (192 + 32 * h.payloadSymbols) → s.mac.state = .receiving → s.mac.duty = some d →
    let answer := fun (b : RespBody) =>
      { s with line := { s.line with reception := none }
               mac := { s.mac with state := .responding, gap := none, duty := some { d with resp := some b } } }
    (h.kind = .data → s.findEntry h.tx = none →
      exec (.frameEnd payload readings) s =
        .next (answer { status := .noRoom, entries := List.replicate h.segments false, bands := none })) ∧
    (h.kind = .grid → s.findEntry h.tx = none →
      exec (.frameEnd payload readings) s = .next (answer { status := .noRoom, entries := [], bands := none })) ∧
    (h.kind = .data → s.findEntry h.tx ≠ none → x = .unresolved →
      exec (.frameEnd payload readings) s = .next (bump .gridUnknownSent
        (answer { status := .gridUnknown, entries := List.replicate h.segments false, bands := none }))) ∧
    (h.kind = .grid → s.findEntry h.tx ≠ none → readGridPart (r.payloadBytes payload) = none →
      exec (.frameEnd payload readings) s = .next (bump .badControlPayloads
        { s with line := { s.line with reception := none }
                 mac := { s.mac with state := .deferring, gap := some (.response (s.lineTime.plus 120)), duty := none } })))

/-- R33, R48, R49, R50: how the end of a reception resolves a response wait. The awaited RESP, whole and with its segment count, clears the
stage, the counter and the deferral count, and a contention period begins. Every other reception gives the no-response outcome, which raises
the stage and counts, and then takes its own next step (R39): a RESP that fails its check, has another entry count or lacks a band list is
counted as failed, one from another station as stray, and a period begins; a failed header leads to a quiet gap; a reception not addressed
to this station leads to its gap; and one that is has its payload handed on first. A RESP with no wait open is stray. R153 to R155: what an
entry of a response does to the unacked list: a good segment leaves it, and its host frame with the last one; a bad one is marked and takes
an attempt, and at the retry limit its host frame is dropped; and a segment that is not found is ignored and counted. Without a response
every segment still on the list is treated as bad. Either way the in-flight record is closed. R50, R107, R117, R153: the received response
closes the wait, clears the contention record, does to the receiver's entry what IssueTagsAndOutcomes says (receiverOutcome), and then
reaches the part in flight, or, for DATA, first the grid of the tag that was sent where the answer is GRID-UNKNOWN, and then the segments.
R49, R107, R154: the no-response outcome closes the wait, counts, adds to the receiver's streak (ResponseWaitRunsOut) and reaches the part
or the segments. -/
def Obligations.FrameEndResolvesWait : Prop :=
  (∀ (s : State) (r : Reception) (w : ResponseWait) (payload : Demodulated) (readings : List (List Int)), s.Live → s.Rested →
    s.line.reception = some r → s.mac.state = .awaitingResponse → s.mac.wait = some w →
    let closed : State := { s with line := { s.line with reception := none } }
    let touched := fun (t : State) =>
      { closed with table := t.table, pool := t.pool, control := t.control, inFlight := t.inFlight }.endedAs t
    let unanswered := fun (t : State) => t.mac.wait = none ∧ t.mac.stage = min 5 (s.mac.stage + 1) ∧ t.mac.backoff = none ∧
      t.mac.deferral = 0 ∧ t.count .noResponse = satInc (s.count .noResponse)
    (∀ (h : Header) (x : Resolution), r.header = .used h .processed x → h.kind = .resp → s.lineTime = r.frameStart.plus 256 →
      (∀ (b : RespBody) (n : Nat), h.tx = w.receiver → readResp (r.payloadBytes payload) = some (b, n) → n = w.segments →
        (b.status = .capConflict → b.bands ≠ none) →
        ∃ t, exec (.frameEnd payload readings) s = .next t ∧ t.mac.wait = none ∧ t.mac.stage = 0 ∧ t.mac.backoff = none ∧
          t.mac.deferral = 0 ∧ t.mac.periodStart = s.lineTime ∧ t.count .noResponse = s.count .noResponse ∧ t = touched t ∧
          t = settle s.txCharge (beginPeriod (receivedOutcome b closed))) ∧
      (h.tx = w.receiver →
        (readResp (r.payloadBytes payload) = none ∨ (∃ b n, readResp (r.payloadBytes payload) = some (b, n) ∧
          (n ≠ w.segments ∨ (b.status = .capConflict ∧ b.bands = none)))) →
        ∃ t, exec (.frameEnd payload readings) s = .next t ∧ unanswered t ∧ t.mac.periodStart = s.lineTime ∧
          t.count .failedResponses = satInc (s.count .failedResponses) ∧ t = touched t ∧
          t = settle s.txCharge (beginPeriod (noResponseOutcome (bump .failedResponses closed)))) ∧
      (h.tx ≠ w.receiver →
        ∃ t, exec (.frameEnd payload readings) s = .next t ∧ unanswered t ∧ t.mac.periodStart = s.lineTime ∧
          t.count .strayResponses = satInc (s.count .strayResponses) ∧ t = touched t ∧
          t = settle s.txCharge (beginPeriod (noResponseOutcome (bump .strayResponses closed))))) ∧
    (∀ (h : Header) (f : FilterCase) (x : Resolution), r.header = .used h f x → f ≠ .processed →
      s.lineTime = r.frameStart.plus (192 + 32 * h.payloadSymbols) →
      ∃ t, exec (.frameEnd payload readings) s = .next t ∧ unanswered t ∧ t = touched t ∧
        t = settle s.txCharge (nextStep h f (noResponseOutcome closed)) ∧
        (h.kind = .resp → t.mac.periodStart = s.lineTime) ∧
        (h.kind = .sound ∨ h.kind = .note ∨ ((h.kind = .data ∨ h.kind = .grid) ∧ f = .foreign) →
          t.mac.state = .deferring ∧ t.mac.gap = some (.quiet (s.lineTime.plus 60))) ∧
        (h.kind = .data ∨ h.kind = .grid → f ≠ .foreign →
          t.mac.state = .deferring ∧ t.mac.gap = some (.response (s.lineTime.plus 120)))) ∧
    (∀ (h : Header) (x : Resolution), r.header = .used h .processed x → h.kind ≠ .resp →
      s.lineTime = r.frameStart.plus (192 + 32 * h.payloadSymbols) →
      exec (.frameEnd payload readings) s = .next (settle s.txCharge
        (nextStep h .processed (noResponseOutcome (handOn r h x (r.payloadBytes payload) readings closed))))) ∧
    (r.header = .failed →
      ∃ t, exec (.frameEnd payload readings) s = .next t ∧ unanswered t ∧ t.mac.state = .deferring ∧
        t.mac.gap = some (.quiet (s.lineTime.plus 60)) ∧ t = touched t ∧
        (let u := noResponseOutcome closed
         t = settle s.txCharge
           { u with mac := { u.mac with state := .deferring, gap := some (.quiet (s.lineTime.plus 60)) } }))) ∧
  (∀ (s : State) (r : Reception) (h : Header) (x : Resolution) (payload : Demodulated) (readings : List (List Int)), s.Live →
    s.line.reception = some r → r.header = .used h .processed x → h.kind ≠ .resp →
    s.lineTime = r.frameStart.plus (192 + 32 * h.payloadSymbols) → s.mac.state ≠ .awaitingResponse →
    exec (.frameEnd payload readings) s = .next (settle s.txCharge (nextStep h .processed
      (handOn r h x (r.payloadBytes payload) readings { s with line := { s.line with reception := none } })))) ∧
  (∀ (h : Header) (f : FilterCase) (u : State),
    let quiet := { u with mac := { u.mac with state := .deferring, gap := some (.quiet (u.lineTime.plus 60)) } }
    let response := fun (d : Option ResponderDuty) =>
      { u with mac := { u.mac with state := .deferring, gap := some (.response (u.lineTime.plus 120)), duty := d } }
    (h.kind = .resp → nextStep h f u = beginPeriod u) ∧
    (h.kind = .sound ∨ h.kind = .note → nextStep h f u = quiet) ∧
    (h.kind = .data ∨ h.kind = .grid →
      (f = .foreign → nextStep h f u = quiet) ∧
      (f = .clash ∨ f = .overheard → nextStep h f u = response u.mac.duty) ∧
      (f = .processed →
        (∀ d b, u.mac.duty = some d → d.resp = some b →
          nextStep h f u = { u with mac := { u.mac with state := .responding, gap := none } }) ∧
        ((∀ d, u.mac.duty = some d → d.resp = none) → nextStep h f u = response none)))) ∧
  (∀ (s : State) (w : ResponseWait) (b : RespBody), s.mac.wait = some w →
    let closed := { s with mac := { s.mac with wait := none, stage := 0, backoff := none, deferral := 0 } }
    let told := receiverOutcome w b closed
    (w.kind = .grid → receivedOutcome b s = partAnswered w.control b.status told) ∧
    (w.kind = .data →
      (b.status ≠ .gridUnknown → receivedOutcome b s = segmentResponse b.entries told) ∧
      (b.status = .gridUnknown → receivedOutcome b s = segmentResponse b.entries (match s.inFlight with
        | some y => gridUnknownReceived y.entry y.tag told
        | none => told)))) ∧
  (∀ (s : State) (w : ResponseWait), s.mac.wait = some w →
    let closed := bump .noResponse
      { s with mac := { s.mac with wait := none, stage := min 5 (s.mac.stage + 1), backoff := none, deferral := 0 } }
    let silent := match s.findEntry w.receiver with
      | some i => noResponseSend i closed
      | none => closed
    (w.kind = .data → noResponseOutcome s = segmentNoResponse silent) ∧
    (w.kind = .grid → noResponseOutcome s = partNoResponse w.control silent)) ∧
  (∀ (s : State) (r : Reception) (h : Header) (x : Resolution) (payload : Demodulated) (readings : List (List Int)), s.Live → s.Rested →
    s.line.reception = some r → r.header = .used h .processed x → h.kind = .resp → s.lineTime = r.frameStart.plus 256 →
    s.mac.wait = none →
    ∃ t, exec (.frameEnd payload readings) s = .next t ∧ t.mac.periodStart = s.lineTime ∧ t.mac.stage = s.mac.stage ∧
      t.mac.backoff = s.mac.backoff ∧ t.count .strayResponses = satInc (s.count .strayResponses) ∧
      t = { s with line := { s.line with reception := none } }.endedAs t) ∧
  (∀ (s : State) (i : EntryIx) (e : Entry) (q : Seq) (x : UnackedSegment), s.entry i = some e →
    let left := fun (u : List UnackedSegment) (n : List NumberedFrame) (t : State) =>
      { s with table := s.table.set i (some { e with tx := { e.tx with unacked := u, numbered := n } }), evalDue := t.evalDue }
    let others := e.tx.unacked.filter fun y => y.seq != q
    ((∀ y ∈ e.tx.unacked, y.seq ≠ q) → ∀ good, applyEntry i q good s = bump .ignoredEntries s ∧ applyNoAnswer i q s = s) ∧
    (e.tx.unacked.find? (fun y => y.seq == q) = some x →
      ((∃ y ∈ others, y.frameId = x.frameId) → ∃ t, applyEntry i q true s = t ∧ t = left others e.tx.numbered t) ∧
      ((∀ y ∈ others, y.frameId ≠ x.frameId) → ∃ t, applyEntry i q true s = bump .framesDelivered t ∧
        t = left others (e.tx.numbered.filter fun y => y.frame.id != x.frameId) t) ∧
      (x.attempts + 1 < s.settings.segmentRetry → ∃ t, applyEntry i q false s = t ∧ applyNoAnswer i q s = t ∧
        t = left (e.tx.unacked.map fun y => if y.seq = q then { y with attempts := y.attempts + 1, marked := true } else y)
          e.tx.numbered t) ∧
      (s.settings.segmentRetry ≤ x.attempts + 1 → ∃ t, applyEntry i q false s = bump .retryDrops t ∧
        applyNoAnswer i q s = bump .retryDrops t ∧
        t = left (e.tx.unacked.filter fun y => y.frameId != x.frameId)
          (e.tx.numbered.filter fun y => y.frame.id != x.frameId) t))) ∧
  (∀ (s : State) (y : InFlight) (entries : List Bool), s.inFlight = some y →
    segmentResponse entries s =
      { (y.seqs.zip entries).foldl (fun t x => applyEntry y.entry x.1 x.2 t) s with inFlight := none } ∧
    segmentNoResponse s = { y.seqs.foldl (fun t x => applyNoAnswer y.entry x t) s with inFlight := none }) ∧
  (∀ (s : State) (entries : List Bool), s.inFlight = none →
    segmentResponse entries s = bumpBy .ignoredEntries entries.length s ∧ segmentNoResponse s = s)

/-- R60 to R62: a SOUND of a HEARD or LINKED station received while both ends of it are trusted updates, on its pair, exactly the cells of
the own slots noted in its symbols: the count rises by one, up to 255, the time of the last sample is now, and every average is its sample
in a cell that held none and moves toward it otherwise. R63: a cell so updated is aged first: a cell whose last sample lies more than
30,000,000 µs back loses its count and averages, is counted as aged, and so starts afresh with count 1 and the samples as its averages. It
counts one sampled SOUND and opens a quiet gap. R64, R79, R81: where the entry had no eligible pair after the aging and has one after the
updates, the eligibility trigger is given and counted, and at the trigger all 18 cells are aged and counted (R63): with the build record
IDLE a build with that cause starts on the cells so left, and with a build running the cause is remembered; otherwise nothing else of the
entry changes. R63: what aging a cell means, and how the counter of aged cells moves. R60: one received while the tracker was untrusted in
the receive stamp or is so at the frame end is discarded and counted as untrusted, with no cell changed; one of a STALE or REMOTE station,
or of a station without an entry (R27), is discarded without a count. -/
def Obligations.FrameEndSamplesSound : Prop :=
  (∀ (s : State) (r : Reception) (h : Header) (x : Resolution) (i : EntryIx) (e : Entry) (payload : Demodulated)
    (readings : List (List Int)), s.Live → s.Rested → s.line.reception = some r → r.header = .used h .processed x →
    h.kind = .sound → s.lineTime = r.frameStart.plus (192 + 32 * h.symbols) → s.mac.state = .receiving →
    s.findEntry h.tx = some i → s.entry i = some e → (e.state = .heard ∨ e.state = .linked) →
    r.stampTrusted = true → s.trusted = true →
    let eligibility : Causes := ⟨true, false, false, false, false, false⟩
    let noted := fun (p : Pair) (m : MainsSlot) => p == h.pair && !(groupOf r.slots readings m).isEmpty
    let aged := e.snr.age s.lineTime noted
    let every := fun (_ : Pair) (_ : MainsSlot) => true
    ∃ (t : State) (e' : Entry) (u : SnrSet), exec (.frameEnd payload readings) s = .next t ∧ t.entry i = some e' ∧
      let agedBy := fun (n : Nat) => (t.count .cellsAged).toNat = min (2 ^ 32 - 1) ((s.count .cellsAged).toNat + n)
      (∀ (p : Pair) (m : MainsSlot), p ≠ h.pair → u[p][m] = e.snr[p][m]) ∧
      (∀ m : MainsSlot,
        let g := groupOf r.slots readings m
        let c := e.snr[h.pair][m]
        (g = [] → u[h.pair][m] = c) ∧
        (g ≠ [] → c.count ≠ 0 → c.last.dist s.lineTime ≤ 30000000 → u[h.pair][m] =
          { count := min 255 (c.count + 1), last := s.lineTime, avgs := List.zipWith stepAverage c.avgs (groupSamples g) }) ∧
        (g ≠ [] → c.count = 0 ∨ 30000000 < c.last.dist s.lineTime → u[h.pair][m] =
          { count := 1, last := s.lineTime, avgs := groupSamples g })) ∧
      (hasEligible s.settings.pairs aged = true ∨ hasEligible s.settings.pairs u = false →
        e' = { e with snr := u } ∧ t.count .eligibilityTriggers = s.count .eligibilityTriggers ∧
        agedBy (e.snr.oldCount s.lineTime noted)) ∧
      (hasEligible s.settings.pairs aged = false → hasEligible s.settings.pairs u = true →
        t.count .eligibilityTriggers = satInc (s.count .eligibilityTriggers) ∧ e'.snr = u.age s.lineTime every ∧
        agedBy (e.snr.oldCount s.lineTime noted + u.oldCount s.lineTime every) ∧
        (e.build.state = .idle →
          let boost := if badCount e.rx.window ≤ 1 then e.build.boost - 2 else e.build.boost
          e' = { e with
            snr := e'.snr
            build := { e.build with
              state := .building s.lineTime eligibility
                { cells := e'.snr, margin := s.settings.margin, boost := boost, localBands := s.settings.bands,
                  peerBands := e.peerBands, pairs := s.settings.pairs }
              boost := boost, retrySpent := false } }) ∧
        (∀ start c y, e.build.state = .building start c y →
          e' = { e with
            snr := e'.snr
            build := { e.build with remembered := some (match e.build.remembered with
              | none => eligibility
              | some z => { z with eligibility := true }) } })) ∧
      (∀ j, j ≠ i → t.entry j = s.entry j) ∧ t.count .soundSampled = satInc (s.count .soundSampled) ∧
      t = { s with
        table := t.table, counters := t.counters, line := { s.line with reception := none }
        mac := { s.mac with state := .deferring, gap := some (.quiet (s.lineTime.plus 60)) } }) ∧
  (∀ (s : State) (r : Reception) (h : Header) (x : Resolution) (payload : Demodulated) (readings : List (List Int)), s.Live → s.Rested →
    s.line.reception = some r → r.header = .used h .processed x → h.kind = .sound →
    s.lineTime = r.frameStart.plus (192 + 32 * h.symbols) → s.mac.state = .receiving →
    let discarded := { s with
      line := { s.line with reception := none }
      mac := { s.mac with state := .deferring, gap := some (.quiet (s.lineTime.plus 60)) } }
    (∀ i e, s.findEntry h.tx = some i → s.entry i = some e →
      (e.state = .heard ∨ e.state = .linked → r.stampTrusted = false ∨ s.trusted = false →
        exec (.frameEnd payload readings) s = .next (bump .untrustedSound discarded)) ∧
      (e.state = .stale ∨ e.state = .remote → exec (.frameEnd payload readings) s = .next discarded)) ∧
    (s.findEntry h.tx = none → exec (.frameEnd payload readings) s = .next discarded)) ∧
  ∀ (x : SnrSet) (now : LineTime) (which : Pair → MainsSlot → Bool),
    let old := fun (c : Cell) => 1 ≤ c.count ∧ 30000000 < c.last.dist now
    (∀ (p : Pair) (m : MainsSlot), (which p m = true → old x[p][m] → (x.age now which)[p][m] = { count := 0, last := 0#32, avgs := [] }) ∧
      (which p m = false ∨ ¬ old x[p][m] → (x.age now which)[p][m] = x[p][m])) ∧
    x.oldCount now which =
      (((List.finRange 3).flatMap fun p => (List.finRange 6).map fun m => (p, m)).filter fun y =>
        which y.1 y.2 && decide (old x[y.1][y.2])).length

/-- R21, R47: the end of a frame sent by contention: after DATA or GRID the response wait is open, and after a NOTE, whose entry leaves the
control list with its placed mark, or a SOUND, whose entry leaves it too, the contention record is cleared and a quiet gap follows. R73: a
SOUND so ended lowers the want of its pair in the noted slot by one, down to 0, sets last sound to its frame start with the deadline a sound
interval after it, ends the placement, and, where the pair was chosen by rotation, moves the rotation to the pair after it. R178, R105: when
an entry leaves a list that held 16, room has appeared, here as wherever entries leave the list (leaveControl): the lowest unplaced part of
each issue that has one is offered, issue by issue in ascending entry index, and so on, in four rounds, an issue having at most four parts
(the reading of `continues`: assumption log 25). A part that the list takes joins its tail and is on the list; a refused one stays unplaced.
R177: a list of 16 refuses every offer, and a shorter one a second NOTE, a second SOUND or a second entry for one part; an entry that is
taken joins the tail. (evalDue is the model's own record of an evaluation due: assumption log 22.) -/
def Obligations.SentFrameEnds : Prop :=
  (∀ (s : State) (f : TxFrame), s.Live → s.Rested → s.line.sending = some f → s.lineTime = f.stop →
    let after := fun (left : State) => if s.control.length < 16 then left else offerAll left
    (f.header.kind = .data ∨ f.header.kind = .grid →
      exec .sentFrameEnd s = .next { s with
        line := { s.line with sending := none }
        mac := { s.mac with
          state := .awaitingResponse
          wait := some { kind := f.header.kind, receiver := f.header.rx, segments := f.header.segments,
                         frameEnd := s.lineTime, control := f.control } } }) ∧
    (f.header.kind = .note → .note ∈ s.control →
      exec .sentFrameEnd s = .next (settle s.txCharge (after { s with
        line := { s.line with sending := none }
        note := { s.note with placed := false }
        control := s.control.filter fun c => c != .note
        evalDue := true
        mac := { s.mac with state := .deferring, gap := some (.quiet (s.lineTime.plus 60)), stage := 0, backoff := none,
                            deferral := 0 } }))) ∧
    (∀ p, f.header.kind = .sound → f.header.pair = p → (∃ q, .sound q ∈ s.control) →
      let x := s.estimator
      exec .sentFrameEnd s = .next (settle s.txCharge (after { s with
        line := { s.line with sending := none }
        estimator := {
          wants := match x.notedSlot with
            | some m => x.wants.set p (x.wants[p].set m (x.wants[p][m] - 1))
            | none => x.wants
          lastSound := some f.start
          deadline := some (f.start.plus (s.settings.soundMs * 1000))
          placed := none
          rotation := if x.placed.map (·.byRotation) = some true then p + 1 else x.rotation
          notedSlot := none }
        control := s.control.filter fun c => !c.isSound
        evalDue := true
        mac := { s.mac with state := .deferring, gap := some (.quiet (s.lineTime.plus 60)), stage := 0, backoff := none,
                            deferral := 0 } })))) ∧
  (∀ (s : State) (gone : ControlEntry → Bool),
    let left := { s with control := s.control.filter (fun c => !gone c), evalDue := true }
    ((∀ c ∈ s.control, gone c = false) → leaveControl gone s = s) ∧
    ((∃ c ∈ s.control, gone c = true) → leaveControl gone s = if s.control.length < 16 then left else offerAll left)) ∧
  (∀ s : State,
    offerAll s = (List.range 4).foldl (fun t _ => (List.finRange 24).foldl (fun u i => offerLowest i u) t) s) ∧
  (∀ (s : State) (i : EntryIx),
    (s.entry i = none ∨ s.roleGrid i .rxPending = none → offerLowest i s = s) ∧
    (∀ e g, s.entry i = some e → s.roleGrid i .rxPending = some g →
      ((∀ p ∈ e.store.parts, p.place ≠ .unplaced) → offerLowest i s = s) ∧
      (∀ before p after, e.store.parts = before ++ p :: after → (∀ q ∈ before, q.place ≠ .unplaced) → p.place = .unplaced →
        let offered := ControlEntry.gridPart i g.tag p.index
        (s.control.length < 16 → offered ∉ s.control → offerLowest i s = { s with
          control := s.control ++ [offered], evalDue := true
          table := s.table.set i (some { e with store := { e.store with
            parts := e.store.parts.map fun q => if q.index = p.index then { q with place := .onList } else q } }) }) ∧
        (16 ≤ s.control.length ∨ offered ∈ s.control → offerLowest i s = s)))) ∧
  (∀ s : State,
    (s.controlTakes .note = true ↔ s.control.length < 16 ∧ .note ∉ s.control) ∧
    (∀ p, s.controlTakes (.sound p) = true ↔ s.control.length < 16 ∧ ∀ q, .sound q ∉ s.control) ∧
    (∀ i tag k, s.controlTakes (.gridPart i tag k) = true ↔ s.control.length < 16 ∧ .gridPart i tag k ∉ s.control) ∧
    (∀ x, placeControl x s = { s with control := s.control ++ [x], evalDue := true }))

/-- R51, R52: 60 µs after the frame it answers, the station's RESP is handed to the line interface on the soliciting frame's pair, a
reception still open is abandoned, the contention record stays, and the sending is counted. R81, R111: a body that says GRID-UNKNOWN gives
the unknown-grid trigger with it: for a HEARD or LINKED entry with its build record IDLE a forced build starts, with a build running the
cause is remembered, and for a STALE or REMOTE entry, or without an entry, the trigger is ignored and counted. The cells are taken as not
aged (R63). R41, R52: at the end of its own RESP the responder duty is cleared and a contention period begins at that instant; before
RUNNING the period asks for no candidate and the state becomes IDLE. That the candidate is cleared where the station goes IDLE is the
model's reading of R37 (DEDUCED, assumption log 27). -/
def Obligations.RespStartsAndEnds : Prop :=
  (∀ (s : State) (d : ResponderDuty) (b : RespBody), s.Live → s.Rested → s.mac.state = .responding → s.line.sending = none →
     s.mac.duty = some d → d.resp = some b → s.lineTime = d.frameEnd.plus 60 →
     let h : Header :=
       { kind := .resp, house := s.settings.house, tx := s.settings.station, rx := d.transmitter, pair := d.pair, priority := 0,
         trusted := s.trusted, floor := false, phase := BitVec.ofNat 10 s.phase, tag := 0#8, symbols := 0, segments := 0,
         floorSeq := 0#12 }
     let sent := bump .respSent { s with line :=
       { sending := some { header := h, payload := respBytes b, loading := .robust, start := s.lineTime,
                           stop := s.lineTime.plus 256, control := none }
         reception := none } }
     let unknownGrid : Causes := ⟨false, false, false, true, false, false⟩
     (b.status ≠ .gridUnknown → exec .respStart s = .next sent) ∧
     (b.status = .gridUnknown →
       (s.findEntry d.transmitter = none → exec .respStart s = .next (bump .ignoredTriggers sent)) ∧
       (∀ i e, s.findEntry d.transmitter = some i → s.entry i = some e →
         let answer := fun (r : BuildRecord) => { sent with table := s.table.set i (some { e with build := r }) }
         (e.state = .stale ∨ e.state = .remote → exec .respStart s = .next (bump .ignoredTriggers sent)) ∧
         (e.state = .heard ∨ e.state = .linked → (∀ (p : Pair) (m : MainsSlot), Cell.old s.lineTime e.snr[p][m] = false) →
           (e.build.state = .idle →
             let boost := if badCount e.rx.window ≤ 1 then e.build.boost - 2 else e.build.boost
             exec .respStart s = .next (bump .buildsForced (bump .buildsStarted (answer { e.build with
               state := .building s.lineTime unknownGrid
                 { cells := e.snr, margin := s.settings.margin, boost := boost, localBands := s.settings.bands,
                   peerBands := e.peerBands, pairs := s.settings.pairs }
               boost := boost, retrySpent := false })))) ∧
           (∀ start c x, e.build.state = .building start c x →
             exec .respStart s = .next (bump .rememberedTriggers (answer { e.build with
               remembered := some (match e.build.remembered with
                 | none => unknownGrid
                 | some y => { y with unknownGrid := true }) }))))))) ∧
  (∀ (s : State) (f : TxFrame), s.Live → s.Rested → s.line.sending = some f → f.header.kind = .resp → s.lineTime = f.stop →
     (s.startUp ≠ .running →
       exec .respFrameEnd s = .next { s with
         line := { s.line with sending := none }
         mac := { s.mac with state := .idle, duty := none, periodStart := s.lineTime, gap := none, candidate := none,
                             toneHeard := false } }) ∧
     (∃ t, exec .respFrameEnd s = .next t ∧ t.mac.duty = none ∧ t.mac.periodStart = s.lineTime ∧
       (t.mac.state = .idle ∨ t.mac.state = .signal) ∧ t = { s with line := { s.line with sending := none } }.endedAs t))

/-! ### Medium access (chapter 3) -/

/-- R42, R43, R44: the tone that a station in SIGNAL sends on its home pair, and the end of a priority signal slot. A station that heard a
tone in a slot where its candidate's priority sends none withdraws to a tone watch with its counter as it was; otherwise it goes on, and
after slot 2 enters BACKOFF with the counter it holds, or with the next drawn value modulo its window. R44, R46: with the counter at 0 it
transmits at once: a SOUND still on the control list while the guard is COOL is handed to the line interface, and when the candidate has
left the list a tone watch is entered with the counter at 0. The model's own part of these next states: `raised` is its record of the event
(assumption log 2); the candidate is cleared where the station no longer contends, at the withdrawal, the tone watch and the transmission,
as the model reads R37 (DEDUCED, assumption log 27: R42 and R43 do not say it); and a draw is a free number modulo the window, the count of
draws going up by one (assumption logs 8 and 37). -/
def Obligations.SignalSlotEnds : Prop :=
  ∀ (s : State) (c : Candidate), s.Live → s.Rested → s.mac.state = .signal → s.mac.candidate = some c →
    let answer := fun (m : Mac) =>
      { s with mac := m, raised := .signalSlotEnd :: s.raised }
    let watch : Mac :=
      { s.mac with state := .deferring, gap := some (.toneWatch (s.lineTime.plus 10320)), candidate := none }
    (∀ d, d < 80 → s.lineTime = s.mac.periodStart.plus d →
      s.toneOutput = if (d < 40 ∧ 2 ≤ c.priority.val) ∨ (40 ≤ d ∧ c.priority.val % 2 = 1) then some s.settings.homePair else none) ∧
    (s.lineTime = s.mac.periodStart.plus 40 →
      (s.mac.toneHeard = true → c.priority.val < 2 → exec .signalSlotEnd s = .next (bump .withdrawals (answer watch))) ∧
      (s.mac.toneHeard = false ∨ 2 ≤ c.priority.val →
        exec .signalSlotEnd s = .next (answer { s.mac with toneHeard := false }))) ∧
    (s.lineTime = s.mac.periodStart.plus 80 →
      (s.mac.toneHeard = true → c.priority.val % 2 = 0 → exec .signalSlotEnd s = .next (bump .withdrawals (answer watch))) ∧
      (s.mac.toneHeard = false ∨ c.priority.val % 2 = 1 →
        let drawn := Config.backoffDraw s.draws % windowOf s.mac.stage
        let entered := fun (n : Nat) => answer { s.mac with state := .backoff, toneHeard := false, backoff := some n }
        drawn < windowOf s.mac.stage ∧
        (∀ n, s.mac.backoff = some n → n ≠ 0 → exec .signalSlotEnd s = .next (entered n)) ∧
        (s.mac.backoff = none → drawn ≠ 0 → exec .signalSlotEnd s = .next { entered drawn with draws := s.draws + 1 }) ∧
        (∀ u : State, (s.mac.backoff = some 0 ∧ u = entered 0) ∨
            (s.mac.backoff = none ∧ drawn = 0 ∧ u = { entered 0 with draws := s.draws + 1 }) →
          exec .signalSlotEnd s = .next (settle s.txCharge (transmit u)) ∧
          (∀ p, c = { kind := .control (.sound p), priority := 3 } → .sound p ∈ s.control → s.thermal.limited = false →
            let h : Header :=
              { kind := .sound, house := s.settings.house, tx := s.settings.station, rx := Addr.broadcast, pair := p,
                priority := 3, trusted := s.trusted, floor := false, phase := BitVec.ofNat 10 s.phase, tag := 0#8,
                symbols := 24, segments := 0, floorSeq := 0#12 }
            let f : TxFrame :=
              { header := h, payload := [], loading := .sounding, start := s.lineTime, stop := s.lineTime.plus 960,
                control := some (.sound p) }
            exec .signalSlotEnd s = .next (bump (.framesSent .sound) { u with
              mac := { u.mac with state := .sending, candidate := none }
              line := { s.line with sending := some f }
              thermal := { s.thermal with used := s.thermal.used + 960 }
              estimator := { s.estimator with notedSlot := none } })) ∧
          (∀ x, c.kind = .control x → x ∉ s.control →
            exec .signalSlotEnd s = .next (bump .transmitAbandoned { u with mac :=
              { u.mac with state := .deferring, candidate := none, gap := some (.toneWatch (s.lineTime.plus 10320)) } })))))

/-- R42, R43, R44: a tone heard. IDLE and the two gaps give way to a tone watch of 10,320 µs; a watch already entered is not extended; in
SIGNAL and BACKOFF the tone is noted for the slot; and in the other states the record stays. That the candidate is cleared at a tone watch
is the model's reading of R37 (DEDUCED, assumption log 27). -/
def Obligations.ToneHeardByState : Prop :=
  ∀ s : State, s.Live → s.startUp ≠ .loading →
    let answer := fun (m : Mac) => Host.Outcome.next (φ := Fault) (ρ := Refusal) { s with mac := m }
    let watch : Mac :=
      { s.mac with state := .deferring, gap := some (.toneWatch (s.lineTime.plus 10320)), candidate := none }
    (s.mac.state = .idle → exec .toneHeard s = answer watch) ∧
    (∀ d, s.mac.state = .deferring → (s.mac.gap = some (.quiet d) ∨ s.mac.gap = some (.response d)) →
      exec .toneHeard s = answer watch) ∧
    (∀ d, s.mac.state = .deferring → s.mac.gap = some (.toneWatch d) → exec .toneHeard s = .next s) ∧
    (s.mac.state = .signal ∨ s.mac.state = .backoff → exec .toneHeard s = answer { s.mac with toneHeard := true }) ∧
    (s.mac.state = .receiving ∨ s.mac.state = .sending ∨ s.mac.state = .awaitingResponse ∨ s.mac.state = .responding →
      exec .toneHeard s = .next s)

/-- R44, R46: the end of a contention slot. A slot with a tone is not counted; an idle one decrements the counter; at 0 the station
transmits. With a frame start to be taken at that instant a counter of 1 stays (assumption log 12). R46, R55, R56: the transmit instant. A
candidate that has gone leads to a tone watch; while LIMITED a frame that does not fit the remaining allowance to one with the thermal wait
set; otherwise the frame is handed over with its airtime charged: a SOUND (R72), a GRID part formed from the pending grid and marked in
flight (R106), a NOTE of up to 23 HEARD or LINKED entries (R140), or a DATA frame (R56 gives its symbol limit). For a NOTE on the list the
cells of every entry are aged and counted (R63), and the entries past the 23rd counted, whether it fits or not (R140 with R46: DEDUCED,
assumption log 40). R150, R30: offered first are the marked segments, oldest first, taken whole while they fit and are fewer than 8; then,
for a queue head, the pieces of the frame at the head of its queue, with window room (R148). R149: a head of which a piece is taken is
numbered and leaves its queue; one of which none is taken stays as it was. R151: the taken segments are unmarked, and the in-flight record,
the header and the payload (R28, zero fill: R21) are theirs. R58, R123, R164: a segment with no attempt is counted as sent, another as
resent; a floor frame, a fallback to the robust map (R118, R121), and segments left out that 96 symbols would have carried (R56) are
counted, and nothing else. The model's own: `raised` (assumption log 2); the candidate cleared at the tone watch and the transmission, as it
reads R37 (DEDUCED, log 27); the zero fill before the code, in grid-loaded payloads too (log 38). -/
def Obligations.ContentionAndTransmission : Prop :=
  (∀ (s : State) (preamble : Bool), s.Live → s.Rested → s.mac.state = .backoff →
    (s.mac.periodStart.plus 80).dist s.lineTime ≠ 0 → (s.mac.periodStart.plus 80).dist s.lineTime % 40 = 0 →
    let answer := fun (m : Mac) => { s with mac := m, raised := .contentionSlotEnd false :: s.raised }
    (s.mac.toneHeard = true →
      exec (.contentionSlotEnd preamble) s = .next (answer { s.mac with toneHeard := false })) ∧
    (∀ n, s.mac.toneHeard = false → s.mac.backoff = some (n + 2) →
      exec (.contentionSlotEnd preamble) s = .next (answer { s.mac with backoff := some (n + 1) })) ∧
    (s.mac.toneHeard = false → s.mac.backoff = some 1 →
      exec (.contentionSlotEnd true) s = .next (answer s.mac) ∧
      exec (.contentionSlotEnd false) s = .next (settle s.txCharge (transmit (answer { s.mac with backoff := some 0 }))) ∧
      (∀ p, s.mac.candidate = some { kind := .control (.sound p), priority := 3 } → .sound p ∈ s.control →
        s.thermal.limited = false →
        let h : Header :=
          { kind := .sound, house := s.settings.house, tx := s.settings.station, rx := Addr.broadcast, pair := p,
            priority := 3, trusted := s.trusted, floor := false, phase := BitVec.ofNat 10 s.phase, tag := 0#8,
            symbols := 24, segments := 0, floorSeq := 0#12 }
        let f : TxFrame :=
          { header := h, payload := [], loading := .sounding, start := s.lineTime, stop := s.lineTime.plus 960,
            control := some (.sound p) }
        let sent : Mac := { s.mac with state := .sending, candidate := none, backoff := some 0 }
        exec (.contentionSlotEnd false) s = .next (bump (.framesSent .sound) { answer sent with
          line := { s.line with sending := some f }
          thermal := { s.thermal with used := s.thermal.used + 960 }
          estimator := { s.estimator with notedSlot := none } })) ∧
      (∀ x p, s.mac.candidate = some { kind := .control x, priority := p } → x ∉ s.control →
        let watch : Mac :=
          { s.mac with state := .deferring, candidate := none, backoff := some 0,
                       gap := some (.toneWatch (s.lineTime.plus 10320)) }
        exec (.contentionSlotEnd false) s = .next (bump .transmitAbandoned (answer watch))))) ∧
  (∀ (s : State) (prio : Fin 4),
    let allowance := s.settings.dutyPercent * 100 - s.thermal.used
    let watch : Mac := { s.mac with state := .deferring, candidate := none, gap := some (.toneWatch (s.lineTime.plus 10320)) }
    let gone := bump .transmitAbandoned { s with mac := watch }
    let waitsAt := fun (u : State) => bump .thermalDeferral { u with mac := { watch with thermalWait := true } }
    let waits := waitsAt s
    let sent := fun (k : SentKind) (f : TxFrame) (airtime : Nat) (t : State) => bump (.framesSent k) { t with
      mac := { t.mac with state := .sending, candidate := none }
      line := { t.line with sending := some f }
      thermal := { t.thermal with used := t.thermal.used + airtime } }
    let header := fun (k : FrameKind) (rx : Addr) (symbols : Nat) =>
      { kind := k, house := s.settings.house, tx := s.settings.station, rx := rx, pair := s.settings.homePair, priority := 3,
        trusted := s.trusted, floor := false, phase := BitVec.ofNat 10 s.phase, tag := 0#8, symbols := symbols, segments := 0,
        floorSeq := 0#12 : Header }
    let frame := fun (h : Header) (bytes : List Byte) (c : ControlEntry) =>
      { header := h, payload := bytes ++ List.replicate (24 * h.symbols - bytes.length) 0#8, loading := .robust,
        start := s.lineTime, stop := s.lineTime.plus (192 + 32 * h.symbols), control := some c : TxFrame }
    let heard := ((List.finRange 24).filterMap s.entry).filter fun e => e.state == .heard || e.state == .linked
    let bands := s.settings.bands
    let noteSymbols := (8 + 3 * bands.length + 11 * min 23 heard.length + 23) / 24
    let all := fun (_ : Pair) (_ : MainsSlot) => true
    let old := (List.finRange 24).map fun i => ((s.entry i).map fun e => e.snr.oldCount s.lineTime all).getD 0
    let gathered := bumpBy .reachOverflow (heard.length - 23) (bumpBy .cellsAged old.sum
      { s with table := s.table.map fun x => x.map fun e => { e with snr := e.snr.age s.lineTime all } })
    let candidate := fun (x : ControlEntry) => s.mac.candidate = some { kind := .control x, priority := prio } ∧ x ∈ s.control
    (∀ p, candidate (.sound p) → s.thermal.limited = true → allowance < 960 → transmit s = waits) ∧
    (∀ i tag k, candidate (.gridPart i tag k) → s.thermal.limited = true → allowance < 608 → transmit s = waits) ∧
    (candidate .note → s.thermal.limited = true → allowance < 192 + 32 * noteSymbols → transmit s = waitsAt gathered) ∧
    (∀ p, candidate (.sound p) → (s.thermal.limited = false ∨ 960 ≤ allowance) →
      let f : TxFrame :=
        { header := { header .sound Addr.broadcast 24 with pair := p }, payload := [], loading := .sounding, start := s.lineTime
          stop := s.lineTime.plus 960, control := some (.sound p) }
      transmit s = sent .sound f 960 { s with estimator := { s.estimator with notedSlot := none } }) ∧
    (∀ i tag k e g, candidate (.gridPart i tag k) → (s.thermal.limited = false ∨ 608 ≤ allowance) →
      s.entry i = some e → s.roleGrid i .rxPending = some g →
      let part : GridPart :=
        { tag := g.tag, k := g.columns.length, index := k, pair := g.pair, map := g.map, rate := g.rate,
          column := (g.columns.getD k.val none).getD [] }
      let parts := e.store.parts.map fun y => if y.index = k then { y with inFlight := true } else y
      transmit s = sent .grid (frame (header .grid e.addr 13) (gridPartBytes part) (.gridPart i tag k)) 608
        { s with table := s.table.set i (some { e with store := { e.store with parts := parts } }) }) ∧
    (candidate .note → (s.thermal.limited = false ∨ 192 + 32 * noteSymbols ≤ allowance) →
      let note : NotePayload :=
        { relay := s.settings.relay, bands := bands
          items := (heard.take 23).map fun e =>
            { addr := e.addr, rate := e.txRate, request := requestFor s.settings.pairs (e.snr.age s.lineTime all) } }
      transmit s = sent .note (frame (header .note Addr.broadcast noteSymbols) (noteBytes note) .note) (192 + 32 * noteSymbols)
        gathered) ∧
    (∀ (n : EntryIx) (source : Option QueueIx),
      ((s.mac.candidate = some { kind := .resends n, priority := prio } ∧ s.present n = true ∧ source = none) ∨
        (∃ q m f rest, s.mac.candidate = some { kind := .queueHead q m, priority := prio } ∧ s.queues[q] = f :: rest ∧
          s.nextHop f = some n ∧ source = some q)) →
      (s.firstOffered n source = none → transmit s = gone) ∧
      (∀ len, s.firstOffered n source = some len → s.thermal.limited = true → allowance < 224 → transmit s = waits) ∧
      (∀ len limit, s.firstOffered n source = some len →
        ((s.thermal.limited = false ∧ limit = 96) ∨
          (s.thermal.limited = true ∧ 224 ≤ allowance ∧ limit = min 96 ((allowance - 192) / 32))) →
        (composeData n source prio limit len s = none → transmit s = waits) ∧
        (∀ f t, composeData n source prio limit len s = some (f, t) →
          transmit s = sent .data f (192 + 32 * f.header.symbols) t))) ∧
    (∀ q m, s.mac.candidate = some { kind := .queueHead q m, priority := prio } → s.queues[q] = [] → transmit s = gone)) ∧
  (∀ (s : State) (n : EntryIx) (e : Entry), s.entry n = some e →
    let marked := e.tx.unacked.filter fun x => x.marked
    (∀ x rest source, marked = x :: rest → s.firstOffered n source = some x.len) ∧
    (marked = [] → s.firstOffered n none = none) ∧
    (∀ q, marked = [] → s.queues[q] = [] → s.firstOffered n (some q) = none) ∧
    (∀ q f rest, marked = [] → s.queues[q] = f :: rest →
      s.firstOffered n (some q) =
        if s.nextHop f = some n ∧ e.tx.windowRoom f.pieces = true then some (f.piece 0).length else none)) ∧
  (∀ (t : TxState) (q : Nat),
    (t.unacked = [] → t.windowRoom q = true) ∧
    (∀ x rest, t.unacked = x :: rest → (t.windowRoom q = true ↔ (t.next - x.seq).toNat + q ≤ 32))) ∧
  (∀ (l : Loading) (cap : Nat) (taken : Nat) (bits : Nat) (offered : List UnackedSegment), taken ≤ 8 → bits ≤ cap →
    let t := takeSegments l cap taken bits offered
    ∃ rest, offered = t.taken ++ rest ∧ t.stopped = rest.head? ∧ taken + t.taken.length ≤ 8 ∧
      t.bits = bits + (t.taken.map fun x => l.segmentBits x.len).sum ∧ t.bits ≤ cap ∧
      (∀ x, rest.head? = some x → taken + t.taken.length = 8 ∨ cap < t.bits + l.segmentBits x.len)) ∧
  (∀ (l : Loading) (cap : Nat) (q : QueueIx) (n : EntryIx) (t : Taking) (s : State) (e : Entry) (f : HostFrame)
    (rest : List HostFrame) (fuel : Nat), s.entry n = some e → s.queues[q] = f :: rest →
    let pieces := (List.range f.pieces).map fun i =>
      { seq := e.tx.next + BitVec.ofNat 12 i, frameId := f.id, piece := i, len := (f.piece i).length, attempts := 0,
        marked := true : UnackedSegment }
    let more := takeSegments l cap t.taken.length t.bits pieces
    let joined : Taking := { taken := t.taken ++ more.taken, bits := more.bits, stopped := more.stopped }
    let numbered : State := { s with
      queues := s.queues.set q rest
      table := s.table.set n (some { e with tx :=
        { next := e.tx.next + BitVec.ofNat 12 f.pieces, unacked := e.tx.unacked ++ pieces
          numbered := e.tx.numbered ++ [{ frame := f, first := e.tx.next }] } })
      evalDue := true }
    (s.nextHop f ≠ some n ∨ e.tx.windowRoom f.pieces = false → takeHeads l cap q n (fuel + 1) t s = (t, s)) ∧
    (s.nextHop f = some n → e.tx.windowRoom f.pieces = true →
      (more.taken = [] → takeHeads l cap q n (fuel + 1) t s = (joined, s)) ∧
      (more.taken ≠ [] → more.stopped ≠ none → takeHeads l cap q n (fuel + 1) t s = (joined, numbered)) ∧
      (more.taken ≠ [] → more.stopped = none →
        takeHeads l cap q n (fuel + 1) t s = takeHeads l cap q n fuel joined numbered))) ∧
  (∀ (s : State) (n : EntryIx) (source : Option QueueIx) (prio : Fin 4) (limit len : Nat) (e : Entry), s.entry n = some e →
    let l := (chooseLoading s n s.lineTime).fallback len
    let fromMarked := takeSegments l (l.capacity limit) 0 0 (e.tx.unacked.filter fun x => x.marked)
    let offered := match source with
      | some q => if fromMarked.stopped = none then takeHeads l (l.capacity limit) q n 9 fromMarked s else (fromMarked, s)
      | none => (fromMarked, s)
    let taken := offered.1.taken
    (taken = [] → composeData n source prio limit len s = none) ∧
    (∀ e', taken ≠ [] → offered.2.entry n = some e' →
      let seqs := taken.map fun x => x.seq
      let tx := { e'.tx with unacked := e'.tx.unacked.map fun x => if x.seq ∈ seqs then { x with marked := false } else x }
      let shortened := ∃ x, offered.1.stopped = some x ∧ taken.length < 8 ∧
        l.capacity limit < offered.1.bits + l.segmentBits x.len ∧ offered.1.bits + l.segmentBits x.len ≤ (l.symbolBits 96).sum
      ∃ f t, composeData n source prio limit len s = some (f, t) ∧
        t = { offered.2 with
          table := offered.2.table.set n (some { e' with tx := tx }), counters := t.counters, evalDue := t.evalDue
          inFlight := some { entry := n, seqs := seqs, tag := l.tag } } ∧
        f.start = s.lineTime ∧ f.stop = s.lineTime.plus (192 + 32 * f.header.symbols) ∧ f.control = none ∧
        f.header.symbols = leastSymbols offered.1.bits (l.symbolBits limit) ∧ f.loading = l.cut f.header.symbols ∧
        f.payload = l.fill f.header.symbols (taken.map tx.segmentWire).flatten ∧
        f.header =
          { kind := .data, house := s.settings.house, tx := s.settings.station, rx := e'.addr
            pair := l.pair s.settings.homePair, priority := prio, trusted := s.trusted, floor := l.isFloor
            phase := BitVec.ofNat 10 s.phase, tag := l.tag, symbols := f.header.symbols, segments := taken.length
            floorSeq := (e'.tx.unacked.head?.map fun x => x.seq).getD 0#12 } ∧
        (t.count .segmentsSent).toNat =
          min (2 ^ 32 - 1) ((s.count .segmentsSent).toNat + taken.countP fun x => x.attempts == 0) ∧
        (t.count .segmentsResent).toNat =
          min (2 ^ 32 - 1) ((s.count .segmentsResent).toNat + taken.countP fun x => x.attempts != 0) ∧
        t.count .floorFrames = (if l.isFloor = true then satInc (s.count .floorFrames) else s.count .floorFrames) ∧
        t.count .loadingFallbacks =
          (if l = .robust ∧ chooseLoading s n s.lineTime ≠ .robust then satInc (s.count .loadingFallbacks)
           else s.count .loadingFallbacks) ∧
        (shortened → t.count .thermalShortening = satInc (s.count .thermalShortening)) ∧
        (¬shortened → t.count .thermalShortening = s.count .thermalShortening) ∧
        ∀ k, k ∉ [Counter.segmentsSent, .segmentsResent, .floorFrames, .loadingFallbacks, .thermalShortening] →
          t.count k = s.count k)) ∧
  (∀ (l : Loading) (n : Nat), (l.isFloor = true ↔ ∃ g, l = .floor g) ∧ l.capacity n = (l.symbolBits n).sum)

/-- R40, R41, R43, R53: the deadline of a gap and the end of a tone watch begin a contention period; before RUNNING, or with the thermal
wait set, it asks for no candidate and the state becomes IDLE. R41, R56, R57: otherwise it asks for one: with none IDLE; with one that fits
SIGNAL; and with one that does not fit while LIMITED the candidate is released, the thermal wait set and counted, and the state IDLE. R56:
what fits at the period start: a control frame by its airtime, a DATA frame by its first segment under the loading for P + 80. R174, R179:
the candidate is the first eligible entry of the control list, in list order; else the head found by the search; else the resends of the
lowest HEARD or LINKED entry with a marked segment, at the priority of the queue that its oldest marked segment's frame names. R172, R173,
R174: the search takes the queues in the queue order, by tier order and leads; heads whose final station has no entry are dropped and
counted; an empty queue, and a head with no next hop or not sendable, is passed over. R176: an evaluation that finds a candidate where none
was held begins a period if the MAC is IDLE; for a placed SOUND entry that becomes eligible (R71) with its next state. A dropped head marks
evalDue, the model's own record of an evaluation due within the command (assumption log 22). That the candidate is cleared where the station
goes IDLE is the model's reading of R37 (DEDUCED, assumption log 27). -/
def Obligations.PeriodBegins : Prop :=
  (∀ (s : State) (c : Instr), s.Live → s.Rested → s.mac.state = .deferring →
     ((c = .gapDeadline ∧ (s.mac.gap = some (.quiet s.lineTime) ∨ s.mac.gap = some (.response s.lineTime))) ∨
       (c = .toneWatchEnd ∧ s.mac.gap = some (.toneWatch s.lineTime))) →
     let begun : Mac := { s.mac with periodStart := s.lineTime, gap := none, toneHeard := false }
     exec c s = .next (settle s.txCharge (beginPeriod s)) ∧
     (s.startUp ≠ .running ∨ s.mac.thermalWait = true →
       exec c s = .next { s with mac := { begun with state := .idle, candidate := none } }) ∧
     (∀ rest, s.startUp = .running → s.mac.thermalWait = false → s.thermal.limited = false → s.control = .note :: rest →
       exec c s = .next { s with
         mac := { begun with state := .signal, candidate := some { kind := .control .note, priority := 3 } }
         holdsCandidate := true })) ∧
  (∀ (s : State) (x : PlacedSound), s.Live → s.Rested → s.estimator.placed = some x → s.control = [.sound x.pair] →
     (s.estimator.wants[x.pair][s.slot] ≠ 0 ∨ ∀ m : MainsSlot, s.estimator.wants[x.pair][m] = 0) → s.holdsCandidate = false →
     s.startUp = .running → s.mac.state = .idle → s.mac.thermalWait = false → s.thermal.limited = false →
     exec .soundSlotEligible s = .next { s with
       holdsCandidate := true
       mac := { s.mac with state := .signal, periodStart := s.lineTime, gap := none, toneHeard := false,
                           candidate := some { kind := .control (.sound x.pair), priority := 3 } } }) ∧
  (∀ s : State,
     let begun : Mac := { s.mac with periodStart := s.lineTime, gap := none, candidate := none, toneHeard := false }
     (s.startUp ≠ .running ∨ s.mac.thermalWait = true → beginPeriod s = { s with mac := { begun with state := .idle } }) ∧
     (∀ found u, s.startUp = .running → s.mac.thermalWait = false → findCandidate { s with mac := begun } = (found, u) →
       let answer := fun (m : Mac) => { u with mac := m, holdsCandidate := found.isSome }
       (found = none → beginPeriod s = answer { begun with state := .idle }) ∧
       (∀ k, found = some k →
         ((answer begun).candidateFits k = true → beginPeriod s = answer { begun with state := .signal, candidate := some k }) ∧
         ((answer begun).candidateFits k = false →
           beginPeriod s = bump .thermalDeferral (answer { begun with state := .idle, thermalWait := true }))))) ∧
  (∀ (s : State) (k : Candidate),
     let allowance := s.settings.dutyPercent * 100 - s.thermal.used
     let heard := ((List.finRange 24).filterMap s.entry).filter fun e => e.state == .heard || e.state == .linked
     (s.thermal.limited = false → s.candidateFits k = true) ∧
     (s.thermal.limited = true →
       (∀ p, k.kind = .control (.sound p) → (s.candidateFits k = true ↔ 960 ≤ allowance)) ∧
       (∀ i tag part, k.kind = .control (.gridPart i tag part) → (s.candidateFits k = true ↔ 608 ≤ allowance)) ∧
       (k.kind = .control .note → (s.candidateFits k = true ↔
         192 + 32 * ((8 + 3 * s.settings.bands.length + 11 * min 23 heard.length + 23) / 24) ≤ allowance)) ∧
       (∀ n source len, ((k.kind = .resends n ∧ source = none) ∨ ∃ q, k.kind = .queueHead q n ∧ source = some q) →
         s.firstOffered n source = some len →
         let l := (chooseLoading s n (s.lineTime.plus 80)).fallback len
         (allowance < 224 → s.candidateFits k = false) ∧
         (224 ≤ allowance →
           (s.candidateFits k = true ↔ l.segmentBits len ≤ l.capacity (min 96 ((allowance - 192) / 32))))))) ∧
  (∀ s : State,
     s.controlEligible .note = true ∧
     (∀ p, s.controlEligible (.sound p) = true ↔ (s.estimator.wants[p][s.slot] ≠ 0 ∨ ∀ m : MainsSlot, s.estimator.wants[p][m] = 0)) ∧
     (∀ i e g k, s.entry i = some e → s.roleGrid i .rxPending = some g →
       (s.controlEligible (.gridPart i g.tag k) = true ↔
         (e.state = .heard ∨ e.state = .linked) ∧ ∀ y ∈ e.store.parts, y.index = k → y.inFlight = false)) ∧
     (∀ pre x post, s.control = pre ++ x :: post → (∀ y ∈ pre, s.controlEligible y = false) → s.controlEligible x = true →
       findCandidate s = (some { kind := .control x, priority := 3 }, s)) ∧
     ((∀ y ∈ s.control, s.controlEligible y = false) →
       (∀ k u, searchQueues s.settings.queueOrder s = (some k, u) → findCandidate s = (some k, u)) ∧
       (∀ u, searchQueues s.settings.queueOrder s = (none, u) → findCandidate s = (u.resendCandidate, u))) ∧
     s.settings.queueOrder.map (·.val) =
       (([[0, 1, 2], [0, 2, 1], [1, 0, 2], [1, 2, 0], [2, 0, 1], [2, 1, 0]] : List (List (Fin 3))).getD s.settings.tierOrder.val []).flatMap
         fun t => if s.settings.leads[t] = true then [2 * t.val + 1, 2 * t.val] else [2 * t.val, 2 * t.val + 1]) ∧
  (∀ (s : State) (q : QueueIx) (rest : List QueueIx) (gone kept : List HostFrame), s.queues[q] = gone ++ kept →
     (∀ f ∈ gone, s.findEntry f.final = none) → (∀ f, kept.head? = some f → s.findEntry f.final ≠ none) →
     let u := if gone = [] then s else bumpBy .unreachableDrops gone.length { s with queues := s.queues.set q kept, evalDue := true }
     searchQueues [] s = (none, s) ∧
     (kept = [] → searchQueues (q :: rest) s = searchQueues rest u) ∧
     (∀ f l, kept = f :: l →
       (s.nextHop f = none → searchQueues (q :: rest) s = searchQueues rest u) ∧
       (∀ n e, s.nextHop f = some n → s.entry n = some e →
         (e.tx.windowRoom f.pieces = true ∨ (∃ x ∈ e.tx.unacked, x.marked = true) →
           searchQueues (q :: rest) s = (some { kind := .queueHead q n, priority := s.settings.queues[q].priority }, u)) ∧
         (e.tx.windowRoom f.pieces = false → (∀ x ∈ e.tx.unacked, x.marked = false) →
           searchQueues (q :: rest) s = searchQueues rest u)))) ∧
  (∀ (s : State) (f : HostFrame),
     (s.findEntry f.final = none → s.nextHop f = none) ∧
     (∀ d e, s.findEntry f.final = some d → s.entry d = some e →
       (f.hop = 0 → (e.route = .direct → s.nextHop f = some d) ∧ (∀ i, e.route = .via i → s.nextHop f = some i) ∧
         (e.route = .noRoute → s.nextHop f = none)) ∧
       (f.hop ≠ 0 → (e.state = .heard ∨ e.state = .linked → s.nextHop f = some d) ∧
         (e.state = .stale ∨ e.state = .remote → s.nextHop f = none)))) ∧
  (∀ s : State,
     let resends := fun (i : EntryIx) (e : Entry) => s.entry i = some e ∧ (e.state = .heard ∨ e.state = .linked) ∧
       ∃ x ∈ e.tx.unacked, x.marked = true
     ((∀ i e, ¬resends i e) → s.resendCandidate = none) ∧
     (∀ i e x pre post y, resends i e → (∀ j z, j < i → ¬resends j z) → e.tx.unacked = pre ++ x :: post →
       (∀ z ∈ pre, z.marked = false) → x.marked = true → e.tx.numbered.find? (fun z => z.frame.id == x.frameId) = some y →
       s.resendCandidate = some { kind := .resends i, priority := s.settings.queues[y.frame.queue].priority })) ∧
  (∀ (s : State) found u, findCandidate s = (found, u) →
     let v := { u with holdsCandidate := found.isSome }
     (found = none ∨ s.holdsCandidate = true ∨ s.mac.state ≠ .idle ∨ s.startUp ≠ .running ∨ s.mac.thermalWait = true →
       evaluate s = v) ∧
     (found ≠ none → s.holdsCandidate = false → s.mac.state = .idle → s.startUp = .running → s.mac.thermalWait = false →
       evaluate s = beginPeriod v))

/-- R48, R49, R133: a response wait that runs out: the wait closes, the stage rises, the counter and the deferral count are cleared, the
no-response counter and the receiver's streak go up, a streak of 8 sets the direct hold for 10 s, and a contention period begins. R107,
R154: the outcome then reaches what was sent: the segments of the DATA frame in flight (segmentNoResponse, case by case in
FrameEndResolvesWait) or the GRID part in flight (partNoResponse, case by case in IssueTagsAndOutcomes). R133, R134, R138: a no-response
send adds one to the streak, up to 255, and from 8 on sets the hold; where none was held the hold is counted and the routes are formed
again. -/
def Obligations.ResponseWaitRunsOut : Prop :=
  (∀ (s : State) (w : ResponseWait), s.Live → s.Rested → s.mac.state = .awaitingResponse → s.mac.wait = some w →
    s.line.reception = none → s.lineTime = w.frameEnd.plus 120 →
    ∃ t, exec .responseDeadline s = .next t ∧ t.mac.wait = none ∧ t.mac.stage = min 5 (s.mac.stage + 1) ∧
      t.mac.backoff = none ∧ t.mac.deferral = 0 ∧ t.mac.periodStart = s.lineTime ∧
      t = settle s.txCharge (beginPeriod (noResponseOutcome s)) ∧
      t = { s with table := t.table, pool := t.pool, control := t.control, inFlight := t.inFlight }.endedAs t ∧
      t.count .noResponse = satInc (s.count .noResponse) ∧
      (∀ i e, s.findEntry w.receiver = some i → s.entry i = some e →
        (t.entry i).map (·.streak) = some (min 255 (e.streak + 1)) ∧
        (7 ≤ e.streak → (t.entry i).bind (·.hold) = some (s.lineTime.plus 10000000)))) ∧
  (∀ (s : State) (w : ResponseWait), s.mac.wait = some w →
    let closed := bump .noResponse
      { s with mac := { s.mac with wait := none, stage := min 5 (s.mac.stage + 1), backoff := none, deferral := 0 } }
    let silent := match s.findEntry w.receiver with
      | some i => noResponseSend i closed
      | none => closed
    (w.kind = .data → noResponseOutcome s = segmentNoResponse silent) ∧
    (w.kind = .grid → noResponseOutcome s = partNoResponse w.control silent)) ∧
  (∀ (s : State) (i : EntryIx) (e : Entry), s.entry i = some e →
    let streak := min 255 (e.streak + 1)
    let entered := fun (x : Entry) => { s with table := s.table.set i (some x) }
    let held := entered { e with streak := streak, hold := some (s.lineTime.plus 10000000) }
    (e.streak < 7 → noResponseSend i s = entered { e with streak := streak }) ∧
    (7 ≤ e.streak → noResponseSend i s = if e.hold = none then recompute (bump .directHolds held) else held))

/-- R54, R57: a duty-period boundary after LOADING: the used airtime and the thermal wait are cleared, the next boundary falls 10,000 µs on,
and the sample of DRVHOT and the guard state decide the change; a boundary that clears the thermal wait of an IDLE station does all of this,
and then begins a contention period at that instant (beginPeriod, case by case in PeriodBegins, and what ends the command: settle, in
PortTimers). In LOADING the guard stays as the reset left it, the boundary apart (the model's choice: assumption log 13). -/
def Obligations.DutyBoundaryTable : Prop :=
  ∀ (s : State), s.Live → s.Rested → s.lineTime = s.thermal.nextBoundary →
    let guard := fun (limited : Bool) (hold : Nat) =>
      { limited := limited, holdCount := hold, used := 0, nextBoundary := s.thermal.nextBoundary.plus 10000 : Thermal }
    let after := fun (g : Thermal) => { s with thermal := g, mac := { s.mac with thermalWait := false } }
    let table := fun (ending : State → State) =>
      (s.thermal.limited = false → exec (.dutyBoundary true) s = .next (ending (bump .thermalLimit
        { after (guard true s.settings.holdPeriods) with attention := { s.attention with thermalLimited := true } }))) ∧
      (s.thermal.limited = true → exec (.dutyBoundary true) s = .next (ending (after (guard true s.settings.holdPeriods)))) ∧
      (s.thermal.limited = true → 2 ≤ s.thermal.holdCount →
        exec (.dutyBoundary false) s = .next (ending (after (guard true (s.thermal.holdCount - 1))))) ∧
      (s.thermal.limited = true → s.thermal.holdCount = 1 →
        exec (.dutyBoundary false) s = .next (ending (after (guard false 0)))) ∧
      (s.thermal.limited = false → exec (.dutyBoundary false) s = .next (ending (after (guard false s.thermal.holdCount))))
    (s.startUp ≠ .loading → ¬(s.mac.thermalWait = true ∧ s.mac.state = .idle) → table fun u => u) ∧
    (s.startUp ≠ .loading → s.mac.thermalWait = true → s.mac.state = .idle → table fun u => settle s.txCharge (beginPeriod u)) ∧
    (∀ hot, s.startUp ≠ .loading → s.mac.thermalWait = true → s.mac.state = .idle →
      ∃ t, exec (.dutyBoundary hot) s = .next t ∧ t.mac.periodStart = s.lineTime ∧ t.thermal.used = 0 ∧
        (t.mac.state = .idle ∨ t.mac.state = .signal) ∧
        t = { s with thermal := t.thermal, attention := t.attention }.endedAs t) ∧
    (∀ hot, s.startUp = .loading →
      exec (.dutyBoundary hot) s =
        .next { s with thermal := { s.thermal with nextBoundary := s.thermal.nextBoundary.plus 10000 } })

/-! ### Sounding (chapter 4) -/

/-- R69, R70: a placement attempt, at the sound deadline and at the 20 ms point with wants remaining. The pair is the lowest-numbered one
with a want, or else the first enabled one counting upward from the rotation position, with 2 followed by 0. Taken, the entry joins the
control list and the deadline is cleared; refused, it is counted and the deadline is a sound interval on; with an entry placed it is passed
over. `raised` is the model's own record that the 20 ms point has been taken in this microsecond (assumption log 2). R67, R69, R71: a
received sound request raises the wants (case by case in NoteScheduleAndIntake) and is counted; a placed entry that becomes eligible by it
is told to the unit (evalDue, the model's own record of an evaluation due: assumption log 22); and with no entry placed, and last sound none
or at least 20,000 µs back, a placement is attempted at once, with the same two outcomes. -/
def Obligations.SoundPlacement : Prop :=
  (∀ (x : Estimator) (pairs : Vector Bool 3), (∃ p : Pair, pairs[p] = true) →
    let c := x.choosePair pairs
    (c.byRotation = false → (∃ m : MainsSlot, x.wants[c.pair][m] ≠ 0) ∧ ∀ p : Pair, p < c.pair → ∀ m : MainsSlot, x.wants[p][m] = 0) ∧
    (c.byRotation = true → pairs[c.pair] = true ∧ (∀ (p : Pair) (m : MainsSlot), x.wants[p][m] = 0) ∧
      ∃ k : Pair, c.pair = x.rotation + k ∧ ∀ j : Pair, j < k → pairs[x.rotation + j] = false)) ∧
  (∀ s : State, s.Live → s.Rested →
    let c := s.estimator.choosePair s.settings.pairs
    let placed := { s with
      control := s.control ++ [.sound c.pair], evalDue := true
      estimator := { s.estimator with placed := some c, deadline := none } }
    let refused := bump .placedSoundRefusal { s with
      estimator := { s.estimator with deadline := some (s.lineTime.plus (s.settings.soundMs * 1000)) } }
    let noSound := ∀ x ∈ s.control, x.isSound = false
    (s.estimator.deadline = some s.lineTime →
      (s.estimator.placed ≠ none →
        exec .soundDeadline s = .next { s with estimator := { s.estimator with deadline := none } }) ∧
      (s.estimator.placed = none → s.control.length < 16 → noSound →
        exec .soundDeadline s = .next (settle s.txCharge placed)) ∧
      (s.estimator.placed = none → 16 ≤ s.control.length → exec .soundDeadline s = .next refused)) ∧
    (∀ l, s.estimator.lastSound = some l → s.lineTime = l.plus 20000 → s.estimator.anyWant = true →
      (s.estimator.placed ≠ none → s.estimator.deadline ≠ some s.lineTime →
        exec .sound20msPoint s = .next { s with raised := .sound20msPoint :: s.raised }) ∧
      (s.estimator.placed = none → s.control.length < 16 → noSound →
        exec .sound20msPoint s = .next (settle s.txCharge { placed with raised := .sound20msPoint :: s.raised })) ∧
      (s.estimator.placed = none → 16 ≤ s.control.length →
        exec .sound20msPoint s = .next { refused with raised := .sound20msPoint :: s.raised }))) ∧
  (∀ s : State,
    let c := s.estimator.choosePair s.settings.pairs
    let rested := ∀ l, s.estimator.lastSound = some l → 20000 ≤ l.dist s.lineTime
    (s.estimator.placed ≠ none ∨ ¬rested → wantAttempt s = s) ∧
    (s.estimator.placed = none → rested →
      (s.control.length < 16 → (∀ x ∈ s.control, x.isSound = false) → wantAttempt s = { s with
        control := s.control ++ [.sound c.pair], evalDue := true
        estimator := { s.estimator with placed := some c, deadline := none } }) ∧
      (16 ≤ s.control.length → wantAttempt s = bump .placedSoundRefusal { s with
        estimator := { s.estimator with deadline := some (s.lineTime.plus (s.settings.soundMs * 1000)) } }))) ∧
  (∀ (s : State) (o : Option MainsSlot) (q : SoundRequest),
    let wants := raiseWants o q s.estimator.wants
    let raised := bump .soundRequests { s with estimator := { s.estimator with wants := wants } }
    let eligible := fun (w : Vector (Vector Nat 6) 3) => ∃ x, s.estimator.placed = some x ∧
      (w[x.pair][s.slot] ≠ 0 ∨ ∀ m : MainsSlot, w[x.pair][m] = 0)
    (eligible wants → ¬eligible s.estimator.wants → soundRequested o q s = wantAttempt { raised with evalDue := true }) ∧
    (¬eligible wants ∨ eligible s.estimator.wants → soundRequested o q s = wantAttempt raised))

/-- R62: a cell's average moves toward its sample by an eighth of the difference truncated toward zero, and by one where that is 0 and the
two differ; it never passes the sample, so that a steady sample is reached exactly. R61: the sample of a carrier is the sum of its clamped
readings over the symbols of a group, divided by their number and truncated toward zero, and lies within -32..223. -/
def Obligations.AverageMovesTowardSample : Prop :=
  (∀ a x : Int, a ≤ x → a ≤ stepAverage a x ∧ stepAverage a x ≤ x ∧ (a < x → a < stepAverage a x)) ∧
  (∀ a x : Int, x ≤ a → x ≤ stepAverage a x ∧ stepAverage a x ≤ a ∧ (x < a → stepAverage a x < a)) ∧
  (∀ a x : Int, 8 ≤ x - a → stepAverage a x = a + (x - a) / 8) ∧
  (∀ a x : Int, 8 ≤ a - x → stepAverage a x = a - (a - x) / 8) ∧
  (∀ a x : Int, 1 ≤ x - a → x - a < 8 → stepAverage a x = a + 1) ∧
  (∀ a x : Int, 1 ≤ a - x → a - x < 8 → stepAverage a x = a - 1) ∧
  (∀ a x : Int, ∃ n : Nat, Nat.repeat (fun y => stepAverage y x) n a = x) ∧
  (∀ symbols : List (List Int), (∀ r ∈ symbols, r.length = 768) →
    groupSamples symbols = (List.range 768).map fun k =>
      ((symbols.map fun (r : List Int) => max (-32) (min 223 (r.getD k 0))).sum).tdiv symbols.length) ∧
  (∀ (symbols : List (List Int)), symbols ≠ [] → ∀ v ∈ groupSamples symbols, -32 ≤ v ∧ v ≤ 223)

/-! ### Grid construction (chapter 5) and the grid store (chapter 6) -/

/-- R92 to R95: the completion of a build. No grid is counted; a grid within a sixteenth of its reference on the same pair and not forced is
held back; any other, and one without a reference, is issued as RX-PENDING in the lowest FREE slot with a tag of its own (R103, R104), or
dropped with the pool-exhausted flag when no slot is FREE. The reference is the RX-PENDING grid, or else the RX-CURRENT one; a pending grid
is freed first, with its parts and their control-list entries (R104), so its issue is never dropped. R105: the parts of the new issue join
the control list in index order while there is room (offerLowest, case by case in SentFrameEnds), and R178: on a list of 16 the parts of the
old issue give their room to those of other issues first (leaveControl there). In each case the last outcome is set, the rebuild deadline is armed and the record is
IDLE. R78, R92: then the remembered trigger is taken up: with the entry HEARD or LINKED a build starts at that instant with the remembered
causes (R83, R96; the cells are taken as not aged), and otherwise the trigger is dropped and counted as ignored. -/
def Obligations.BuildCompletes : Prop :=
  (∀ (s : State) (i : EntryIx) (e : Entry) (start : LineTime) (c : Causes) (x : Snapshot), s.Live → s.Rested →
    s.entry i = some e → e.build.state = .building start c x → s.lineTime = start.plus 1000 → e.build.remembered = none →
    let done := fun (last : LastOutcome) =>
      { e with build := { e.build with
          state := .idle, last := last, deadline := some (s.lineTime.plus (s.settings.rebuildS * 1000000)) } }
    (x.build = none →
      exec (.buildCompletion i) s = .next (bump .noGrid { s with table := s.table.set i (some (done .noGrid)) })) ∧
    (∀ b g, x.build = some b → s.reference i = some g → b.pair = g.pair →
      (max b.rate g.rate - min b.rate g.rate) * 16 < g.rate → c.forced = false →
      exec (.buildCompletion i) s = .next (bump .gridsHeldBack
        { s with table := s.table.set i (some (done (.heldBack b.pair b.columns.length b.rate))) })) ∧
    (∀ b k, x.build = some b → s.roleSlot i .rxPending = none → s.roleSlot i .rxCurrent = none → s.freeSlot = some k →
      ∃ t, exec (.buildCompletion i) s = .next t ∧
        t.pool = s.pool.set k (some { entry := i, role := .rxPending, grid :=
          { tag := e.store.nextTag, pair := b.pair, map := b.map, columns := b.columns.map some, rate := b.rate,
            issueTime := s.lineTime } }) ∧
        (t.entry i).map (·.build) = some (done (.issued b.pair b.columns.length b.rate)).build ∧
        (t.entry i).map (·.store.issue) = some .sending ∧
        t.count .gridsIssued = satInc (s.count .gridsIssued) ∧ (∀ j, j ≠ i → t.entry j = s.entry j) ∧
        t = { s with table := t.table, pool := t.pool, control := t.control }.endedAs t) ∧
    (∀ b, x.build = some b → s.roleSlot i .rxPending = none → s.roleSlot i .rxCurrent = none → s.freeSlot = none →
      exec (.buildCompletion i) s = .next (bump .droppedIssues (bump .gridsIssued { s with
        table := s.table.set i (some (done (.issued b.pair b.columns.length b.rate)))
        attention := { s.attention with poolExhausted := true } })))) ∧
  (∀ (s : State) (i : EntryIx) (e : Entry) (start : LineTime) (c : Causes) (x : Snapshot), s.Live → s.Rested →
    s.entry i = some e → e.build.state = .building start c x → s.lineTime = start.plus 1000 →
    (e.build.remembered ≠ none → ∀ (p : Pair) (m : MainsSlot), Cell.old s.lineTime e.snr[p][m] = false) →
    let present := e.state = .heard ∨ e.state = .linked
    let record := fun (last : LastOutcome) =>
      let done : BuildRecord :=
        { e.build with state := .idle, last := last, deadline := some (s.lineTime.plus (s.settings.rebuildS * 1000000)) }
      match e.build.remembered with
      | none => done
      | some r =>
        let boost := if r.error = false ∧ badCount e.rx.window ≤ 1 then e.build.boost - 2 else e.build.boost
        if present then
          { done with
            state := .building s.lineTime r
              { cells := e.snr, margin := s.settings.margin, boost := boost, localBands := s.settings.bands,
                peerBands := e.peerBands, pairs := s.settings.pairs }
            boost := boost, remembered := none, retrySpent := r == ⟨false, false, false, false, false, true⟩ }
        else { done with remembered := none }
    let counted := fun (u : State) => match e.build.remembered with
      | none => u
      | some r =>
        if present then
          if r.error || r.unknownGrid || r.capConflict then bump .buildsForced (bump .buildsStarted u) else bump .buildsStarted u
        else bump .ignoredTriggers u
    let written := fun (last : LastOutcome) =>
      { s with table := s.table.set i (some { e with build := record last }) }
    let differs := fun (b : BuiltGrid) (g : Grid) =>
      b.pair ≠ g.pair ∨ g.rate ≤ (max b.rate g.rate - min b.rate g.rate) * 16 ∨ c.error ∨ c.unknownGrid ∨ c.capConflict
    let freed := match s.roleSlot i .rxPending with
      | some y => s.pool.set y none
      | none => s.pool
    (x.build = none → exec (.buildCompletion i) s = .next (counted (bump .noGrid (written .noGrid)))) ∧
    (∀ b g, x.build = some b → s.reference i = some g → ¬differs b g →
      exec (.buildCompletion i) s =
        .next (counted (bump .gridsHeldBack (written (.heldBack b.pair b.columns.length b.rate))))) ∧
    (∀ b, x.build = some b → (∀ g, s.reference i = some g → differs b g) → (∀ j : SlotIx, freed[j] ≠ none) →
      exec (.buildCompletion i) s = .next (counted (bump .droppedIssues (bump .gridsIssued
        { written (.issued b.pair b.columns.length b.rate) with attention := { s.attention with poolExhausted := true } })))) ∧
    (∀ (b : BuiltGrid) (k : SlotIx), x.build = some b → (∀ g, s.reference i = some g → differs b g) →
      freed[k] = none → (∀ j : SlotIx, j < k → freed[j] ≠ none) →
      let tag := chooseTag e.store.nextTag
        (((s.roleGrid i .rxCurrent).map (·.tag)).toList ++ ((s.roleGrid i .rxPending).map (·.tag)).toList)
      ∃ t e', exec (.buildCompletion i) s = .next t ∧ t.entry i = some e' ∧
        e' = { e with
          build := record (.issued b.pair b.columns.length b.rate)
          store := { nextTag := tagAfter tag, issue := .sending, parts := e'.store.parts } } ∧
        t.pool = freed.set k (some { entry := i, role := .rxPending, grid :=
          { tag := tag, pair := b.pair, map := b.map, columns := b.columns.map some, rate := b.rate,
            issueTime := s.lineTime } }) ∧
        t.count .gridsIssued = satInc (s.count .gridsIssued) ∧
        t.count .buildsStarted = (counted s).count .buildsStarted ∧ t.count .buildsForced = (counted s).count .buildsForced ∧
        t.count .ignoredTriggers = (counted s).count .ignoredTriggers ∧
        (let cleared := match s.roleSlot i .rxPending with
           | some y => leaveControl (fun c => c.partOf i)
             { s with pool := s.pool.set y none, table := s.table.set i (some { e with store :=
               { e.store with issue := .noIssue, parts := [] } }) }
           | none => s
         let unplaced := (List.range b.columns.length).map fun n =>
           { index := Fin.ofNat 4 n, place := .unplaced, inFlight := false, attempts := 0 : PartRecord }
         let offered := (List.range 4).foldl (fun u _ => offerLowest i u) { cleared with
           pool := t.pool, table := cleared.table.set i (some { e' with store := { e'.store with parts := unplaced } }) }
         t.control = offered.control ∧ ∀ j, t.entry j = offered.entry j) ∧
        (PoolLawful s.pool → s.control.length ≤ 12 → b.columns.length ≤ 4 →
          (s.roleSlot i .rxPending = none → ∀ z ∈ s.control, z.partOf i = false) →
          t.control = s.control.filter (fun z => !z.partOf i) ++
            (List.range b.columns.length).map (fun n => .gridPart i tag (Fin.ofNat 4 n)) ∧
          e'.store.parts = (List.range b.columns.length).map (fun n =>
            { index := Fin.ofNat 4 n, place := .onList, inFlight := false, attempts := 0 }) ∧
          ∀ j, j ≠ i → t.entry j = s.entry j) ∧
        t = { s with table := t.table, pool := t.pool, control := t.control }.endedAs t))

/-- R78, R79, R83: the rebuild deadline. With the entry HEARD or LINKED and an RX-CURRENT grid, or neither grid but an eligible pair, the
interval trigger is given and the deadline becomes none: with the build record IDLE a build with the interval cause starts on a snapshot of
the cells, the margin, the boost and both band lists, and with a build running the cause joins the remembered trigger. R96: at that build
start the boost is lowered by 2, down to 0, while the error window holds at most one bad segment. With a grid otherwise the deadline is armed
again; and with neither grid nor an eligible pair it is cleared. The cells are taken as not aged (R63). -/
def Obligations.RebuildDeadlineTable : Prop :=
  ∀ (s : State) (i : EntryIx) (e : Entry), s.Live → s.Rested → s.entry i = some e → e.build.deadline = some s.lineTime →
    let answer := fun (b : BuildRecord) => { s with table := s.table.set i (some { e with build := b }) }
    let present := e.state = .heard ∨ e.state = .linked
    let interval : Causes := ⟨false, true, false, false, false, false⟩
    (present →
      (s.roleSlot i .rxCurrent ≠ none ∨ (s.roleSlot i .rxPending = none ∧ hasEligible s.settings.pairs e.snr = true)) →
      (∀ (p : Pair) (m : MainsSlot), Cell.old s.lineTime e.snr[p][m] = false) →
      (e.build.state = .idle →
        let boost := if badCount e.rx.window ≤ 1 then e.build.boost - 2 else e.build.boost
        exec (.rebuildDeadline i) s = .next (bump .buildsStarted (answer { e.build with
          state := .building s.lineTime interval
            { cells := e.snr, margin := s.settings.margin, boost := boost, localBands := s.settings.bands,
              peerBands := e.peerBands, pairs := s.settings.pairs }
          boost := boost, deadline := none, retrySpent := false }))) ∧
      (∀ start c x, e.build.state = .building start c x →
        let remembered : Causes := match e.build.remembered with
          | none => interval
          | some y => { y with interval := true }
        exec (.rebuildDeadline i) s = .next (bump .rememberedTriggers
          (answer { e.build with remembered := some remembered, deadline := none })))) ∧
    ((¬present ∨ s.roleSlot i .rxCurrent = none) → (s.roleSlot i .rxCurrent ≠ none ∨ s.roleSlot i .rxPending ≠ none) →
      exec (.rebuildDeadline i) s =
        .next (answer { e.build with deadline := some (s.lineTime.plus (s.settings.rebuildS * 1000000)) })) ∧
    ((¬present ∨ hasEligible s.settings.pairs e.snr = false) → s.roleSlot i .rxCurrent = none →
      s.roleSlot i .rxPending = none → exec (.rebuildDeadline i) s = .next (answer { e.build with deadline := none }))

/-- R64, R87: a build gives a grid exactly when an eligible pair has a total above 0, of the eligible pair of largest total, the lowest on a
tie. R85, R86: the level of a carrier in a slot's vector: the highest whose threshold the average less margin and boost reaches, at most the
lowest cap of the bands of either list that contain the carrier, rounded down to a level. R88, R89: the columns and the map are those of the
slots placed in order: in the passing column of least loss, the lowest on a tie, or else in a new column while there are fewer than four, or
else in the column of least loss of all; the column joined is lowered to the smaller level at each carrier and counts one slot more. R88 to
R91, R34: the grid a build forms has 1 to 4 columns of 768 levels, its map names only columns it has and names every one of them, and its
rate is the sum over the six slots at 125/32 and at most 180,000 kbit/s. R85, R86, R89, R113: no column of a built grid exceeds, on any
carrier, the cap that the local bands set there, so that the station that built it with its own bands never finds one of its columns in
conflict with them. R118: the loading of a DATA frame: the robust map without a TX-ACTIVE grid; its floor column while the own tracker is
untrusted, no offset is held or the peer reported itself untrusted; otherwise a column a symbol. R120: that of the slot projected for the
symbol's start, in the peer's numbering. R121: a loading that cannot carry the first segment in 96 symbols gives way to the robust map.
R119: the floor column is the lowest level of any column at each carrier. R110, R119, R120: a processed DATA frame is received with the
floor column of its latched grid in every symbol when its floor flag is set, and otherwise with the column taken for the symbol. R30: the
symbol bits of a loading, and the payload symbol count, the least whose capacity covers the bits. -/
def Obligations.GridsBuiltAndLoaded : Prop :=
  (∀ (x : Snapshot) (b : BuiltGrid),
     (∀ (p : Pair) (m : MainsSlot), 1 ≤ (x.cells[p][m]).count → (x.cells[p][m]).avgs.length = 768) →
     x.build = some b →
     (1 ≤ b.columns.length ∧ b.columns.length ≤ 4) ∧ (∀ c ∈ b.columns, c.length = 768) ∧
     (∀ m : MainsSlot, (b.map[m]).val < b.columns.length) ∧
     (∀ k : Fin 4, k.val < b.columns.length → ∃ m : MainsSlot, b.map[m] = k) ∧
     b.rate = (((List.finRange 6).map fun m => columnSum (b.columns.getD (b.map[m]).val [])).sum) * 125 / 32 ∧
     b.rate ≤ 180000) ∧
  (∀ (x : Snapshot) (b : BuiltGrid), x.build = some b → ∀ c ∈ b.columns, exceedsCaps x.localBands c = false) ∧
  (∀ x : Snapshot,
     let eligible := fun (p : Pair) => x.pairs[p] = true ∧ ∀ m : MainsSlot, 3 ≤ (x.cells[p][m]).count
     let total := fun (p : Pair) => ((x.vectors p).map fun v => (v.map Level.bits).sum).sum
     (∀ (p : Pair) (m : MainsSlot) (k : Nat) (a : Int), k < 768 → (x.cells[p][m]).avgs[k]? = some a →
       let e := a - (x.margin : Int) - (x.boost : Int)
       let top := if e < 16 then 0 else if e < 28 then 1 else if e < 44 then 2 else if e < 56 then 3 else if e < 80 then 4
         else if e < 104 then 6 else if e < 128 then 8 else 10
       let bands := (x.localBands ++ x.peerBands.getD []).filter fun b => decide (b.first ≤ k ∧ k < b.first + b.width)
       let raw : Nat := (bands.map (·.cap)).foldl min 10
       let cap := if raw = 5 then 4 else if raw = 7 then 6 else if raw = 9 then 8 else raw
       ∃ (v : Column) (l : Level), (x.vectors p)[m.val]? = some v ∧ v[k]? = some l ∧ l.bits = min top cap) ∧
     ((∀ p, eligible p → total p = 0) → x.build = none) ∧
     (∀ p, eligible p → 0 < total p → (∀ q, eligible q → total q < total p ∨ (total q = total p ∧ p ≤ q)) →
       ∃ b, x.build = some b ∧ b.pair = p ∧ b.columns = (mergeSlots (x.vectors p)).columns.map (·.levels) ∧
         ∀ m : MainsSlot, (mergeSlots (x.vectors p)).map[m.val]? = some (b.map[m]).val)) ∧
  (mergeSlots [] = { columns := [], map := [] } ∧
     ∀ (vs : List Column) (v : Column), mergeSlots (vs ++ [v]) = (mergeSlots vs).place v) ∧
  (∀ (g : MergeState) (v : Column),
     let lower := fun (c : MergeColumn) => List.zipWith (fun a b => if a.bits ≤ b.bits then a else b) c.levels v
     let loss := fun (c : MergeColumn) =>
       (columnSum c.levels - columnSum (lower c)) * c.slots + (columnSum v - columnSum (lower c))
     let passes := fun (c : MergeColumn) => loss c * 32 ≤ columnSum v * (c.slots + 1)
     let least := fun (ok : MergeColumn → Prop) (i : Nat) (c : MergeColumn) => g.columns[i]? = some c ∧ ok c ∧
       ∀ j d, g.columns[j]? = some d → ok d → loss c < loss d ∨ (loss c = loss d ∧ i ≤ j)
     let joined := fun (i : Nat) (c : MergeColumn) =>
       { columns := g.columns.set i { levels := lower c, slots := c.slots + 1 }, map := g.map ++ [i] : MergeState }
     (∀ i c, least passes i c → g.place v = joined i c) ∧
     ((∀ c ∈ g.columns, ¬passes c) →
       (g.columns.length < 4 →
         g.place v = { columns := g.columns ++ [{ levels := v, slots := 1 }], map := g.map ++ [g.columns.length] }) ∧
       (∀ i c, 4 ≤ g.columns.length → least (fun _ => True) i c → g.place v = joined i c))) ∧
  (∀ (s : State) (n : EntryIx) (e : Entry) (start : LineTime), s.entry n = some e →
     (s.roleGrid n .txActive = none → chooseLoading s n start = .robust) ∧
     (∀ g, s.roleGrid n .txActive = some g →
       (s.trusted = false ∨ e.offset.held = none ∨ e.peerTrusted = false → chooseLoading s n start = .floor g) ∧
       (∀ o, s.trusted = true → e.offset.held = some o → e.peerTrusted = true →
         ∃ columns, chooseLoading s n start = .perSlot g columns ∧ columns.length = 96 ∧
           ∀ (i : Nat) (r : MainsSlot), i < 96 →
             r.val = ((s.tracker.projectedSlot (start.plus (192 + 32 * i))).val + 6 - o.val) % 6 →
             columns[i]? = some g.map[r]))) ∧
  (∀ (l : Loading) (len : Nat),
     ((l.symbolBits 96).sum < l.segmentBits len → l.fallback len = .robust) ∧
     (l.segmentBits len ≤ (l.symbolBits 96).sum → l.fallback len = l)) ∧
  (∀ (g : Grid), g.columns ≠ [] → (∀ x ∈ g.columns, ∃ c : Column, x = some c ∧ c.length = 768) →
     ∀ k, k < 768 → ∃ v, g.floorColumn[k]? = some v ∧ (∃ x : Column, some x ∈ g.columns ∧ x[k]? = some v) ∧
       ∀ x : Column, some x ∈ g.columns → ∀ w, x[k]? = some w → v.val ≤ w.val) ∧
  (∀ (r : Reception) (h : Header) (l : Latched) (i : Nat), r.header = .used h .processed (.latched l) → h.kind = .data →
     (h.floor = true → r.symbolMap i = some (.column l.grid.floorColumn)) ∧
     (∀ k c, h.floor = false → r.columns[i]? = some k → l.grid.columns[k.val]? = some (some c) → r.symbolMap i = some (.column c))) ∧
  (∀ (n b : Nat) (g : Grid) (columns : List (Fin 4)),
     let sum := fun (c : Fin 4) => columnSum ((g.columns.getD c.val none).getD [])
     Loading.robust.symbolBits n = List.replicate n 384 ∧ (Loading.floor g).symbolBits n = List.replicate n (columnSum g.floorColumn) ∧
     (Loading.perSlot g columns).symbolBits n = (columns.take n).map sum ∧ Loading.robust.segmentBits b = (b + 12) * 16 ∧
     (Loading.floor g).segmentBits b = ((b + 12) * 32 + 2) / 3 ∧ (Loading.perSlot g columns).segmentBits b = ((b + 12) * 32 + 2) / 3) ∧
  (∀ (bits : Nat) (symbols : List Nat), bits ≤ symbols.sum →
     let n := leastSymbols bits symbols
     bits ≤ (symbols.take n).sum ∧ ∀ m, m < n → (symbols.take m).sum < bits)

/-- R103: the tag given to a grid is never 0 and differs from those of the two grids the entry holds. R107: the outcome of a GRID part at
its issuer: a part that its issue no longer holds changes nothing; one not taken takes an attempt, counted by its outcome; one accepted
leaves the control list, and the last one promotes the grid (R112). R108: at the retry limit the issue is abandoned, with the abandonment
trigger unless the retry is spent (R82). R109: a CAP-CONFLICT withdraws it. R112: a promotion, by the last part or by a DATA frame, frees
the old RX-CURRENT grid, gives its role to the pending one, ends the issue as delivered and makes the entry LINKED. R117: a GRID-UNKNOWN
answer frees the TX-ACTIVE grid of the tag that was sent, and does nothing for another tag. R33, R81, R133, R134: what a received response
does to the entry of its station: the streak is cleared; ACCEPTED clears the hold and NO-ROOM to DATA sets it; and a CAP-CONFLICT replaces
the peer's band list and, for a GRID part, gives the cap-conflict trigger, which is counted as ignored when the station has no entry (the
model's reading: assumption log 34). R178: what leaves the control list leaves by leaveControl, for every list: from one of fewer than 16
nothing joins it, and what a full one gives, the parts of other issues offered with their part records, is part of SentFrameEnds. -/
def Obligations.IssueTagsAndOutcomes : Prop :=
  (∀ (next : Byte) (used : List Byte), next ≠ 0#8 → used.length ≤ 2 →
    chooseTag next used ≠ 0#8 ∧ chooseTag next used ∉ used ∧ tagAfter (chooseTag next used) ≠ 0#8) ∧
  (∀ (s : State) (i : EntryIx) (tag : Byte) (k : Fin 4), s.partInFlight i tag k = none →
    (∀ st, partAnswered (some (.gridPart i tag k)) st s = s) ∧ partNoResponse (some (.gridPart i tag k)) s = s) ∧
  (∀ (s : State) (i : EntryIx) (e : Entry) (tag : Byte) (k : Fin 4) (p : PartRecord) (x : SlotIx) (h : HeldGrid),
    s.entry i = some e → s.roleSlot i .rxPending = some x → s.pool[x] = some h → h.grid.tag = tag →
    e.store.parts.find? (fun y => y.index == k && y.inFlight) = some p →
    let abandonment : Causes := ⟨false, false, false, false, false, true⟩
    let written := fun (r : GridRecord) => s.table.set i (some { e with store := r })
    let answered := fun (st : RespStatus) => partAnswered (some (.gridPart i tag k)) st s
    let again : State := { s with table := written { e.store with
      parts := e.store.parts.map fun y => if y.index = k then { y with inFlight := false, attempts := p.attempts + 1 } else y } }
    let dropped := fun (u : State) => leaveControl (fun c => c.partOf i)
      { u with pool := s.pool.set x none, table := written { e.store with issue := .noIssue, parts := [] } }
    let abandoned := fun (u : State) =>
      if e.build.retrySpent then bump .abandonmentSuppressed (bump .issuesAbandoned (dropped u))
      else trigger i abandonment (bump .issuesAbandoned (dropped u))
    (p.attempts + 1 < s.settings.partRetry →
      answered .noRoom = again ∧ answered .gridUnknown = bump .unexpectedStatus again ∧
        partNoResponse (some (.gridPart i tag k)) s = bump .partRetries again) ∧
    (s.settings.partRetry ≤ p.attempts + 1 →
      answered .noRoom = abandoned s ∧ answered .gridUnknown = abandoned (bump .unexpectedStatus s) ∧
        partNoResponse (some (.gridPart i tag k)) s = abandoned (bump .partRetries s)) ∧
    answered .capConflict = bump .capConflictsReceived (dropped s) ∧
    (let accepted := e.store.parts.map fun y => if y.index = k then { y with inFlight := false, place := .accepted } else y
     let left := leaveControl (fun c => c == .gridPart i tag k) { s with table := written { e.store with parts := accepted } }
     ((∃ y ∈ accepted, y.place ≠ .accepted) → answered .accepted = left) ∧
     ((∀ y ∈ accepted, y.place = .accepted) → answered .accepted = promote i false left))) ∧
  (∀ (s : State) (gone : ControlEntry → Bool), s.control.length < 16 →
    ∃ t : State, leaveControl gone s = { s with control := s.control.filter (fun c => !gone c), evalDue := t.evalDue }) ∧
  (∀ (s : State) (i : EntryIx) (e : Entry) (x : SlotIx) (h : HeldGrid) (byData : Bool),
    s.entry i = some e → s.roleSlot i .rxPending = some x → s.pool[x] = some h →
    let freed := match s.roleSlot i .rxCurrent with
      | some y => s.pool.set y none
      | none => s.pool
    let t := promote i byData s
    let heardAs := if e.state = .heard then EntryState.linked else e.state
    let ended := { e with store := { e.store with issue := .delivered, parts := [] } }
    let left := leaveControl (fun c => c.partOf i)
      { s with pool := freed.set x (some { h with role := .rxCurrent }), table := s.table.set i (some ended) }
    t = { left with
      table := left.table.set i (some { ended with state := heardAs }), counters := t.counters, evalDue := t.evalDue } ∧
    t.count .gridsPromoted = satInc (s.count .gridsPromoted) ∧
    t.count .promotionsByData = if byData then satInc (s.count .promotionsByData) else s.count .promotionsByData) ∧
  (∀ (s : State) (i : EntryIx) (l : Latched),
    (s.pool[l.slot] = some { entry := i, role := .rxPending, grid := l.grid } → promoteByData i (.latched l) s = promote i true s) ∧
    (s.pool[l.slot] ≠ some { entry := i, role := .rxPending, grid := l.grid } → promoteByData i (.latched l) s = s) ∧
    promoteByData i .robust s = s) ∧
  (∀ (s : State) (i : EntryIx) (tag : Byte),
    (∀ x h e, PoolLawful s.pool → s.roleSlot i .txActive = some x → s.pool[x] = some h → h.grid.tag = tag → s.entry i = some e →
      ∃ t e', gridUnknownReceived i tag s = t ∧ t.entry i = some e' ∧
        e' = { e with
          state := if e.state = .linked ∧ s.roleSlot i .rxCurrent = none then .heard
                   else if e.state = .heard ∧ s.roleSlot i .rxCurrent ≠ none then .linked else e.state
          txRate := e'.txRate, route := e'.route } ∧
        t.count .gridUnknownReceived = satInc (s.count .gridUnknownReceived) ∧ s.OthersKept t i ∧
        t = { s with pool := s.pool.set x none, table := t.table, counters := t.counters, evalDue := t.evalDue }) ∧
    ((∀ g, s.roleGrid i .txActive = some g → g.tag ≠ tag) → gridUnknownReceived i tag s = s)) ∧
  (∀ (s : State) (w : ResponseWait) (r : RespBody),
    (s.findEntry w.receiver = none →
      receiverOutcome w r s = if r.status = .capConflict ∧ w.kind = .grid then bump .ignoredTriggers s else s) ∧
    (∀ i e, s.findEntry w.receiver = some i → s.entry i = some e →
      let entered := fun (x : Entry) => { s with table := s.table.set i (some x) }
      let capConflict : Causes := ⟨false, false, false, false, true, false⟩
      (r.status = .gridUnknown → receiverOutcome w r s = entered { e with streak := 0 }) ∧
      (r.status = .capConflict → w.kind ≠ .grid → receiverOutcome w r s = entered { e with streak := 0, peerBands := r.bands }) ∧
      (r.status = .capConflict → w.kind = .grid →
        receiverOutcome w r s = trigger i capConflict (entered { e with streak := 0, peerBands := r.bands })) ∧
      (r.status = .accepted → e.hold = none → receiverOutcome w r s = entered { e with streak := 0 }) ∧
      (r.status = .accepted → e.hold ≠ none →
        receiverOutcome w r s = recompute (entered { e with streak := 0, hold := none })) ∧
      (r.status = .noRoom → w.kind = .grid → receiverOutcome w r s = entered { e with streak := 0 }) ∧
      (r.status = .noRoom → w.kind = .data →
        let held := entered { e with streak := 0, hold := some (s.lineTime.plus 10000000) }
        receiverOutcome w r s = if e.hold = none then recompute (bump .directHolds held) else held)))

/-- R115, R116: a part of a one-column grid that does not exceed the caps, where the entry has no TX-ACTIVE grid, is stored and committed at
once: it is answered ACCEPTED, the entry's TX-ACTIVE grid is that part's with its rate computed here, and nothing of the entry is left
assembling. R113, R85: a column exceeds the caps exactly when the level of some carrier is above the lowest cap of the own bands that
contain the carrier (10 where none does), rounded down to a level; a part with such a column is answered CAP-CONFLICT, counted, and the
assembly of its tag is freed. R114: with the tag of the TX-ACTIVE grid, an identical part is ACCEPTED and changes nothing, and a different
one has that grid freed and is then taken as a new part. R115: an assembly of another tag or another grid is freed first; without an
assembly and without a FREE slot the part is answered NO-ROOM and counted; otherwise its column is stored, in a new assembly or in the one
held. R116: an assembly that is then whole is committed: the old TX-ACTIVE slot is freed, the assembly takes its role with the rate of its
columns, and the entry is LINKED. R32: at the frame end of a processed GRID frame with a valid payload the RESP is composed with that
status, and with this station's band list when it is CAP-CONFLICT. -/
def Obligations.PartsAssembledAndCommitted : Prop :=
  (∀ (s : State) (i : EntryIx) (e : Entry) (p : GridPart) (k : SlotIx), s.entry i = some e → p.Lawful → p.k = 1 →
    exceedsCaps s.settings.bands p.column = false → s.roleSlot i .txActive = none → s.roleSlot i .txAssembling = none →
    s.freeSlot = some k →
    (takePart i p s).1 = .accepted ∧
    (takePart i p s).2.roleGrid i .txActive = some
      { tag := p.tag, pair := p.pair, map := p.map, columns := [some p.column], rate := columnSum p.column * 6 * 125 / 32,
        issueTime := s.lineTime } ∧
    (takePart i p s).2.roleSlot i .txAssembling = none ∧
    (takePart i p s).2.count .commits = satInc (s.count .commits)) ∧
  (∀ (bands : List Band) (column : Column),
    exceedsCaps bands column = true ↔ ∃ (k : Nat) (l : Level), k < 768 ∧ column[k]? = some l ∧
      (let raw := ((bands.filter fun b => decide (b.first ≤ k ∧ k < b.first + b.width)).map (·.cap)).foldl min 10
       (if raw = 5 then 4 else if raw = 7 then 6 else if raw = 9 then 8 else raw) < l.bits)) ∧
  (∀ (s : State) (i : EntryIx) (p : GridPart), exceedsCaps s.settings.bands p.column = true →
    (∀ g, s.roleGrid i .txAssembling = some g → g.tag ≠ p.tag → takePart i p s = (.capConflict, bump .capConflictsSent s)) ∧
    (s.roleSlot i .txAssembling = none → takePart i p s = (.capConflict, bump .capConflictsSent s)) ∧
    (∀ x h, s.roleSlot i .txAssembling = some x → s.pool[x] = some h → h.grid.tag = p.tag →
      takePart i p s = (.capConflict, bump .capConflictsSent { s with pool := s.pool.set x none }))) ∧
  (∀ (s : State) (i : EntryIx) (p : GridPart), PoolLawful s.pool → exceedsCaps s.settings.bands p.column = false →
    let same := fun (g : Grid) => p.pair = g.pair ∧ p.k = g.columns.length ∧ p.map = g.map ∧ p.rate = g.rate
    (∀ x h, s.roleSlot i .txActive = some x → s.pool[x] = some h → h.grid.tag = p.tag →
      (same h.grid → h.grid.columns[p.index.val]? = some (some p.column) → takePart i p s = (.accepted, s)) ∧
      (¬same h.grid ∨ h.grid.columns[p.index.val]? ≠ some (some p.column) →
        let t := activeNotice i { s with pool := s.pool.set x none }
        takePart i p s = takePart i p t ∧ t.roleSlot i .txActive = none)) ∧
    ((∀ g, s.roleGrid i .txActive = some g → g.tag ≠ p.tag) →
      (∀ x h, s.roleSlot i .txAssembling = some x → s.pool[x] = some h → h.grid.tag ≠ p.tag ∨ ¬same h.grid →
        let t := { s with pool := s.pool.set x none }
        takePart i p s = takePart i p t ∧ t.roleSlot i .txAssembling = none) ∧
      (s.roleSlot i .txAssembling = none → s.freeSlot = none → takePart i p s = (.noRoom, bump .assemblyRefused s)) ∧
      (∀ x, s.roleSlot i .txAssembling = none → s.freeSlot = some x → 2 ≤ p.k →
        takePart i p s = (.accepted, { s with pool := s.pool.set x (some { entry := i, role := .txAssembling, grid :=
          { tag := p.tag, pair := p.pair, map := p.map, columns := (List.replicate p.k none).set p.index.val (some p.column)
            rate := p.rate, issueTime := s.lineTime } }) })) ∧
      (∀ x h, s.roleSlot i .txAssembling = some x → s.pool[x] = some h → h.grid.tag = p.tag → same h.grid →
        let columns := h.grid.columns.set p.index.val (some p.column)
        let stored := { h with grid := { h.grid with columns := columns } }
        (none ∈ columns → takePart i p s = (.accepted, { s with pool := s.pool.set x (some stored) })) ∧
        (∀ e, none ∉ columns → s.entry i = some e →
          let freed := match s.roleSlot i .txActive with
            | some y => s.pool.set y none
            | none => s.pool
          let rate := ((List.finRange 6).map fun m => columnSum ((columns.getD (h.grid.map[m]).val none).getD [])).sum * 125 / 32
          ∃ t e', takePart i p s = (.accepted, t) ∧
            t.pool = freed.set x (some { entry := i, role := .txActive, grid :=
              { h.grid with columns := columns, rate := rate, issueTime := s.lineTime } }) ∧
            t.entry i = some e' ∧
            e' = { e with state := if e.state = .heard then .linked else e.state, txRate := e'.txRate, route := e'.route } ∧
            s.OthersKept t i ∧ t.count .commits = satInc (s.count .commits) ∧
            t = { s with pool := t.pool, table := t.table, counters := t.counters, evalDue := t.evalDue })))) ∧
  (∀ (s : State) (r : Reception) (h : Header) (x : Resolution) (d : ResponderDuty) (i : EntryIx) (p : GridPart)
    (payload : Demodulated) (readings : List (List Int)), s.Live → s.Rested → s.line.reception = some r →
    r.header = .used h .processed x → s.lineTime = r.frameStart.plus (192 + 32 * h.payloadSymbols) → s.mac.state = .receiving →
    s.mac.duty = some d → h.kind = .grid → s.findEntry h.tx = some i → readGridPart (r.payloadBytes payload) = some p →
    let taken := takePart i p { s with line := { s.line with reception := none } }
    let answer : RespBody :=
      { status := taken.1, entries := [], bands := if taken.1 = .capConflict then some s.settings.bands else none }
    exec (.frameEnd payload readings) s = .next (settle s.txCharge { taken.2 with
      mac := { s.mac with state := .responding, gap := none, duty := some { d with resp := some answer } } }))

/-! ### Station table and routes (chapter 7) -/

/-- R131, R132: the aging deadline of an entry. A HEARD or LINKED entry turns STALE 15 s after it was heard and keeps all but its direct
rate and route; a STALE one 60 s after it was heard, and a REMOTE one 30 s after it was named, is removed with exactly its slots of the
pool, the address-map entries of its station, its in-flight record and its parts on the control list. R134, R135: at its expiry the direct
hold is cleared, and the direct rate of a HEARD or LINKED entry is that of its TX-ACTIVE grid again, or 6,000 without one; nothing else of
the entry changes but its route. In each case the other entries stay, direct rates and routes apart. R122, R178: the other entries' part
records and the control list are as the parts of the removed entry leave them (State.leftBy: the entry and its slots gone, and then
leaveControl), for every control list; with one of 16, whose room goes to other entries' parts, as SentFrameEnds has that offering. -/
def Obligations.EntryDeadlines : Prop :=
  (∀ (s : State) (i : EntryIx) (e : Entry), s.Live → s.Rested → s.entry i = some e →
     (∀ l, (e.state = .heard ∨ e.state = .linked) → e.lastHeard = some l → s.lineTime = l.plus 15000000 →
       ∃ t e', exec (.entryAgingDeadline i) s = .next t ∧ t.entry i = some e' ∧
         e' = { e with state := .stale, txRate := 0, route := e'.route } ∧ e'.route ≠ .direct ∧ s.OthersKept t i ∧
         t.count .entriesStale = satInc (s.count .entriesStale) ∧ t = { s with table := t.table }.endedAs t) ∧
     (∀ l, (e.state = .stale ∧ e.lastHeard = some l ∧ s.lineTime = l.plus 60000000) ∨
         (e.state = .remote ∧ e.lastNamed = some l ∧ s.lineTime = l.plus 30000000) →
       ∃ t, exec (.entryAgingDeadline i) s = .next t ∧ t.entry i = none ∧
         (∀ j, j ≠ i → (t.entry j).map (·.addr) = (s.entry j).map (·.addr)) ∧ (s.control.length < 16 → s.OthersKept t i) ∧
         (let left := s.leftBy i
          left.OthersKept t i ∧ t.control = left.control) ∧
         (∀ k : SlotIx, t.pool[k] = (s.pool[k]).filter fun g => g.entry != i) ∧
         (∀ k : MapIx, t.addressMap[k] = (s.addressMap[k]).filter fun m => m.target != .station e.addr) ∧
         t.inFlight = s.inFlight.filter (fun r => r.entry != i) ∧
         (s.control.length < 16 → t.control = s.control.filter fun c => !c.partOf i) ∧
         (∀ j, j ≠ i → (t.entry j).map (·.route) ≠ some (.via i)) ∧
         t.count .entriesRemoved = satInc (s.count .entriesRemoved) ∧
         t = { s with table := t.table, pool := t.pool, inFlight := t.inFlight, control := t.control,
                      addressMap := t.addressMap }.endedAs t)) ∧
  (∀ (s : State) (i : EntryIx) (e : Entry), s.Live → s.Rested → s.entry i = some e → e.hold = some s.lineTime →
     ∃ t e', exec (.holdExpiry i) s = .next t ∧ t.entry i = some e' ∧
       e' = { e with hold := none, txRate := e'.txRate, route := e'.route } ∧
       e'.txRate = (if e.state = .heard ∨ e.state = .linked then ((s.roleGrid i .txActive).map (·.rate)).getD 6000 else 0) ∧
       s.OthersKept t i ∧ t = { s with table := t.table }.endedAs t)

/-- R139, R177: at the note deadline the deadline moves on by the note interval; a NOTE entry is offered unless one is placed, and joins the
control list, or is refused and counted when the list is full. R63: at that instant every cell of every entry that is old is aged, and the
counter of aged cells counts each of them; nothing else of an entry changes (what aging does to a cell is part of FrameEndSamplesSound).
R35, R141: at the frame end of a processed NOTE with a valid payload the entry of its transmitter takes its relay willingness, its band list
and its reach list, the first item for each address, and the NOTE is counted; with a payload that is not valid it is counted as bad and
changes nothing else. R67: a sound request of the item that names this station raises the want counts of its pair, in the slots that it
names through the held offset, or in all six without one, to 3, and then takes the want path of R69: the placed entry, the sound deadline
and the control list are as it leaves them (soundRequested, case by case in SoundPlacement). R130: an address that the list names, other
than this station's and the transmitter's, renews a REMOTE entry, leaves another entry as it is, is entered as REMOTE at the lowest empty
index, or is counted when there is none. -/
def Obligations.NoteScheduleAndIntake : Prop :=
  (∀ s : State, s.Live → s.Rested → s.note.deadline = some s.lineTime →
    let next := some (s.lineTime.plus (s.settings.noteMs * 1000))
    let all := fun (_ : Pair) (_ : MainsSlot) => true
    let old := (List.finRange 24).map fun i => ((s.entry i).map fun e => e.snr.oldCount s.lineTime all).getD 0
    let aged := bumpBy .cellsAged old.sum
      { s with table := s.table.map fun x => x.map fun e => { e with snr := e.snr.age s.lineTime all } }
    (s.note.placed = true → exec .noteDeadline s = .next { aged with note := { s.note with deadline := next } }) ∧
    (s.note.placed = false → s.control.length < 16 → .note ∉ s.control →
      exec .noteDeadline s = .next (settle s.txCharge { aged with
        control := s.control ++ [.note], evalDue := true, note := { deadline := next, placed := true } })) ∧
    (s.note.placed = false → 16 ≤ s.control.length →
      exec .noteDeadline s = .next (bump .noteRefusals { aged with note := { s.note with deadline := next } }))) ∧
  (∀ (s : State) (r : Reception) (h : Header) (x : Resolution) (i : EntryIx) (e : Entry) (payload : Demodulated)
    (readings : List (List Int)), s.Live → s.Rested → s.line.reception = some r → r.header = .used h .processed x → h.kind = .note →
    s.lineTime = r.frameStart.plus (192 + 32 * h.symbols) → s.mac.state = .receiving → s.findEntry h.tx = some i →
    s.entry i = some e →
    let quiet : Mac := { s.mac with state := .deferring, gap := some (.quiet (s.lineTime.plus 60)) }
    (readNote h.symbols (r.payloadBytes payload) = none →
      exec (.frameEnd payload readings) s =
        .next (bump .badControlPayloads { s with line := { s.line with reception := none }, mac := quiet })) ∧
    (∀ n, readNote h.symbols (r.payloadBytes payload) = some n →
      let items := dropDuplicates n.items
      let mine := (items.find? fun y => y.addr == s.settings.station).bind fun y => y.request
      ∃ t e', exec (.frameEnd payload readings) s = .next t ∧ t.entry i = some e' ∧
        e' = { e with
          relay := n.relay, peerBands := some n.bands, reach := some (items.map fun y => { addr := y.addr, rate := y.rate })
          txRate := e'.txRate, route := e'.route } ∧
        (∀ (j : EntryIx) (y : Entry), j ≠ i → s.entry j = some y → s.findEntry y.addr = some j →
          (t.entry j).map Entry.unrouted = some (Entry.unrouted
            (if y.state = .remote ∧ y.addr ≠ s.settings.station ∧ ∃ z ∈ n.items, z.addr = y.addr
             then { y with lastNamed := some s.lineTime } else y))) ∧
        (mine = none → t.estimator = s.estimator ∧ t.control = s.control) ∧
        (∀ q, mine = some q → t.estimator.wants = raiseWants e.offset.held q s.estimator.wants ∧
          t.count .soundRequests = satInc (s.count .soundRequests) ∧
          t.estimator = (soundRequested e.offset.held q s).estimator ∧ t.control = (soundRequested e.offset.held q s).control) ∧
        t.count .notesReceived = satInc (s.count .notesReceived) ∧ t.mac = quiet ∧
        t = { s with
          table := t.table, estimator := t.estimator, control := t.control
          line := { s.line with reception := none } }.endedAs t)) ∧
  (∀ (items : List NoteItem) (x : NoteItem),
    dropDuplicates [] = [] ∧
    ((∃ y ∈ items, y.addr = x.addr) → dropDuplicates (items ++ [x]) = dropDuplicates items) ∧
    ((∀ y ∈ items, y.addr ≠ x.addr) → dropDuplicates (items ++ [x]) = dropDuplicates items ++ [x])) ∧
  (∀ (o : Option MainsSlot) (q : SoundRequest) (w : Vector (Vector Nat 6) 3) (p : Pair) (m : MainsSlot),
    (p ≠ q.pair → (raiseWants o q w)[p][m] = w[p][m]) ∧
    (o = none → (raiseWants o q w)[q.pair][m] = 3) ∧
    (∀ off, o = some off →
      ((∃ r : MainsSlot, q.slots.getLsbD r.val = true ∧ m.val = (r.val + off.val) % 6) → (raiseWants o q w)[q.pair][m] = 3) ∧
      ((∀ r : MainsSlot, q.slots.getLsbD r.val = true → m.val ≠ (r.val + off.val) % 6) →
        (raiseWants o q w)[q.pair][m] = w[q.pair][m]))) ∧
  (∀ (s : State) (tx a : Addr),
    (a = s.settings.station ∨ a = tx → nameStation tx a s = s) ∧
    (a ≠ s.settings.station → a ≠ tx →
      (∀ i e, s.findEntry a = some i → s.entry i = some e →
        (e.state = .remote → nameStation tx a s =
          { s with table := s.table.set i (some { e with lastNamed := some s.lineTime }) }) ∧
        (e.state ≠ .remote → nameStation tx a s = s)) ∧
      (s.findEntry a = none → s.emptyIndex = none → nameStation tx a s = bump .remoteNotCreated s) ∧
      (∀ i, s.findEntry a = none → s.emptyIndex = some i →
        ∃ t e, nameStation tx a s = t ∧ t.entry i = some e ∧
          e = { Entry.fresh a .remote none (some s.lineTime) false with route := e.route, txRate := e.txRate } ∧
          s.OthersKept t i ∧ t.count .remoteCreated = satInc (s.count .remoteCreated) ∧
          t = { s with table := t.table, counters := t.counters, evalDue := t.evalDue })))

/-- R136, R137: the choice of a route, case by case, from the present route, the direct rate and the valid vias with their via rates
(ViaValid: another entry, HEARD or LINKED, that relays, has a direct rate above 0 and lists the address with a rate above 0; ViaBest: the
largest via rate, the lowest index on a tie). From DIRECT or NONE a HEARD or LINKED entry goes to the best via if 16 times its rate exceeds
20 times the direct rate, and else is DIRECT; from a valid via any entry goes to another only if that is better by the same measure; from a
via no longer valid, and for an entry neither HEARD nor LINKED, to the best via; and a HEARD or LINKED entry whose direct rate is at least
that of the via so reached returns to DIRECT. With no valid via the route is DIRECT, or NONE for an entry neither HEARD nor LINKED. A route
formed again at once, with nothing changed, is the same route. -/
def Obligations.RouteChoiceIsStable : Prop :=
  ∀ (table : Vector (Option Entry) 24) (rates : EntryIx → Nat) (d : EntryIx) (e : Entry), table[d] = some e →
    let present := e.state = .heard ∨ e.state = .linked
    let valid := fun p r => ViaValid table rates p d r
    let best := fun q rq => ViaBest table rates q d rq
    let chosen := chooseRoute table rates d e
    (∀ q rq, best q rq → present → e.route = .direct ∨ e.route = .noRoute →
      chosen = if 20 * rates d < 16 * rq then .via q else .direct) ∧
    (∀ p r q rq, best q rq → e.route = .via p → valid p r →
      let v := if q ≠ p ∧ 20 * r < 16 * rq then (q, rq) else (p, r)
      chosen = if present ∧ v.2 ≤ rates d then .direct else .via v.1) ∧
    (∀ p q rq, best q rq → e.route = .via p → (∀ r, ¬valid p r) →
      chosen = if present ∧ rq ≤ rates d then .direct else .via q) ∧
    (∀ q rq, best q rq → ¬present → e.route = .direct ∨ e.route = .noRoute → chosen = .via q) ∧
    ((∀ p r, ¬valid p r) → chosen = if present then .direct else .noRoute) ∧
    chooseRoute (table.set d (some { e with route := chosen })) rates d { e with route := chosen } = chosen

/-- R135, R138: a route recomputation gives every entry its direct rate (0 for one that is STALE, REMOTE or held, the rate of its TX-ACTIVE
grid, or 6,000 without one) and the route that RouteChoiceIsStable describes, formed from the table and the direct rates as they stood; all
else of an entry stays, and each changed route is counted, and marks evalDue, the model's record of an evaluation due (assumption log 22).
R136, R137: so, after it, DIRECT is the route of HEARD and LINKED entries alone, every via is a valid via for its entry, and NONE is the
route only of an entry neither HEARD nor LINKED for which there is no valid via. -/
def Obligations.RecomputedRoutesAreValid : Prop :=
  ∀ s : State,
    let t := recompute s
    let changed := (List.finRange 24).filter fun d => decide ((t.entry d).map (·.route) ≠ (s.entry d).map (·.route))
    (∀ d, s.entry d = none → t.entry d = none) ∧
    (∀ d e, s.entry d = some e →
      s.directRate d = (if (e.state = .heard ∨ e.state = .linked) ∧ e.hold = none then
        ((s.roleGrid d .txActive).map (·.rate)).getD 6000 else 0) ∧
      t.entry d = some { e with txRate := s.directRate d, route := chooseRoute s.table s.directRate d e }) ∧
    (∀ d e, t.entry d = some e →
      (e.route = .direct → e.state = .heard ∨ e.state = .linked) ∧
      (∀ p, e.route = .via p → ∃ r, ViaValid t.table s.directRate p d r) ∧
      (e.route = .noRoute → e.state ≠ .heard ∧ e.state ≠ .linked ∧ ∀ p r, ¬ViaValid t.table s.directRate p d r)) ∧
    t = bumpBy .routeChanges changed.length { s with table := t.table, evalDue := s.evalDue || decide (changed ≠ []) }

/-! ### Segments, queues and the address map (chapters 8 and 9) -/

/-- R156: a host frame whose expiry is reached. From its queue it leaves, and the queue-expiry counter goes up; NUMBERED, it leaves with
exactly its segments on the unacked list, every other entry staying as it was, and the numbered-expiry counter goes up. R181: a map entry is
removed 300 s after it was last learned, and the removal is counted. -/
def Obligations.FrameAndMapExpiry : Prop :=
  (∀ (s : State) (id : Nat) (f : HostFrame), s.Live → s.Rested → f.id = id → f.expiry = s.lineTime →
     (∀ q : QueueIx, f ∈ s.queues[q] → (∀ (k : QueueIx) (g : HostFrame), k ≠ q → g ∈ s.queues[k] → g.id ≠ id) →
       exec (.frameExpiry id) s = .next (settle s.txCharge (bump .queueExpiry
         { s with queues := s.queues.set q (s.queues[q].filter fun g => g.id != id), evalDue := true }))) ∧
     (∀ (i : EntryIx) (e : Entry), s.entry i = some e → (∃ x ∈ e.tx.numbered, x.frame = f) →
       (∀ (k : QueueIx) (g : HostFrame), g ∈ s.queues[k] → g.id ≠ id) →
       (∀ (k : EntryIx) (e' : Entry) (x : NumberedFrame), k ≠ i → s.entry k = some e' → x ∈ e'.tx.numbered → x.frame.id ≠ id) →
       ∃ t, exec (.frameExpiry id) s = .next t ∧
         t.count .numberedExpiry = satInc (s.count .numberedExpiry) ∧
         t = { s with table := s.table.set i (some { e with tx :=
           { e.tx with unacked := e.tx.unacked.filter fun x => x.frameId != id
                       numbered := e.tx.numbered.filter fun x => x.frame.id != id } }) }.endedAs t)) ∧
  (∀ (s : State) (i : MapIx) (m : MapEntry), s.Live → s.addressMap[i] = some m → s.lineTime = m.learned.plus 300000000 →
     exec (.mapAging i) s = .next (bump .mapAged { s with addressMap := s.addressMap.set i none }))

/-- R145, R167: admission. A carriage is taken only while its queue is below its depth and its charge keeps the transmit charge within
180,224 bytes, joins the tail with its expiry a lifetime on, and one that is not taken is counted as a tail drop or, when only the buffer is
short, a buffer drop. R182: carriage inspection of a reassembled run. One whose record does not fit its bytes is counted as an error, one of
this station's own origin as a loop; one for this station is delivered to the host with its charge and counted, and the map learns its
individual source with a known origin as the target (R180, State.Learnt: at the index it had, a changed target counted as a move; else at
the lowest empty one; else, with all 128 held, in place of the oldest, which is counted), every other index staying as it was. R183: one for
another station is relayed, with hop count 1 and all else of its record kept, when its hop count is 0, this station relays and the final
station is HEARD or LINKED here; refused by its queue, or otherwise, it is a relay drop, counted with the attention flag raised. -/
def Obligations.AdmissionAndInspection : Prop :=
  (∀ (s : State) (f : HostFrame),
    let q := f.queue
    ((s.settings.queues[q]).depth ≤ (s.queues[q]).length → admission f s = (false, bump (.tailDrops q) s)) ∧
    ((s.queues[q]).length < (s.settings.queues[q]).depth → 180224 < s.txCharge + f.charge →
      admission f s = (false, bump (.bufferDrops q) s)) ∧
    ((s.queues[q]).length < (s.settings.queues[q]).depth → s.txCharge + f.charge ≤ 180224 →
      ∃ t, admission f s = (true, t) ∧ t.txCharge = s.txCharge + f.charge ∧ t.txCharge ≤ 180224 ∧
        t.queues[q] = s.queues[q] ++
          [{ f with id := s.nextFrameId, expiry := s.lineTime.plus ((s.settings.queues[q]).lifetimeMs * 1000) }] ∧
        ∀ k : QueueIx, k ≠ q → t.queues[k] = s.queues[k])) ∧
  (∀ (s : State) (j : JoinedPieces),
    let origin := addrAt 0 j.bytes
    let final := addrAt 6 j.bytes
    let hop := (byteAt 12 j.bytes).toNat
    let queue := (byteAt 13 j.bytes).toNat
    let len := fieldAt 14 2 j.bytes
    let eth := j.bytes.drop 16
    let whole := j.bytes.length = len + 16 ∧ 64 ≤ len ∧ len ≤ 1522 ∧ hop ≤ 1 ∧ 1 ≤ queue ∧ queue ≤ 6
    let flagged := fun (t : State) => bump .relayDrops { t with attention := { t.attention with relayDrop := true } }
    let reached := ∃ i e, s.findEntry final = some i ∧ s.entry i = some e ∧ (e.state = .heard ∨ e.state = .linked)
    (¬whole → inspect j s = bump .carriageErrors s) ∧
    (whole → origin = s.settings.station → inspect j s = bump .loopDrops s) ∧
    (whole → origin ≠ s.settings.station → final = s.settings.station →
      let src := (ethView eth).src
      let t := inspect j s
      t.port = { s.port with delivery := s.port.delivery ++ [{ eth := eth, charge := j.charge }] } ∧
      t.count .framesToHost = satInc (s.count .framesToHost) ∧
      (src.isGroup = true ∨ s.findEntry origin = none → t.addressMap = s.addressMap) ∧
      (src.isGroup = false → s.findEntry origin ≠ none → s.Learnt t src (.station origin)) ∧
      t = { s with port := t.port, addressMap := t.addressMap, counters := t.counters }) ∧
    (whole → origin ≠ s.settings.station → final ≠ s.settings.station →
      (∀ q : QueueIx, hop = 0 → s.settings.relay = true → reached → q.val + 1 = queue →
        let f : HostFrame := { id := 0, origin := origin, final := final, hop := 1, queue := q, eth := eth, expiry := 0#32 }
        (∀ t, admission f s = (true, t) → inspect j s = bump .relayedCarriages t) ∧
        (∀ t, admission f s = (false, t) → inspect j s = flagged t)) ∧
      (hop = 1 ∨ s.settings.relay = false ∨ ¬reached → inspect j s = flagged s)))

/-! ### The station port (chapter 10) -/

/-- R186: frames from the host that go no further: all in LOADING, those shorter than 64 or longer than 1,522 bytes, those whose frame check
sequence does not match, and those for this station's own address that are no requests. R187: a pause frame from the host is counted, and
with pausing enabled sets the host hold to its quanta of 512 bit times, rounded up to a microsecond, or ends it at once with quanta of 0.
The transmitter is taken as busy, so that ending the hold starts no frame. R190: a request joins the request list while it holds fewer than
four, and otherwise is counted as an overflow and leaves no trace. That the request is not served within its arrival, where R191 covers an
arrival at an empty list with an empty buffer, but by the command of its kind at that same instant, is the model's choice (assumption log
17, DESIGN CHOICE). R186: the parts of a frame of at least 64 bytes: its two addresses, its VLAN priority if bytes 12..13 hold 0x8100, the
EtherType after it, and the data between that and the check sequence. R190, R197, R210: a request is read from its frame field by field: the
source, the tag, the kind and the arguments of its kind; it is malformed when its kind is none of the seven, its data is too short for its
arguments, or a coded argument of a WINDOW READ (source, role or pair, mode, walk order) names no defined value. -/
def Obligations.HostFramesEndingAtPort : Prop :=
  (∀ (s : State) (b : List Byte), s.Live → s.Rested →
     let v := ethView b
     let whole := 64 ≤ b.length ∧ b.length ≤ 1522 ∧ fcsMatches b = true
     (s.startUp = .loading → exec (.hostFrameReceived b) s = .next s) ∧
     (s.startUp ≠ .loading → (b.length < 64 ∨ 1522 < b.length) →
       exec (.hostFrameReceived b) s = .next (bump .hostSizeErrors s)) ∧
     (s.startUp ≠ .loading → 64 ≤ b.length → b.length ≤ 1522 → fcsMatches b = false →
       exec (.hostFrameReceived b) s = .next (bump .hostFcsErrors s)) ∧
     (s.startUp ≠ .loading → whole → v.dst = s.settings.station → v.etherType ≠ 0x8808 → v.etherType ≠ 0x88B5 →
       exec (.hostFrameReceived b) s = .next (bump .ownAddressDrops s)) ∧
     (s.startUp ≠ .loading → whole → v.etherType = 0x8808 → fieldAt 0 2 v.data ≠ 1 →
       exec (.hostFrameReceived b) s = .next (bump .macControlDrops s))) ∧
  (∀ (s : State) (b : List Byte), s.Live → s.Rested → s.startUp ≠ .loading → 64 ≤ b.length → b.length ≤ 1522 →
     fcsMatches b = true → (ethView b).etherType = 0x8808 → fieldAt 0 2 (ethView b).data = 1 → s.port.sending ≠ none →
     let quanta := fieldAt 2 2 (ethView b).data
     (s.settings.pauseEnable = false → exec (.hostFrameReceived b) s = .next (bump .pauseReceived s)) ∧
     (s.settings.pauseEnable = true → quanta = 0 →
       exec (.hostFrameReceived b) s = .next (bump .pauseReceived { s with port := { s.port with hold := none } })) ∧
     (s.settings.pauseEnable = true → quanta ≠ 0 → s.port.mode = .rmii →
       exec (.hostFrameReceived b) s = .next (bump .pauseReceived
         { s with port := { s.port with hold := some (s.lineTime.plus ((quanta * 512 + 99) / 100)) } })) ∧
     (s.settings.pauseEnable = true → quanta ≠ 0 → s.port.mode = .rgmii →
       exec (.hostFrameReceived b) s = .next (bump .pauseReceived
         { s with port := { s.port with hold := some (s.lineTime.plus ((quanta * 512 + 999) / 1000)) } }))) ∧
  (∀ (s : State) (b : List Byte), s.Live → s.Rested → s.startUp ≠ .loading → 64 ≤ b.length → b.length ≤ 1522 →
     fcsMatches b = true → (ethView b).etherType = 0x88B5 → (ethView b).dst = s.settings.station →
     (s.port.requests.length < 4 →
       exec (.hostFrameReceived b) s = .next (bump .requestsReceived
         { s with port := { s.port with requests := s.port.requests ++ [readRequest (ethView b)] } })) ∧
     (4 ≤ s.port.requests.length → exec (.hostFrameReceived b) s = .next (bump .requestOverflow s))) ∧
  (∀ b : List Byte, 64 ≤ b.length →
     let v := ethView b
     let word := fun k => (byteAt k b).toNat * 256 + (byteAt (k + 1) b).toNat
     Carries b 0 6 v.dst.toNat ∧ Carries b 6 6 v.src.toNat ∧
     (word 12 ≠ 0x8100 → v.vlan = none ∧ v.etherType = word 12 ∧ v.data = (b.drop 14).take (b.length - 18)) ∧
     (word 12 = 0x8100 → v.vlan.map (·.val) = some ((byteAt 14 b).toNat / 32) ∧ v.etherType = word 16 ∧
       v.data = (b.drop 18).take (b.length - 22))) ∧
  (∀ v : EthView,
     let d := v.data
     let r := readRequest v
     let byte := fun k => (byteAt k d).toNat
     let word := fun k => byte k * 256 + byte (k + 1)
     let named := fun (x : WindowSource) =>
       (byte 3 = 0 ∧ ((byte 5 = 0 ∧ x = .grid .rxCurrent) ∨ (byte 5 = 1 ∧ x = .grid .rxPending) ∨
         (byte 5 = 2 ∧ x = .grid .txActive) ∨ (byte 5 = 3 ∧ x = .grid .txAssembling))) ∨
       (byte 3 = 1 ∧ ∃ p : Pair, byte 5 = p.val ∧ x = .snr p)
     r.source = v.src ∧ r.tag.toNat = word 0 ∧ r.kind.toNat = byte 2 ∧
     (byte 2 = 1 → r.body = if d.length < 4 then .malformed else .status (byteAt 3 d)) ∧
     (byte 2 = 2 → r.body = if d.length < 4 then .malformed else .counters (byte 3 != 0)) ∧
     (byte 2 = 3 → r.body = if d.length < 5 then .malformed else .stationTable (byte 3) (byte 4)) ∧
     (byte 2 = 4 →
       (∀ x, 16 ≤ d.length → named x → byte 6 ≤ 1 → byte 7 ≤ 7 → r.body = .windowRead
         { source := x, index := byte 4, extentMode := byte 6 == 1
           order := { slotMajor := (byte 7).testBit 0, carrierReverse := (byte 7).testBit 1, slotReverse := (byte 7).testBit 2 }
           carrierStart := word 8, carrierStop := word 10, slotStart := byte 12, slotStop := byte 13, resume := word 14 }) ∧
       (d.length < 16 ∨ (∀ x, ¬named x) ∨ 1 < byte 6 ∨ 7 < byte 7 → r.body = .malformed)) ∧
     (byte 2 = 5 → r.body = if d.length < 5 then .malformed else .addressMap (byte 3) (byte 4)) ∧
     (byte 2 = 6 → r.body = .configRead) ∧ (byte 2 = 7 → r.body = .restart) ∧
     (byte 2 = 0 ∨ 7 < byte 2 → r.body = .malformed))

/-- R169, R170, R180: a host frame for a device that the map places behind a station is counted, the map learns its individual source as
LOCAL (State.Learnt: at the index it had, a changed target counted as a move; else at the lowest empty one; else, with all 128 held, in
place of the oldest, which is counted), and one carriage of it from this station, with hop count 0, joins the queue its classification
names; one for a device of this host, or for its own source, is discarded and counted. R169, R171: one for a group address or an unknown
device, also for the device whose entry the source has just taken, is replicated: one carriage for each HEARD, LINKED or REMOTE entry with a
route, in index order, each offered before the next and counted as queued or dropped; with no such entry it is discarded and counted. -/
def Obligations.HostFrameQueuedOrReplicated : Prop :=
  let displaced := fun (s : State) (src : Addr) (i : MapIx) =>
    src.isGroup = false ∧ s.findDevice src = none ∧ (∀ j : MapIx, s.addressMap[j] ≠ none) ∧ s.MapOldest i
  (∀ (s : State) (b : List Byte) (i : MapIx) (m : MapEntry), s.Live → s.Rested → s.startUp ≠ .loading → 64 ≤ b.length →
    b.length ≤ 1522 → fcsMatches b = true →
    let v := ethView b
    v.etherType ≠ 0x8808 → v.dst ≠ s.settings.station → v.dst.isGroup = false →
    s.findDevice v.dst = some i → s.addressMap[i] = some m → ¬displaced s v.src i →
    let q : QueueIx := match v.vlan with
      | some p => s.settings.vlan[p]
      | none => s.settings.defaultQueue
    let learnt := fun (t : State) =>
      (v.src.isGroup = true → t.addressMap = s.addressMap) ∧ (v.src.isGroup = false → s.Learnt t v.src .localHost)
    (∀ a, m.target = .station a → v.src ≠ v.dst → (s.queues[q]).length < (s.settings.queues[q]).depth →
      s.txCharge + (b.length + 16 + 63) / 64 * 64 ≤ 180224 →
      ∃ t u, exec (.hostFrameReceived b) s = .next t ∧ t = settle s.txCharge u ∧
        u.queues = s.queues.set q (s.queues[q] ++
          [{ id := s.nextFrameId, origin := s.settings.station, final := a, hop := 0, queue := q, eth := b,
             expiry := s.lineTime.plus ((s.settings.queues[q]).lifetimeMs * 1000) }]) ∧
        u.count .hostFramesReceived = satInc (s.count .hostFramesReceived) ∧
        u = { s with queues := u.queues, addressMap := u.addressMap, counters := u.counters,
                     nextFrameId := s.nextFrameId + 1, evalDue := true } ∧
        (v.src.isGroup = false → (u.findDevice v.src).bind (fun k => u.addressMap[k]) =
          some { device := v.src, target := .localHost, learned := s.lineTime }) ∧ learnt u) ∧
    (m.target = .localHost ∨ v.src = v.dst →
      ∃ t, exec (.hostFrameReceived b) s = .next t ∧ t = { s with addressMap := t.addressMap, counters := t.counters } ∧
        t.count .localDiscards = satInc (s.count .localDiscards) ∧ learnt t)) ∧
  (∀ (s : State) (b : List Byte), s.Live → s.Rested → s.startUp ≠ .loading → 64 ≤ b.length → b.length ≤ 1522 → fcsMatches b = true →
    let v := ethView b
    v.etherType ≠ 0x8808 → v.dst ≠ s.settings.station →
    (v.dst.isGroup = true ∨ (v.src ≠ v.dst ∧ (s.findDevice v.dst = none ∨
      ∃ i, displaced s v.src i ∧ ∀ j : MapIx, j ≠ i → (s.addressMap[j]).map (·.device) ≠ some v.dst))) →
    let q : QueueIx := match v.vlan with
      | some p => s.settings.vlan[p]
      | none => s.settings.defaultQueue
    ∃ t, exec (.hostFrameReceived b) s = .next (settle s.txCharge (replicate q b t)) ∧
      t.count .hostFramesReceived = satInc (s.count .hostFramesReceived) ∧
      (v.src.isGroup = true → t.addressMap = s.addressMap) ∧ (v.src.isGroup = false → s.Learnt t v.src .localHost) ∧
      t = { s with addressMap := t.addressMap, counters := t.counters }) ∧
  (∀ (s : State) (q : QueueIx) (b : List Byte),
    let receivers := (List.finRange 24).filterMap fun i =>
      (s.entry i).bind fun e => if e.state ≠ .stale ∧ e.route ≠ .noRoute then some e.addr else none
    (receivers = [] → replicate q b s = bump .noDestination s) ∧
    (receivers ≠ [] → replicate q b s = receivers.foldl (fun t a => offerCopy q b a t) (bump .replications s)) ∧
    (∀ (a : Addr) (t : State),
      let copy : HostFrame :=
        { id := 0, origin := s.settings.station, final := a, hop := 0, queue := q, eth := b, expiry := 0#32 }
      (admission copy s = (true, t) → offerCopy q b a s = bump .copiesQueued t) ∧
      (admission copy s = (false, t) → offerCopy q b a s = bump .copiesDropped t)))

/-- R187, R188: at the end of the host hold the hold is cleared and a free transmitter starts at once on the response, or else on the oldest
delivered frame; with a request still waiting for its service it waits for that response (the model's reading of R191: assumption log 17).
R189: while the pause state is ON, the refresh deadline makes a full pause pending and moves 10,000 µs on; a busy transmitter leaves it
pending, and a free one sends it at once, whatever hold the host has set. R189: the test that ends a command which changed the transmit
charge (`settle`, from the charge before it): OFF with a charge above 163,840 goes ON with a full pause and the refresh deadline 10,000 µs
on, ON with one below 131,072 goes OFF with a zero pause and no deadline, and otherwise, or with pause enable clear, nothing changes. That a
pause leaves the pending place when the transmitter takes it, where R188 has it leave its holder when it has been sent, is the model's
reading (assumption log 21, DEDUCED). R176: where an event of R176 has happened within the command (evalDue, the model's own flag:
assumption log 22), `settle` first evaluates the holds-candidate indicator (evaluate, case by case in PeriodBegins), the flag lowered, and
then does as above. -/
def Obligations.PortTimers : Prop :=
  (∀ s : State, s.Live → s.Rested → s.port.hold = some s.lineTime →
     let answer := fun (x : Option HostSending) => Host.Outcome.next (φ := Fault) (ρ := Refusal)
       { s with port := { s.port with hold := none, sending := x } }
     (s.port.sending ≠ none → exec .hostHoldEnd s = answer s.port.sending) ∧
     (s.port.sending = none → s.port.response ≠ none → exec .hostHoldEnd s = answer (some .response)) ∧
     (s.port.sending = none → s.port.response = none → s.port.delivery ≠ [] → s.port.requests = [] →
       exec .hostHoldEnd s = answer (some .delivered)) ∧
     (s.port.sending = none → s.port.response = none → s.port.requests ≠ [] → exec .hostHoldEnd s = answer none) ∧
     (s.port.sending = none → s.port.response = none → s.port.delivery = [] → exec .hostHoldEnd s = answer none)) ∧
  (∀ s : State, s.Live → s.Rested → s.port.pauseOn = true → s.port.refresh = some s.lineTime →
     let next := some (s.lineTime.plus 10000)
     (s.port.sending ≠ none →
       exec .pauseRefresh s = .next { s with port := { s.port with refresh := next, pausePending := some 0xFFFF#16 } }) ∧
     (s.port.sending = none →
       exec .pauseRefresh s = .next { s with port := { s.port with refresh := next, sending := some (.pause 0xFFFF#16) } })) ∧
  (∀ (s : State) (before : Nat), s.evalDue = true →
     settle before s = settle before { evaluate { s with evalDue := false } with evalDue := false }) ∧
  (∀ (s : State) (before : Nat), s.evalDue = false →
     let paused := fun (on : Bool) (refresh : Option LineTime) (q : BitVec 16) =>
       { s with port := { s.port with
           pauseOn := on, refresh := refresh
           pausePending := if s.port.sending = none then none else some q
           sending := if s.port.sending = none then some (.pause q) else s.port.sending } }
     let on := paused true (some (s.lineTime.plus 10000)) 0xFFFF#16
     let off := paused false none 0#16
     let unchanged := s.port.Rested → settle before s = s
     (s.settings.pauseEnable = false ∨ s.txCharge = before → unchanged) ∧
     (s.settings.pauseEnable = true → s.txCharge ≠ before →
       (s.port.pauseOn = false → (163840 < s.txCharge → settle before s = on) ∧ (s.txCharge ≤ 163840 → unchanged)) ∧
       (s.port.pauseOn = true → (s.txCharge < 131072 → settle before s = off) ∧ (131072 ≤ s.txCharge → unchanged))))

/-- R188: the end of a frame to the host. The frame leaves its holder and is counted by what it was, and the transmitter goes on to a
pending pause, or, with no host hold, to the response and then the delivered frames. With requests waiting and the response buffer empty it
waits for the response of the request next served at that instant, before it takes a delivered frame (the model's reading of R191:
assumption log 17). That a pause has left the pending place before its last byte, when the transmitter took it, is the model's reading too
(assumption log 21, DEDUCED). R196, R207, R208: the end of the response to a RESTART request performs a RESTART reset: LOADING begins with
the line time at 0, the counters go on but for the response just counted, the restart record says RESTART with one restart more, up to
65,535, and the port takes the mode of the strap (R209). That the command brings the strap's level is the model's choice (assumption log
33), and so is that the queue of commands and the count of free values, which are the model's own, stay through the reset (assumption log
37). R188, R189, R191, R210: the frame that the port presents to the host while it sends: a pause, the response in the buffer (its tag,
kind, status, content length and content), or the oldest delivered host frame as it is; the port's own frames go out from the station
address with the EtherType and check sequence of the manual, untagged and filled with zeros to 64 bytes (PRESUMED, assumption log 19). -/
def Obligations.HostTransmissionEnds : Prop :=
  (∀ (s : State) (strap : Bool) (x : HostSending), s.Live → s.Rested → s.port.sending = some x → s.restartSent = false →
     let left : Port := match x with
       | .pause _ => s.port
       | .response => { s.port with response := none }
       | .delivered => { s.port with delivery := s.port.delivery.tail }
     let counter : Counter := match x with
       | .pause _ => .pauseSent
       | .response => .responsesSent
       | .delivered => .framesSentToHost
     let answer := fun (p : Port) => Host.Outcome.next (φ := Fault) (ρ := Refusal) (bump counter { s with port := p })
     (∀ q, s.port.pausePending = some q →
       exec (.hostTxDone strap) s = answer { left with sending := some (.pause q), pausePending := none }) ∧
     (s.port.pausePending = none → s.port.hold ≠ none → exec (.hostTxDone strap) s = answer { left with sending := none }) ∧
     (s.port.pausePending = none → s.port.hold = none → left.response ≠ none →
       exec (.hostTxDone strap) s = answer { left with sending := some .response }) ∧
     (s.port.pausePending = none → s.port.hold = none → left.response = none → left.delivery ≠ [] → s.port.requests = [] →
       exec (.hostTxDone strap) s = answer { left with sending := some .delivered }) ∧
     (s.port.pausePending = none → s.port.hold = none → left.response = none → s.port.requests ≠ [] →
       exec (.hostTxDone strap) s = answer { left with sending := none }) ∧
     (s.port.pausePending = none → s.port.hold = none → left.response = none → left.delivery = [] →
       exec (.hostTxDone strap) s = answer { left with sending := none })) ∧
  (∀ (s : State) (strap : Bool) (r : Response), s.Live → s.port.sending = some .response → s.port.response = some r →
     r.restarts = true →
     let restarted := fun (n : Nat) => Host.Outcome.next (φ := Fault) (ρ := Refusal) { State.reset with
       counters := (bump .responsesSent s).counters
       restart := { s.restart with cause := .restart, restarts := n }
       port := Port.reset (if strap then .rgmii else .rmii)
       pending := s.pending
       draws := s.draws }
     (s.restart.restarts < 65535 → exec (.hostTxDone strap) s = restarted (s.restart.restarts + 1)) ∧
     (s.restart.restarts = 65535 → exec (.hostTxDone strap) s = restarted 65535)) ∧
  (∀ s : State,
     let frame := fun (b : List Byte) (dest : Addr) (type : Nat) (data : List Byte) =>
       Carries b 0 6 dest.toNat ∧ Carries b 6 6 s.settings.station.toNat ∧ Carries b 12 2 type ∧
         (b.drop 14).take data.length = data ∧ b.length = max 64 (18 + data.length) ∧
         (∀ k, 14 + data.length ≤ k → k + 4 < b.length → byteAt k b = 0#8) ∧ fcsMatches b = true
     (s.port.sending = none → s.hostOutput = none) ∧
     (∀ q, s.port.sending = some (.pause q) →
       ∃ b, s.hostOutput = some b ∧ frame b 0x0180C2000001#48 0x8808 ([0#8, 1#8] ++ beBytes 2 q.toNat)) ∧
     (∀ r, s.port.sending = some .response → s.port.response = some r →
       ∃ b data, s.hostOutput = some b ∧ frame b r.dest 0x88B5 data ∧
         Carries data 0 2 r.tag.toNat ∧ Carries data 2 1 r.kind.toNat ∧ Carries data 4 2 r.content.length ∧ data.drop 6 = r.content ∧
         (r.status = .ok → Carries data 3 1 0) ∧ (r.status = .unknown → Carries data 3 1 1) ∧
         (r.status = .noEntry → Carries data 3 1 2) ∧ (r.status = .noGrid → Carries data 3 1 3)) ∧
     (∀ d rest, s.port.sending = some .delivered → s.port.delivery = d :: rest → s.hostOutput = some d.eth))

/-- R191, R192, R202: the service of a STATUS request: its 53 bytes are formed from the part as it stands, the response goes out at once
where the transmitter is free and the host holds nothing, and each flag its clear set names is then cleared while the others keep their
state. ATTENTION_CLEAR is the service of one that names flags (assumption log 16). R191, R193, R208: the service of a COUNTERS request: the
response carries the 124 counters in 496 bytes as they stand, and with the clear choice yes every counter is then 0 and the counter clears
of the restart record go up by one. COUNTERS_CLEAR is the service of one with the choice yes (assumption log 16). R192, R210: the 53 bytes
of a STATUS response, field by field: the line time, the start-up state, the tracker's state, trust and H, the thermal guard, the FREE
slots, the 18 want counts and the placed SOUND, the charges, the queues, the control list, the indicator, the pause and hold, the request
list, the restart record and the six flags. R193: the 124 counters, four bytes each, in index order. R203: ATTN is asserted exactly while
one of the six flags is set, after LOADING and with no reset holding the part; that a flag raised in LOADING shows on it from the end of
LOADING is the model's reading (DEDUCED, assumption log 14). -/
def Obligations.StatusAndCountersServed : Prop :=
  (∀ (s : State) (r : Request) (rest : List Request) (clear : BitVec 8) (c : Instr), s.Live → s.Rested →
     s.port.requests = r :: rest → r.body = .status clear → s.port.response = none → s.port.pausePending = none →
     (c = .status ∨ (c = .attentionClear ∧ clear &&& 0x3F#8 ≠ 0#8)) →
     let waiting := { s with port := { s.port with requests := rest } }
     let answer : Response :=
       { dest := r.source, tag := r.tag, kind := r.kind, status := .ok, content := statusContent waiting, restarts := false }
     exec c s = .next { s with
       port := { s.port with requests := rest, response := some answer,
                             sending := if s.port.sending = none ∧ s.port.hold = none then some .response else s.port.sending }
       attention :=
         { configDefault := s.attention.configDefault && !clear.getLsbD 0
           trackerUntrusted := s.attention.trackerUntrusted && !clear.getLsbD 1
           poolExhausted := s.attention.poolExhausted && !clear.getLsbD 2
           thermalLimited := s.attention.thermalLimited && !clear.getLsbD 3
           tableFull := s.attention.tableFull && !clear.getLsbD 4
           relayDrop := s.attention.relayDrop && !clear.getLsbD 5 } } ∧
     (statusContent waiting).length = 53) ∧
  (∀ (s : State) (r : Request) (rest : List Request) (clear : Bool) (c : Instr), s.Live → s.Rested →
     s.port.requests = r :: rest → r.body = .counters clear → s.port.response = none → s.port.pausePending = none →
     (c = .counters ∨ (c = .countersClear ∧ clear = true)) →
     let answer : Response :=
       { dest := r.source, tag := r.tag, kind := r.kind, status := .ok, content := countersContent s, restarts := false }
     let served := { s with
       port := { s.port with requests := rest, response := some answer,
                             sending := if s.port.sending = none ∧ s.port.hold = none then some .response else s.port.sending } }
     (countersContent s).length = 496 ∧
     (clear = false → exec c s = .next served) ∧
     (clear = true → s.restart.counterClears < 65535 →
       exec c s = .next { served with
         counters := Vector.replicate 124 0#32
         restart := { s.restart with counterClears := s.restart.counterClears + 1 } })) ∧
  (∀ s : State,
     let is := Carries (statusContent s)
     let bit := fun (b : Bool) (n : Nat) => if b then n else 0
     is 0 4 s.lineTime.toNat ∧ (s.startUp = .listening → is 4 1 1) ∧ (s.startUp = .running → is 4 1 2) ∧
     (let state := match s.tracker.state with
        | .seeking => 0
        | .locked => 1
        | .holdover => 2
        | .freeRun => 3
      is 5 1 (state + bit s.trusted 4)) ∧
     is 6 2 (s.tracker.h.getD 0) ∧ is 8 1 (bit s.thermal.limited 1) ∧ is 9 1 s.thermal.holdCount ∧
     is 10 1 ((List.finRange 48).countP fun k => s.pool[k].isNone) ∧
     (∀ (p : Pair) (m : MainsSlot), is (11 + 6 * p.val + m.val) 1 s.estimator.wants[p][m]) ∧
     (s.estimator.placed = none → is 29 1 3) ∧ (∀ x, s.estimator.placed = some x → is 29 1 x.pair.val) ∧
     is 30 4 s.txCharge ∧ is 34 2 s.rxCharge ∧ (∀ q : QueueIx, is (36 + q.val) 1 (s.queues[q]).length) ∧
     is 42 1 s.control.length ∧ is 43 1 (s.control.countP fun c => c != .note && !c.isSound) ∧ is 44 1 (bit s.holdsCandidate 1) ∧
     is 45 1 (bit s.port.pauseOn 1 + bit s.port.hold.isSome 2) ∧ is 46 1 s.port.requests.length ∧
     (s.restart.cause = .power → is 47 1 0) ∧ (s.restart.cause = .pin → is 47 1 1) ∧ (s.restart.cause = .restart → is 47 1 2) ∧
     is 48 2 s.restart.restarts ∧ is 50 2 s.restart.counterClears ∧
     is 52 1 (bit s.attention.configDefault 1 + bit s.attention.trackerUntrusted 2 + bit s.attention.poolExhausted 4 +
       bit s.attention.thermalLimited 8 + bit s.attention.tableFull 16 + bit s.attention.relayDrop 32)) ∧
  (∀ (s : State) (k : Fin 124), Carries (countersContent s) (4 * k.val) 4 (s.counters[k]).toNat) ∧
  (∀ s : State,
     let a := s.attention
     s.attn = true ↔ s.held = none ∧ s.startUp ≠ .loading ∧
       (a.configDefault = true ∨ a.trackerUntrusted = true ∨ a.poolExhausted = true ∨ a.thermalLimited = true ∨ a.tableFull = true ∨
         a.relayDrop = true))

/-- R190, R191, R194 to R197: the service of every other request: the request leaves the list, the response with its tag and kind is placed
in the buffer and goes out at once where the transmitter is free and the host holds nothing. RESTART carries no content and restarts the
part when it has been sent; a request that is not well formed is answered UNKNOWN and counted; a window read is answered NO-ENTRY for an
index that is empty or past 23, NO-GRID for a role that the entry does not hold, and otherwise with the cells of its source. R195, R205,
R210: CONFIG READ carries the configuration in 79 bytes, field by field (Settings.Reported). R194: the indexes of a range are carried whole,
in order from the first, up to the last with which the content stays within 1,400 bytes, the first always; a range empty after clipping is
answered with no entries and the done flag. R143, R185, R194, R210: an empty index takes two bytes; a station takes 113 + 3b + 9r bytes
(State.EntryReported) and a map entry 17 (State.MapReported), field by field; so a response over the map, and one over a table of stations
with at most 8 bands and 23 reach items, carries at most 1,400 bytes. R197 to R200: a window read reports the window clipped, its walk order,
N, the part from the resume position, the held flags and each cell in walk order (WindowRequest.Reported), with the grid's tag, pair, k, map,
issue time and rate, or the counts and last times of the cells. That the four services that read the table or the map take one of the free
values of absent fields (the count of draws goes up), and that such fields are free, is the model's choice (assumption logs 18 and 37). -/
def Obligations.RequestsServed : Prop :=
  (∀ (s : State) (r : Request) (rest : List Request), s.Live → s.Rested → s.port.requests = r :: rest →
     s.port.response = none → s.port.pausePending = none →
     let waiting := { s with port := { s.port with requests := rest } }
     let served := fun (a : Response) => { s with
       port := { s.port with requests := rest, response := some a,
                             sending := if s.port.sending = none ∧ s.port.hold = none then some .response else s.port.sending } }
     let plain := fun (st : ResponseStatus) (content : List Byte) =>
       { dest := r.source, tag := r.tag, kind := r.kind, status := st, content := content, restarts := false : Response }
     (r.body = .configRead → exec .configRead s = .next (served (plain .ok (configContent s.settings)))) ∧
     (r.body = .restart → exec .restart s = .next (served { plain .ok [] with restarts := true })) ∧
     (r.body = .malformed → exec .unknownRequest s = .next (bump .unknownRequests (served (plain .unknown [])))) ∧
     (∀ a b, r.body = .stationTable a b → exec .stationTable s = .next { served (plain .ok
       (rangeContent waiting 24 (fun k => stationReport waiting (Fin.ofNat 24 k)) a b)) with draws := s.draws + 1 }) ∧
     (∀ a b, r.body = .addressMap a b → exec .addressMap s = .next { served (plain .ok
       (rangeContent waiting 128 (fun k => mapReport waiting (Fin.ofNat 128 k)) a b)) with draws := s.draws + 1 }) ∧
     (∀ w, r.body = .windowRead w → s.entry (Fin.ofNat 24 w.index) = none ∨ 24 ≤ w.index →
       exec .windowRead s = .next { served (plain .noEntry []) with draws := s.draws + 1 }) ∧
     (∀ w e g role, r.body = .windowRead w → w.index < 24 → s.entry (Fin.ofNat 24 w.index) = some e → w.source = .grid role →
       s.roleGrid (Fin.ofNat 24 w.index) role = some g →
       exec .windowRead s = .next { served (plain .ok (windowContent w (gridView role g))) with draws := s.draws + 1 }) ∧
     (∀ w e role, r.body = .windowRead w → w.index < 24 → s.entry (Fin.ofNat 24 w.index) = some e → w.source = .grid role →
       s.roleGrid (Fin.ofNat 24 w.index) role = none →
       exec .windowRead s = .next { served (plain .noGrid []) with draws := s.draws + 1 }) ∧
     (∀ w e p, r.body = .windowRead w → w.index < 24 → s.entry (Fin.ofNat 24 w.index) = some e → w.source = .snr p →
       exec .windowRead s =
         .next { served (plain .ok (windowContent w (snrView waiting e.snr[p]))) with draws := s.draws + 1 })) ∧
  (∀ c : Settings, c.bands.length ≤ 8 → (configContent c).length = 79 ∧ c.Reported (configContent c)) ∧
  (∀ (s : State) (size : Nat) (report : Nat → List Byte) (first last : Nat), 1 ≤ size → size ≤ 128 →
     (∀ k, 1 ≤ (report k).length) →
     let top := min last (size - 1)
     let reports := fun (n : Nat) => (List.range n).flatMap fun k => report (first + k)
     (first ≤ top → ∃ n, 1 ≤ n ∧ first + n ≤ top + 1 ∧
       rangeContent s size report first last =
         [BitVec.ofNat 8 first, BitVec.ofNat 8 n, BitVec.ofNat 8 (first + n), if first + n = top + 1 then 1#8 else 0#8] ++ reports n ∧
       (n = 1 ∨ 4 + (reports n).length ≤ 1400) ∧ (first + n ≤ top → 1400 < 4 + (reports (n + 1)).length)) ∧
     (top < first → ∃ x y, rangeContent s size report first last = [x, 0#8, y, 1#8])) ∧
  (∀ (s : State) (size : Nat) (report : Nat → List Byte) (first last : Nat),
     (∀ k, (report k).length ≤ 1396) → (rangeContent s size report first last).length ≤ 1400) ∧
  (∀ (s : State) (i : EntryIx),
     (s.entry i = none → stationReport s i = [BitVec.ofNat 8 i.val, 0#8]) ∧
     (∀ e, s.entry i = some e → s.EntryReported i e (stationReport s i))) ∧
  (∀ (s : State) (i : MapIx),
     (s.addressMap[i] = none → mapReport s i = [BitVec.ofNat 8 i.val, 0#8]) ∧
     (∀ m, s.addressMap[i] = some m → s.MapReported i m (mapReport s i))) ∧
  (∀ (s : State) (first last : Nat),
     ((∀ i e, s.entry i = some e → (e.peerBands.getD []).length ≤ 8 ∧ (e.reach.getD []).length ≤ 23) →
       (rangeContent s 24 (fun k => stationReport s (Fin.ofNat 24 k)) first last).length ≤ 1400) ∧
     (rangeContent s 128 (fun k => mapReport s (Fin.ofNat 128 k)) first last).length ≤ 1400) ∧
  (∀ (w : WindowRequest) (role : Role) (g : Grid),
     let report := windowContent w (gridView role g)
     w.Reported g.levelsAt report ∧ Carries report 20 1 g.tag.toNat ∧ Carries report 21 1 (g.pair.val + 4 * g.columns.length) ∧
     Carries report 22 2 (g.map[0].val + 4 * g.map[1].val + 16 * g.map[2].val + 64 * g.map[3].val + 256 * g.map[4].val +
       1024 * g.map[5].val) ∧
     Carries report 24 4 g.issueTime.toNat ∧ Carries report 28 3 (if role = .txAssembling then 0 else g.rate) ∧
     Carries report 31 19 0) ∧
  ∀ (w : WindowRequest) (s : State) (cells : Vector Cell 6),
     let report := windowContent w (snrView s cells)
     w.Reported (fun m => cells[m].carried) report ∧
     ∀ m : MainsSlot, Carries report (20 + m.val) 1 cells[m].count ∧
       (cells[m].count ≠ 0 → Carries report (26 + 4 * m.val) 4 cells[m].last.toNat)

/-! ### Configuration and start-up (chapter 11) -/

/-- R201, R207: power-on and the assertion of the RESET input hold every block in its reset state with every counter 0 and the line time 0.
What the model keeps of its own, the queue of commands and the count of free values, stays (DESIGN CHOICE, assumption log 37). R206 to R209: a reset's end starts LOADING with
the line time at 0, the port in the mode of the strap sampled then, and the restart record of its kind: after POWER the two counts are 0,
after PIN the restart count is one more, up to 65,535. -/
def Obligations.ResetsHoldAndEnd : Prop :=
  (∀ s : State, s.held = none →
     let held := fun (k : ResetKind) => Host.Outcome.next (φ := Fault) (ρ := Refusal)
       { State.reset with held := some k, port := Port.reset s.port.mode, restart := s.restart, pending := s.pending,
                          draws := s.draws }
     exec .powerReset s = held .power ∧ exec .pinReset s = held .pin) ∧
  (∀ (s : State) (strap : Bool),
     let ended := fun (r : RestartRecord) => Host.Outcome.next (φ := Fault) (ρ := Refusal)
       { State.reset with counters := s.counters, restart := r, port := Port.reset (if strap then .rgmii else .rmii),
                          pending := s.pending, draws := s.draws }
     (s.held = some .power →
       exec (.resetEnd strap) s = ended { cause := .power, restarts := 0, counterClears := 0 }) ∧
     (s.held = some .pin → s.restart.restarts < 65535 →
       exec (.resetEnd strap) s = ended { s.restart with cause := .pin, restarts := s.restart.restarts + 1 }) ∧
     (s.held = some .pin → s.restart.restarts = 65535 → exec (.resetEnd strap) s = ended { s.restart with cause := .pin }))

/-- R204, R206: load completion takes the configuration, enters LISTENING with the sound and note deadlines at that instant and the
listening deadline 2,000,000 µs on, raises the config-default flag when the image is not valid, and goes straight on to RUNNING when the
tracker is LOCKED. R53, R206: at the listening deadline the start-up state becomes RUNNING. At either entry to RUNNING an IDLE station
begins a contention period at that instant (beginPeriod, case by case in PeriodBegins), which stays IDLE with nothing to send, and one that
is not IDLE goes on as it was. R204, R205, R210: the image of a serial memory (of the 100 bytes that are read) is valid by its sum, magic,
length and version; a valid one gives every field its stored value or the replacement of R205's table, with the count of the fields replaced
(Settings.TakenFrom; a band count above 8 counted as one, the model's reading: assumption log 26), and one that is not valid gives every
field its default (Settings.Defaulted); the station address is the image's, the factory block's or the fallback (FactoryTaken). That a
contention period that stays IDLE clears the candidate is the model's reading of R37 (DEDUCED, assumption log 27). -/
def Obligations.StartUpSequence : Prop :=
  (∀ (s : State) (memory : List Byte), s.Live → s.Rested → s.startUp = .loading →
     let c := loadSettings memory
     (s.tracker.state ≠ .locked →
       exec (.loadCompletion memory) s = .next { s with
         settings := c, startUp := .listening, listening := some (s.lineTime.plus 2000000)
         estimator := { s.estimator with deadline := some s.lineTime }
         note := { s.note with deadline := some s.lineTime }
         attention := { s.attention with configDefault := s.attention.configDefault || !imageValid memory } }) ∧
     (s.tracker.state = .locked →
       let entered := { s with
         settings := c, startUp := .running, listening := some (s.lineTime.plus 2000000)
         estimator := { s.estimator with deadline := some s.lineTime }
         note := { s.note with deadline := some s.lineTime }
         attention := { s.attention with configDefault := s.attention.configDefault || !imageValid memory } }
       (s.mac.state ≠ .idle → exec (.loadCompletion memory) s = .next entered) ∧
       (s.mac.state = .idle → exec (.loadCompletion memory) s = .next (settle s.txCharge (beginPeriod entered))) ∧
       ∃ t, exec (.loadCompletion memory) s = .next t ∧
         (s.mac.state = .idle → t.mac.periodStart = s.lineTime) ∧ t = entered.endedAs t)) ∧
  (∀ s : State, s.Live → s.Rested → s.startUp = .listening → s.listening = some s.lineTime →
     (s.mac.state ≠ .idle → exec .listeningDeadline s = .next { s with startUp := .running }) ∧
     (s.mac.state = .idle →
       exec .listeningDeadline s = .next (settle s.txCharge (beginPeriod { s with startUp := .running }))) ∧
     (s.mac.state = .idle → s.mac.thermalWait = false → s.control = [] → (∀ q : QueueIx, s.queues[q] = []) →
       (∀ (i : EntryIx) (e : Entry), s.entry i = some e → e.tx.unacked = []) →
       exec .listeningDeadline s = .next { s with
         startUp := .running, holdsCandidate := false
         mac := { s.mac with periodStart := s.lineTime, gap := none, candidate := none, toneHeard := false } })) ∧
  (∀ m : List Byte, 100 ≤ m.length →
     (imageValid m = true ↔
       ((List.range 42).map fun k => (byteAt (16 + 2 * k) m).toNat * 256 + (byteAt (17 + 2 * k) m).toNat).sum % 65536 = 0xFFFF ∧
         byteAt 16 m = 0x5A#8 ∧ byteAt 17 m = 0x3C#8 ∧ byteAt 18 m = 0#8 ∧ byteAt 19 m = 84#8 ∧ byteAt 20 m = 1#8) ∧
     (imageValid m = true → (loadSettings m).TakenFrom m) ∧ (imageValid m = false → (loadSettings m).Defaulted m))

/-! ### Encodings (R24, R28, R31, R34, R210) -/

/-- R24, R210: the 22 bytes of a header that a station may send are followed by its check over them, it passes the header check, and the
reader gives every field of it back; a SOUND's is read on the copy of its own pair, and on that of another pair it fails (R24, R36). Its 24
bytes are followed by 72 bytes of zero fill, 96 in the four header symbols. R20: in a robust symbol, carriers g, g + 192, g + 384 and
g + 576 carry the same 2 coded bits, those of group g (that the groups take their bits in ascending order is the model's choice, log 38),
384 in all. A group whose four carriers are all erased yields nothing, and erased carriers take no part in combining. In a robust symbol
received, coded bits 2g and 2g + 1 are those of the copies of group g, each with the preamble energy of its carrier on the pair; in a symbol
received with a column each carrier gives as many as its level, erased ones for the whole frame where its preamble energy stays below the
threshold; and the header and the payload are what the decoder makes of them (its outcome and the threshold are free values, log 38).
R19: coded bits are placed carrier by carrier in ascending order, each carrier taking as many as its level. R21: the preamble lasts 64 µs,
the header symbols begin at 64, 96, 128 and 160 and payload symbol i at 192 + 32i; the header symbols carry the header in the robust map.
R19, R36, R72: in every part of every frame the carriers that the own band list caps at 0 are silent, and every other carrier carries what
the frame gives it, a SOUND's payload the known content; the frame is on the pair its header names (R22). -/
def Obligations.HeaderAndLineSignal : Prop :=
  (∀ (h : Header) (copyPair : Pair), h.Lawful → (h.kind = .sound → h.pair = copyPair) →
    (headerBytes h).length = 24 ∧ headerCheck (headerBytes h) = true ∧ readHeader copyPair (headerBytes h) = some h ∧
      headerWire h = headerBytes h ++ List.replicate 72 0#8) ∧
  (∀ (h : Header) (copyPair : Pair), h.kind = .sound → h.pair ≠ copyPair → readHeader copyPair (headerBytes h) = none) ∧
  (∀ (coded : List Bool) (g j : Nat), g < 192 → j < 4 → (robustSymbol coded).length = 768 ∧
    (robustSymbol coded)[g + 192 * j]? = some (.bits ((coded.drop (2 * g)).take 2))) ∧
  (∀ copies : List CarrierCopy,
    ((∀ c ∈ copies, c.energy < Config.silenceThreshold) → combineGroup copies = none) ∧
    (∀ c, c ∈ copies → Config.silenceThreshold ≤ c.energy →
      let live := copies.filter fun x => decide (Config.silenceThreshold ≤ x.energy)
      combineGroup copies = some ((live.map fun x => (x.energy : Int) * x.soft.1).sum,
        (live.map fun x => (x.energy : Int) * x.soft.2).sum))) ∧
  (∀ (x : Column) (coded : List Bool) (k : Nat) (l : Level), x[k]? = some l →
    (placeBits x coded)[k]? = some (if l.bits = 0 then .silent else .bits ((coded.drop (columnSum (x.take k))).take l.bits))) ∧
  (∀ (s : State) (f : TxFrame), s.line.sending = some f →
    let d := f.start.dist s.lineTime
    let sent := fun part => s.lineOutput = some (f.header.pair,
      (f.part part).zipIdx.map fun x => if capOf s.settings.bands x.2 = 0 then CarrierSignal.silent else x.1)
    (d < 64 → sent .preamble) ∧
    (∀ i, i < 4 → 64 + 32 * i ≤ d → d < 96 + 32 * i → sent (.header i) ∧
      f.part (.header i) = robustSymbol (codedRun .half (headerWire f.header) (384 * i) 384)) ∧
    (∀ i, i < f.header.payloadSymbols → 192 + 32 * i ≤ d → d < 224 + 32 * i → sent (.payload i) ∧
      (f.loading = .robust → f.part (.payload i) = robustSymbol (codedRun .half f.payload (384 * i) 384)) ∧
      (f.loading = .sounding → f.part (.payload i) = List.replicate 768 .known)) ∧
    (192 + 32 * f.header.payloadSymbols ≤ d → s.lineOutput = none)) ∧
  (∀ s : State, s.line.sending = none → s.lineOutput = none) ∧
  (∀ (r : Reception) (p : Pair) (symbol : List (List Int)),
    let energy := fun (k : Nat) => (r.energies.getD p.val []).getD k 0
    let soft := fun (k i : Nat) => (symbol.getD k []).getD i 0
    (r.robustBits p symbol).length = 384 ∧
    (∀ g, g < 192 →
      let group := combineGroup ((List.range 4).map fun j =>
        { energy := energy (g + 192 * j), soft := (soft (g + 192 * j) 0, soft (g + 192 * j) 1) })
      (r.robustBits p symbol)[2 * g]? = some (group.map fun x => x.1) ∧
        (r.robustBits p symbol)[2 * g + 1]? = some (group.map fun x => x.2)) ∧
    (∀ (x : Column) (k : Nat) (l : Level) (i : Nat), x[k]? = some l → i < l.bits →
      (r.columnBits p x symbol)[columnSum (x.take k) + i]? =
        some (if energy k < Config.silenceThreshold then none else some (soft k i)))) ∧
  ∀ (r : Reception) (p : Pair) (symbols : List (List (List Int))),
    r.headerBytes p (.soft symbols) = (Config.decoded .half (symbols.flatMap (r.robustBits p))).take 24 ∧
    (∀ h res, r.header = .used h .processed res → h.kind = .grid ∨ h.kind = .resp ∨ h.kind = .note ∨ (h.kind = .data ∧ res = .robust) →
      (∀ l, res ≠ .latched l) →
      r.payloadBytes (.soft symbols) = Config.decoded .half (symbols.flatMap (r.robustBits h.pair))) ∧
    (∀ h l, r.header = .used h .processed (.latched l) → h.kind = .data → h.floor = true →
      r.payloadBytes (.soft symbols) = Config.decoded .threeQuarters (symbols.flatMap (r.columnBits h.pair l.grid.floorColumn))) ∧
    (∀ h l, r.header = .used h .processed (.latched l) → h.kind = .data → h.floor = false → r.columns.length = symbols.length →
      r.payloadBytes (.soft symbols) = Config.decoded .threeQuarters ((symbols.zip r.columns).flatMap fun x =>
        r.columnBits h.pair ((l.grid.columns.getD x.2.val none).getD []) x.1))

/-- R28: the walk over a DATA payload gives back, in order and intact, every segment of 1 to 480 bytes that was written, whatever follows
the last of them. R161: what feeding a segment does, by the reassembly state and the segment's flags. R29, R160 to R162: the pieces of a
host frame, received in order from the expected sequence with room for all of them and nothing stored or joined, are each answered good;
the whole frame with its record goes to carriage inspection with the charges of its pieces, and the sequence expected next is the one after
its last piece. -/
def Obligations.SegmentsWalkedAndJoined : Prop :=
  (∀ (xs : List (Seq × Bool × Bool × List Byte)) (rest : List Byte),
    (∀ x ∈ xs, 1 ≤ x.2.2.2.length ∧ x.2.2.2.length ≤ 480) →
    walkSegments xs.length ((xs.map fun x => segmentBytes x.1 x.2.1 x.2.2.1 x.2.2.2).flatten ++ rest) =
      xs.map fun x => .intact x.1 x.2.1 x.2.2.1 x.2.2.2) ∧
  (∀ (r : RxState) (x : StoredSegment), x.payload.length ≤ 480 →
    let charge := (x.payload.length + 63) / 64 * 64
    let opened : JoinedPieces := { bytes := x.payload, charge := charge }
    let fed := fun (assembling : Bool) (joined complete : Option JoinedPieces) (count : Option Counter) =>
      ({ rx := { r with assembling := assembling, joined := joined }, complete := complete, count := count } : Feeding)
    (r.assembling = false → x.first = false →
      r.feed x = { rx := r, complete := none, count := some .huntingDiscards }) ∧
    (r.assembling = true → r.joined = none → x.first = false → r.feed x = fed false none none (some .outOfStep)) ∧
    (x.first = true →
      let broken := if r.assembling = true ∧ r.joined ≠ none then some Counter.outOfStep else none
      (x.last = false → r.feed x = fed true (some opened) none broken) ∧
      (x.last = true → r.feed x = fed true none (some opened) broken)) ∧
    (∀ j, r.assembling = true → r.joined = some j → x.first = false →
      let longer : JoinedPieces := { bytes := j.bytes ++ x.payload, charge := j.charge + charge }
      (1538 < longer.bytes.length → r.feed x = fed false none none (some .outOfStep)) ∧
      (longer.bytes.length ≤ 1538 → x.last = false → r.feed x = fed true (some longer) none none) ∧
      (longer.bytes.length ≤ 1538 → x.last = true → r.feed x = fed true none (some longer) none))) ∧
  (∀ (s : State) (i : EntryIx) (e : Entry) (f : HostFrame) (q : Seq), s.entry i = some e → e.rx.expected = some q →
    e.rx.reorder = [] → e.rx.joined = none → f.eth.length ≤ 1522 →
    let n := (f.eth.length + 16 + 479) / 480
    let charge := ((List.range n).map fun k => ((f.piece k).length + 63) / 64 * 64).sum
    s.rxCharge + charge ≤ 16384 →
    judgeAll i ((List.range n).map fun k =>
        .intact (q + BitVec.ofNat 12 k) (k == 0) (k + 1 == n) (f.piece k)) s =
      (List.replicate n true,
        inspect { bytes := f.bytes, charge := charge } (bump .framesReassembled { s with table := s.table.set i (some { e with
          rx := { e.rx with expected := some (q + BitVec.ofNat 12 n), assembling := true, joined := none } }) })))

/-- R31, R34, R35, R210: a RESP body, a GRID part and a NOTE, each as its sender may form it, are 48, 300 and 8 + 3 bands + 11 items bytes
long and are read back whole, with every verdict, band, map entry, level, reach rate and sound request, a NOTE whatever follows it in its
payload symbols. R21: the payload of a robust frame is followed by zero fill to the end of its last symbol of 24 bytes. -/
def Obligations.ControlPayloadsRoundTrip : Prop :=
  (∀ r : RespBody, r.Lawful → (respBytes r).length = 48 ∧ readResp (respBytes r) = some (r, r.entries.length)) ∧
  (∀ p : GridPart, p.Lawful → (gridPartBytes p).length = 300 ∧ readGridPart (gridPartBytes p) = some p) ∧
  (∀ (p : NotePayload) (n : Nat) (rest : List Byte), p.Lawful → 8 + 3 * p.bands.length + 11 * p.items.length ≤ 24 * n →
    (noteBytes p).length = 8 + 3 * p.bands.length + 11 * p.items.length ∧ readNote n (noteBytes p ++ rest) = some p) ∧
  ∀ (n : Nat) (b : List Byte), Loading.robust.fill n b = b ++ List.replicate (24 * n - b.length) 0#8
end

