-- ==== Sys2Proof/Laws/Image.lean ====
section
/-! SUPPORT. The configuration values: each reading of the image lands in the range that R205 gives it, and what is counted as clamped; the
sum of R204, and the slices and fields of a byte list. -/

namespace Sys2Proof.Machine

theorem clampBand_lawful (b c : Band) (h : (clampBand b).1 = some c) : c.Lawful := by
  unfold clampBand at h
  split at h
  · cases h
  · dsimp only at h
    cases h
    unfold Band.Lawful
    dsimp only
    refine ⟨by omega, ?_, ?_, ?_⟩ <;> repeat' split
    all_goals omega

theorem clampBands_lawful : ∀ (l : List Band), ∀ b ∈ (clampBands l).1, b.Lawful
  | [], b, h => by cases h
  | x :: rest, b, h => by
    unfold clampBands at h
    dsimp only at h
    rcases List.mem_append.1 h with h | h
    · exact clampBand_lawful x b (by simpa using h)
    · exact clampBands_lawful rest b h

theorem clampBands_length : ∀ (l : List Band), (clampBands l).1.length ≤ l.length
  | [] => Nat.le_refl _
  | x :: rest => by
    unfold clampBands
    dsimp only
    have := clampBands_length rest
    cases (clampBand x).1 <;> simp <;> omega

theorem nearer_range {lo hi : Nat} (h : lo ≤ hi) (x : Nat) : lo ≤ (nearer lo hi x).1 ∧ (nearer lo hi x).1 ≤ hi := by
  unfold nearer
  split
  · exact ⟨Nat.le_refl _, h⟩
  · split
    · exact ⟨h, Nat.le_refl _⟩
    · dsimp only; omega

theorem orElse_le {hi d : Nat} (h : d ≤ hi) (x : Nat) : (orElse hi d x).1 ≤ hi := by
  unfold orElse; split <;> dsimp only <;> omega

theorem dutyOf_range (x : Nat) : 10 ≤ (dutyOf x).1 ∧ (dutyOf x).1 ≤ 90 ∧ (dutyOf x).1 % 10 = 0 := by
  have := nearer_range (lo := 10) (hi := 90) (by decide) x
  unfold dutyOf; dsimp only; omega

theorem imageSettings_lawful (m : List Byte) : (imageSettings m).Lawful := by
  refine ⟨orElse_le (by decide) _, ?_, clampBands_lawful _, ?_, ?_, nearer_range (by decide) _, nearer_range (by decide) _,
    nearer_range (by decide) _, dutyOf_range _, nearer_range (by decide) _, nearer_range (by decide) _,
    nearer_range (by decide) _, nearer_range (by decide) _⟩
  · refine Nat.le_trans (clampBands_length _) ?_
    unfold bandsAt
    simp only [List.length_map, List.length_range]
    exact orElse_le (by decide) _
  · have key : ∀ b0 b1 b2 : Bool, ∃ p : Pair,
        (if (#v[b0, b1, b2] : Vector Bool 3) == Vector.replicate 3 false then #v[true, false, false]
          else (#v[b0, b1, b2] : Vector Bool 3))[p] = true := by decide
    exact key _ _ _
  · intro q
    have e : (imageSettings m).queues[q] = (queueSettingsAt q.val m).1 := by
      unfold imageSettings
      dsimp only
      rw [Fin.getElem_fin, Vector.getElem_map, Vector.getElem_ofFn]
    rw [e]
    have h1 := nearer_range (lo := 4) (hi := 64) (by decide) (byteAt (61 + 4 * q.val) m).toNat
    have h2 := nearer_range (lo := 10) (hi := 2000) (by decide) (fieldAt (62 + 4 * q.val) 2 m)
    exact ⟨h1.1, h1.2, h2.1, h2.2⟩

theorem default_lawful : Settings.default.Lawful := by
  refine ⟨by decide, by decide, by decide, by decide, by decide, by decide, by decide, by decide, by decide, by decide, by decide,
    by decide, by decide⟩

theorem loadSettings_lawful (m : List Byte) : (loadSettings m).Lawful := by
  unfold loadSettings
  split
  · exact imageSettings_lawful m
  · exact default_lawful

/-- R204: the sum of a region as one of its words. -/
theorem wordSum_eq (n : Nat) : ∀ l : List Byte, l.length = 2 * n →
    wordSum l = (((List.range n).map fun k => (byteAt (2 * k) l).toNat * 256 + (byteAt (2 * k + 1) l).toNat).sum) % 65536 := by
  induction n with
  | zero => intro l h; have : l = [] := List.length_eq_zero_iff.1 h; subst this; rfl
  | succ n ih =>
    intro l h
    match l, h with
    | a :: b :: rest, h =>
      have hr : rest.length = 2 * n := by simp at h; omega
      unfold wordSum; rw [ih rest hr, List.range_succ_eq_map, List.map_cons, List.map_map, List.sum_cons]
      have hx : ((fun k => (byteAt (2 * k) (a :: b :: rest)).toNat * 256 + (byteAt (2 * k + 1) (a :: b :: rest)).toNat) ∘ Nat.succ) =
          fun k => (byteAt (2 * k) rest).toNat * 256 + (byteAt (2 * k + 1) rest).toNat := by
        funext k; show (byteAt (2 * (k + 1)) (a :: b :: rest)).toNat * 256 + (byteAt (2 * (k + 1) + 1) (a :: b :: rest)).toNat = _; rfl
      rw [hx]
      have h0 : (byteAt (2 * 0) (a :: b :: rest)) = a := rfl
      have h1 : (byteAt (2 * 0 + 1) (a :: b :: rest)) = b := rfl
      rw [h0, h1]; omega

/-- A byte of a region. -/
theorem byteAt_slice (s n i : Nat) (m : List Byte) (h : i < n) : byteAt i (slice s n m) = byteAt (s + i) m := by
  unfold byteAt slice; simp [List.getD, h, List.getElem?_drop]

/-- R210: a field of two bytes. -/
theorem fieldAt_two (i : Nat) (m : List Byte) : fieldAt i 2 m = (byteAt i m).toNat * 256 + (byteAt (i + 1) m).toNat := by
  unfold fieldAt; simp [show List.range 2 = [0, 1] from rfl]

/-- R210: a field of three bytes. -/
theorem fieldAt_three (i : Nat) (m : List Byte) : fieldAt i 3 m = (byteAt i m).toNat * 65536 + (byteAt (i + 1) m).toNat * 256 + (byteAt (i + 2) m).toNat := by
  unfold fieldAt; simp [show List.range 3 = [0, 1, 2] from rfl]; omega

/-- R204: when a region passes, by its words. -/
theorem sumPasses_slice (s n : Nat) (m : List Byte) (h : s + 2 * n ≤ m.length) : sumPasses (slice s (2 * n) m) = true ↔
    ((List.range n).map fun k => (byteAt (s + 2 * k) m).toNat * 256 + (byteAt (s + 1 + 2 * k) m).toNat).sum % 65536 = 0xFFFF := by
  unfold sumPasses
  rw [wordSum_eq n _ (by unfold slice; simp; omega)]
  rw [beq_iff_eq]
  have : ((List.range n).map fun k => (byteAt (2 * k) (slice s (2 * n) m)).toNat * 256 + (byteAt (2 * k + 1) (slice s (2 * n) m)).toNat) =
      (List.range n).map fun k => (byteAt (s + 2 * k) m).toNat * 256 + (byteAt (s + 1 + 2 * k) m).toNat := by
    apply List.map_congr_left; intro k hk
    have := List.mem_range.1 hk
    rw [byteAt_slice _ _ _ _ (by omega), byteAt_slice _ _ _ _ (by omega), show s + (2 * k + 1) = s + 1 + 2 * k by omega]
  rw [this]

/-- R210: a word by its bytes. -/
theorem fieldAt_word (i : Nat) (m : List Byte) (a b : Byte) : fieldAt i 2 m = a.toNat * 256 + b.toNat ↔ byteAt i m = a ∧ byteAt (i + 1) m = b := by
  rw [fieldAt_two]; constructor
  · intro h
    have := (byteAt i m).isLt; have := (byteAt (i + 1) m).isLt; have := a.isLt; have := b.isLt
    exact ⟨BitVec.eq_of_toNat_eq (by omega), BitVec.eq_of_toNat_eq (by omega)⟩
  · rintro ⟨rfl, rfl⟩; rfl

/-- R205: the nearer end. -/
theorem nearer_eq (lo hi x : Nat) : (nearer lo hi x).1 = if x < lo then lo else if hi < x then hi else x := by
  unfold nearer; split
  · rfl
  · split <;> rfl

/-- R205: the nearer end counts one where it changes the value. -/
theorem nearer_count (lo hi x : Nat) : (nearer lo hi x).2 = if x = (nearer lo hi x).1 then 0 else 1 := by
  unfold nearer; split
  · rw [if_neg (by dsimp only; omega)]
  · split
    · rw [if_neg (by dsimp only; omega)]
    · rw [if_pos rfl]

/-- R205: a value in the place of one above its range. -/
theorem orElse_eq (hi d x : Nat) : (orElse hi d x).1 = if x ≤ hi then x else d := by
  unfold orElse; split
  · rw [if_neg (by omega)]
  · rw [if_pos (by omega)]

/-- R205: such a replacement counts one. -/
theorem orElse_count (hi d x : Nat) (h : d ≤ hi) : (orElse hi d x).2 = if x = (orElse hi d x).1 then 0 else 1 := by
  unfold orElse; split
  · rw [if_neg (by dsimp only; omega)]
  · rw [if_pos rfl]

/-- R205: a queue number, or the one in its place. -/
theorem queueOr_eq (d : QueueIx) (x : Nat) : (queueOr d x).1.val + 1 = if 1 ≤ x ∧ x ≤ 6 then x else d.val + 1 := by
  unfold queueOr; split
  · rw [if_pos (by omega)]; dsimp only; omega
  · rw [if_neg (by omega)]

/-- R205: a queue number replaced counts one. -/
theorem queueOr_count (d : QueueIx) (x : Nat) : (queueOr d x).2 = if x = (queueOr d x).1.val + 1 then 0 else 1 := by
  unfold queueOr; split
  · rw [if_pos (by dsimp only; omega)]
  · rw [if_neg (by dsimp only; have := d.isLt; omega)]

/-- R205: the duty setting. -/
theorem dutyOf_eq (x : Nat) : (dutyOf x).1 = (if x < 10 then 10 else if 90 < x then 90 else x) / 10 * 10 := by
  unfold dutyOf; dsimp only; rw [nearer_eq]

/-- R205: a duty setting changed counts one. -/
theorem dutyOf_count (x : Nat) : (dutyOf x).2 = if x = (dutyOf x).1 then 0 else 1 := by
  unfold dutyOf; dsimp only; split <;> split <;> omega

/-- R205: the band list as clamped. -/
theorem clampBands_kept (l : List Band) : (clampBands l).1 = (l.filter fun b => decide (b.first ≤ 767)).map fun b =>
      { first := b.first, width := min (max 1 b.width) (768 - b.first), cap := min 10 b.cap } := by
  induction l with
  | nil => rfl
  | cons b l ih =>
    unfold clampBands clampBand; dsimp only; rw [ih]
    by_cases h : b.first > 767
    · rw [if_pos h, List.filter_cons_of_neg (by simp; omega)]; rfl
    · rw [if_neg h, List.filter_cons_of_pos (by simp; omega), List.map_cons]
      simp only [Option.toList_some, List.cons_append, List.nil_append]
      congr 1
      simp only [Band.mk.injEq, true_and]
      constructor <;> repeat' split
      all_goals omega

/-- R205: the changes of the band list, counted. -/
theorem clampBands_count (l : List Band) : (clampBands l).2 = (l.map fun b => if 767 < b.first then 1 else
      (if b.width = min (max 1 b.width) (768 - b.first) then 0 else 1) + (if b.cap = min 10 b.cap then 0 else 1)).sum := by
  induction l with
  | nil => rfl
  | cons b l ih =>
    unfold clampBands clampBand; dsimp only; rw [ih, List.map_cons, List.sum_cons]
    congr 1
    by_cases h : b.first > 767
    · rw [if_pos h, if_pos h]
    · rw [if_neg h, if_neg h]; dsimp only
      repeat' split
      all_goals omega

end Sys2Proof.Machine
end

