-- ==== Sys2Proof/Laws/State.lean ====
section
/-! SUPPORT. What each update of the state leaves in each field: one lemma per field per update. -/

namespace Sys2Proof.Machine

/-! ### `bump` -/

@[simp] theorem bump_lineTime (c : Counter) (s : State) : (bump c s).lineTime = s.lineTime := rfl
@[simp] theorem bump_held (c : Counter) (s : State) : (bump c s).held = s.held := rfl
@[simp] theorem bump_startUp (c : Counter) (s : State) : (bump c s).startUp = s.startUp := rfl
@[simp] theorem bump_listening (c : Counter) (s : State) : (bump c s).listening = s.listening := rfl
@[simp] theorem bump_tracker (c : Counter) (s : State) : (bump c s).tracker = s.tracker := rfl
@[simp] theorem bump_line (c : Counter) (s : State) : (bump c s).line = s.line := rfl
@[simp] theorem bump_mac (c : Counter) (s : State) : (bump c s).mac = s.mac := rfl
@[simp] theorem bump_thermal (c : Counter) (s : State) : (bump c s).thermal = s.thermal := rfl
@[simp] theorem bump_estimator (c : Counter) (s : State) : (bump c s).estimator = s.estimator := rfl
@[simp] theorem bump_table (c : Counter) (s : State) : (bump c s).table = s.table := rfl
@[simp] theorem bump_note (c : Counter) (s : State) : (bump c s).note = s.note := rfl
@[simp] theorem bump_pool (c : Counter) (s : State) : (bump c s).pool = s.pool := rfl
@[simp] theorem bump_inFlight (c : Counter) (s : State) : (bump c s).inFlight = s.inFlight := rfl
@[simp] theorem bump_queues (c : Counter) (s : State) : (bump c s).queues = s.queues := rfl
@[simp] theorem bump_control (c : Counter) (s : State) : (bump c s).control = s.control := rfl
@[simp] theorem bump_holdsCandidate (c : Counter) (s : State) : (bump c s).holdsCandidate = s.holdsCandidate := rfl
@[simp] theorem bump_addressMap (c : Counter) (s : State) : (bump c s).addressMap = s.addressMap := rfl
@[simp] theorem bump_port (c : Counter) (s : State) : (bump c s).port = s.port := rfl
@[simp] theorem bump_counters (c : Counter) (s : State) : (bump c s).counters = s.counters.set c.index (satInc s.counters[c.index]) := rfl
@[simp] theorem bump_attention (c : Counter) (s : State) : (bump c s).attention = s.attention := rfl
@[simp] theorem bump_restart (c : Counter) (s : State) : (bump c s).restart = s.restart := rfl
@[simp] theorem bump_settings (c : Counter) (s : State) : (bump c s).settings = s.settings := rfl
@[simp] theorem bump_pending (c : Counter) (s : State) : (bump c s).pending = s.pending := rfl
@[simp] theorem bump_raised (c : Counter) (s : State) : (bump c s).raised = s.raised := rfl
@[simp] theorem bump_draws (c : Counter) (s : State) : (bump c s).draws = s.draws := rfl
@[simp] theorem bump_nextFrameId (c : Counter) (s : State) : (bump c s).nextFrameId = s.nextFrameId := rfl
@[simp] theorem bump_evalDue (c : Counter) (s : State) : (bump c s).evalDue = s.evalDue := rfl

/-! ### `setEntry` -/

@[simp] theorem setEntry_lineTime (i : EntryIx) (e : Option Entry) (s : State) : (setEntry i e s).lineTime = s.lineTime := rfl
@[simp] theorem setEntry_held (i : EntryIx) (e : Option Entry) (s : State) : (setEntry i e s).held = s.held := rfl
@[simp] theorem setEntry_startUp (i : EntryIx) (e : Option Entry) (s : State) : (setEntry i e s).startUp = s.startUp := rfl
@[simp] theorem setEntry_listening (i : EntryIx) (e : Option Entry) (s : State) : (setEntry i e s).listening = s.listening := rfl
@[simp] theorem setEntry_tracker (i : EntryIx) (e : Option Entry) (s : State) : (setEntry i e s).tracker = s.tracker := rfl
@[simp] theorem setEntry_line (i : EntryIx) (e : Option Entry) (s : State) : (setEntry i e s).line = s.line := rfl
@[simp] theorem setEntry_mac (i : EntryIx) (e : Option Entry) (s : State) : (setEntry i e s).mac = s.mac := rfl
@[simp] theorem setEntry_thermal (i : EntryIx) (e : Option Entry) (s : State) : (setEntry i e s).thermal = s.thermal := rfl
@[simp] theorem setEntry_estimator (i : EntryIx) (e : Option Entry) (s : State) : (setEntry i e s).estimator = s.estimator := rfl
@[simp] theorem setEntry_table (i : EntryIx) (e : Option Entry) (s : State) : (setEntry i e s).table = s.table.set i e := rfl
@[simp] theorem setEntry_note (i : EntryIx) (e : Option Entry) (s : State) : (setEntry i e s).note = s.note := rfl
@[simp] theorem setEntry_pool (i : EntryIx) (e : Option Entry) (s : State) : (setEntry i e s).pool = s.pool := rfl
@[simp] theorem setEntry_inFlight (i : EntryIx) (e : Option Entry) (s : State) : (setEntry i e s).inFlight = s.inFlight := rfl
@[simp] theorem setEntry_queues (i : EntryIx) (e : Option Entry) (s : State) : (setEntry i e s).queues = s.queues := rfl
@[simp] theorem setEntry_control (i : EntryIx) (e : Option Entry) (s : State) : (setEntry i e s).control = s.control := rfl
@[simp] theorem setEntry_holdsCandidate (i : EntryIx) (e : Option Entry) (s : State) : (setEntry i e s).holdsCandidate = s.holdsCandidate := rfl
@[simp] theorem setEntry_addressMap (i : EntryIx) (e : Option Entry) (s : State) : (setEntry i e s).addressMap = s.addressMap := rfl
@[simp] theorem setEntry_port (i : EntryIx) (e : Option Entry) (s : State) : (setEntry i e s).port = s.port := rfl
@[simp] theorem setEntry_counters (i : EntryIx) (e : Option Entry) (s : State) : (setEntry i e s).counters = s.counters := rfl
@[simp] theorem setEntry_attention (i : EntryIx) (e : Option Entry) (s : State) : (setEntry i e s).attention = s.attention := rfl
@[simp] theorem setEntry_restart (i : EntryIx) (e : Option Entry) (s : State) : (setEntry i e s).restart = s.restart := rfl
@[simp] theorem setEntry_settings (i : EntryIx) (e : Option Entry) (s : State) : (setEntry i e s).settings = s.settings := rfl
@[simp] theorem setEntry_pending (i : EntryIx) (e : Option Entry) (s : State) : (setEntry i e s).pending = s.pending := rfl
@[simp] theorem setEntry_raised (i : EntryIx) (e : Option Entry) (s : State) : (setEntry i e s).raised = s.raised := rfl
@[simp] theorem setEntry_draws (i : EntryIx) (e : Option Entry) (s : State) : (setEntry i e s).draws = s.draws := rfl
@[simp] theorem setEntry_nextFrameId (i : EntryIx) (e : Option Entry) (s : State) : (setEntry i e s).nextFrameId = s.nextFrameId := rfl
@[simp] theorem setEntry_evalDue (i : EntryIx) (e : Option Entry) (s : State) : (setEntry i e s).evalDue = s.evalDue := rfl

/-! ### `setSlot` -/

@[simp] theorem setSlot_lineTime (i : SlotIx) (g : Option HeldGrid) (s : State) : (setSlot i g s).lineTime = s.lineTime := rfl
@[simp] theorem setSlot_held (i : SlotIx) (g : Option HeldGrid) (s : State) : (setSlot i g s).held = s.held := rfl
@[simp] theorem setSlot_startUp (i : SlotIx) (g : Option HeldGrid) (s : State) : (setSlot i g s).startUp = s.startUp := rfl
@[simp] theorem setSlot_listening (i : SlotIx) (g : Option HeldGrid) (s : State) : (setSlot i g s).listening = s.listening := rfl
@[simp] theorem setSlot_tracker (i : SlotIx) (g : Option HeldGrid) (s : State) : (setSlot i g s).tracker = s.tracker := rfl
@[simp] theorem setSlot_line (i : SlotIx) (g : Option HeldGrid) (s : State) : (setSlot i g s).line = s.line := rfl
@[simp] theorem setSlot_mac (i : SlotIx) (g : Option HeldGrid) (s : State) : (setSlot i g s).mac = s.mac := rfl
@[simp] theorem setSlot_thermal (i : SlotIx) (g : Option HeldGrid) (s : State) : (setSlot i g s).thermal = s.thermal := rfl
@[simp] theorem setSlot_estimator (i : SlotIx) (g : Option HeldGrid) (s : State) : (setSlot i g s).estimator = s.estimator := rfl
@[simp] theorem setSlot_table (i : SlotIx) (g : Option HeldGrid) (s : State) : (setSlot i g s).table = s.table := rfl
@[simp] theorem setSlot_note (i : SlotIx) (g : Option HeldGrid) (s : State) : (setSlot i g s).note = s.note := rfl
@[simp] theorem setSlot_pool (i : SlotIx) (g : Option HeldGrid) (s : State) : (setSlot i g s).pool = s.pool.set i g := rfl
@[simp] theorem setSlot_inFlight (i : SlotIx) (g : Option HeldGrid) (s : State) : (setSlot i g s).inFlight = s.inFlight := rfl
@[simp] theorem setSlot_queues (i : SlotIx) (g : Option HeldGrid) (s : State) : (setSlot i g s).queues = s.queues := rfl
@[simp] theorem setSlot_control (i : SlotIx) (g : Option HeldGrid) (s : State) : (setSlot i g s).control = s.control := rfl
@[simp] theorem setSlot_holdsCandidate (i : SlotIx) (g : Option HeldGrid) (s : State) : (setSlot i g s).holdsCandidate = s.holdsCandidate := rfl
@[simp] theorem setSlot_addressMap (i : SlotIx) (g : Option HeldGrid) (s : State) : (setSlot i g s).addressMap = s.addressMap := rfl
@[simp] theorem setSlot_port (i : SlotIx) (g : Option HeldGrid) (s : State) : (setSlot i g s).port = s.port := rfl
@[simp] theorem setSlot_counters (i : SlotIx) (g : Option HeldGrid) (s : State) : (setSlot i g s).counters = s.counters := rfl
@[simp] theorem setSlot_attention (i : SlotIx) (g : Option HeldGrid) (s : State) : (setSlot i g s).attention = s.attention := rfl
@[simp] theorem setSlot_restart (i : SlotIx) (g : Option HeldGrid) (s : State) : (setSlot i g s).restart = s.restart := rfl
@[simp] theorem setSlot_settings (i : SlotIx) (g : Option HeldGrid) (s : State) : (setSlot i g s).settings = s.settings := rfl
@[simp] theorem setSlot_pending (i : SlotIx) (g : Option HeldGrid) (s : State) : (setSlot i g s).pending = s.pending := rfl
@[simp] theorem setSlot_raised (i : SlotIx) (g : Option HeldGrid) (s : State) : (setSlot i g s).raised = s.raised := rfl
@[simp] theorem setSlot_draws (i : SlotIx) (g : Option HeldGrid) (s : State) : (setSlot i g s).draws = s.draws := rfl
@[simp] theorem setSlot_nextFrameId (i : SlotIx) (g : Option HeldGrid) (s : State) : (setSlot i g s).nextFrameId = s.nextFrameId := rfl
@[simp] theorem setSlot_evalDue (i : SlotIx) (g : Option HeldGrid) (s : State) : (setSlot i g s).evalDue = s.evalDue := rfl

/-! ### `setMap` -/

@[simp] theorem setMap_lineTime (i : MapIx) (m : Option MapEntry) (s : State) : (setMap i m s).lineTime = s.lineTime := rfl
@[simp] theorem setMap_held (i : MapIx) (m : Option MapEntry) (s : State) : (setMap i m s).held = s.held := rfl
@[simp] theorem setMap_startUp (i : MapIx) (m : Option MapEntry) (s : State) : (setMap i m s).startUp = s.startUp := rfl
@[simp] theorem setMap_listening (i : MapIx) (m : Option MapEntry) (s : State) : (setMap i m s).listening = s.listening := rfl
@[simp] theorem setMap_tracker (i : MapIx) (m : Option MapEntry) (s : State) : (setMap i m s).tracker = s.tracker := rfl
@[simp] theorem setMap_line (i : MapIx) (m : Option MapEntry) (s : State) : (setMap i m s).line = s.line := rfl
@[simp] theorem setMap_mac (i : MapIx) (m : Option MapEntry) (s : State) : (setMap i m s).mac = s.mac := rfl
@[simp] theorem setMap_thermal (i : MapIx) (m : Option MapEntry) (s : State) : (setMap i m s).thermal = s.thermal := rfl
@[simp] theorem setMap_estimator (i : MapIx) (m : Option MapEntry) (s : State) : (setMap i m s).estimator = s.estimator := rfl
@[simp] theorem setMap_table (i : MapIx) (m : Option MapEntry) (s : State) : (setMap i m s).table = s.table := rfl
@[simp] theorem setMap_note (i : MapIx) (m : Option MapEntry) (s : State) : (setMap i m s).note = s.note := rfl
@[simp] theorem setMap_pool (i : MapIx) (m : Option MapEntry) (s : State) : (setMap i m s).pool = s.pool := rfl
@[simp] theorem setMap_inFlight (i : MapIx) (m : Option MapEntry) (s : State) : (setMap i m s).inFlight = s.inFlight := rfl
@[simp] theorem setMap_queues (i : MapIx) (m : Option MapEntry) (s : State) : (setMap i m s).queues = s.queues := rfl
@[simp] theorem setMap_control (i : MapIx) (m : Option MapEntry) (s : State) : (setMap i m s).control = s.control := rfl
@[simp] theorem setMap_holdsCandidate (i : MapIx) (m : Option MapEntry) (s : State) : (setMap i m s).holdsCandidate = s.holdsCandidate := rfl
@[simp] theorem setMap_addressMap (i : MapIx) (m : Option MapEntry) (s : State) : (setMap i m s).addressMap = s.addressMap.set i m := rfl
@[simp] theorem setMap_port (i : MapIx) (m : Option MapEntry) (s : State) : (setMap i m s).port = s.port := rfl
@[simp] theorem setMap_counters (i : MapIx) (m : Option MapEntry) (s : State) : (setMap i m s).counters = s.counters := rfl
@[simp] theorem setMap_attention (i : MapIx) (m : Option MapEntry) (s : State) : (setMap i m s).attention = s.attention := rfl
@[simp] theorem setMap_restart (i : MapIx) (m : Option MapEntry) (s : State) : (setMap i m s).restart = s.restart := rfl
@[simp] theorem setMap_settings (i : MapIx) (m : Option MapEntry) (s : State) : (setMap i m s).settings = s.settings := rfl
@[simp] theorem setMap_pending (i : MapIx) (m : Option MapEntry) (s : State) : (setMap i m s).pending = s.pending := rfl
@[simp] theorem setMap_raised (i : MapIx) (m : Option MapEntry) (s : State) : (setMap i m s).raised = s.raised := rfl
@[simp] theorem setMap_draws (i : MapIx) (m : Option MapEntry) (s : State) : (setMap i m s).draws = s.draws := rfl
@[simp] theorem setMap_nextFrameId (i : MapIx) (m : Option MapEntry) (s : State) : (setMap i m s).nextFrameId = s.nextFrameId := rfl
@[simp] theorem setMap_evalDue (i : MapIx) (m : Option MapEntry) (s : State) : (setMap i m s).evalDue = s.evalDue := rfl

/-! ### `setQueue` -/

@[simp] theorem setQueue_lineTime (q : QueueIx) (fs : List HostFrame) (s : State) : (setQueue q fs s).lineTime = s.lineTime := rfl
@[simp] theorem setQueue_held (q : QueueIx) (fs : List HostFrame) (s : State) : (setQueue q fs s).held = s.held := rfl
@[simp] theorem setQueue_startUp (q : QueueIx) (fs : List HostFrame) (s : State) : (setQueue q fs s).startUp = s.startUp := rfl
@[simp] theorem setQueue_listening (q : QueueIx) (fs : List HostFrame) (s : State) : (setQueue q fs s).listening = s.listening := rfl
@[simp] theorem setQueue_tracker (q : QueueIx) (fs : List HostFrame) (s : State) : (setQueue q fs s).tracker = s.tracker := rfl
@[simp] theorem setQueue_line (q : QueueIx) (fs : List HostFrame) (s : State) : (setQueue q fs s).line = s.line := rfl
@[simp] theorem setQueue_mac (q : QueueIx) (fs : List HostFrame) (s : State) : (setQueue q fs s).mac = s.mac := rfl
@[simp] theorem setQueue_thermal (q : QueueIx) (fs : List HostFrame) (s : State) : (setQueue q fs s).thermal = s.thermal := rfl
@[simp] theorem setQueue_estimator (q : QueueIx) (fs : List HostFrame) (s : State) : (setQueue q fs s).estimator = s.estimator := rfl
@[simp] theorem setQueue_table (q : QueueIx) (fs : List HostFrame) (s : State) : (setQueue q fs s).table = s.table := rfl
@[simp] theorem setQueue_note (q : QueueIx) (fs : List HostFrame) (s : State) : (setQueue q fs s).note = s.note := rfl
@[simp] theorem setQueue_pool (q : QueueIx) (fs : List HostFrame) (s : State) : (setQueue q fs s).pool = s.pool := rfl
@[simp] theorem setQueue_inFlight (q : QueueIx) (fs : List HostFrame) (s : State) : (setQueue q fs s).inFlight = s.inFlight := rfl
@[simp] theorem setQueue_queues (q : QueueIx) (fs : List HostFrame) (s : State) : (setQueue q fs s).queues = s.queues.set q fs := rfl
@[simp] theorem setQueue_control (q : QueueIx) (fs : List HostFrame) (s : State) : (setQueue q fs s).control = s.control := rfl
@[simp] theorem setQueue_holdsCandidate (q : QueueIx) (fs : List HostFrame) (s : State) : (setQueue q fs s).holdsCandidate = s.holdsCandidate := rfl
@[simp] theorem setQueue_addressMap (q : QueueIx) (fs : List HostFrame) (s : State) : (setQueue q fs s).addressMap = s.addressMap := rfl
@[simp] theorem setQueue_port (q : QueueIx) (fs : List HostFrame) (s : State) : (setQueue q fs s).port = s.port := rfl
@[simp] theorem setQueue_counters (q : QueueIx) (fs : List HostFrame) (s : State) : (setQueue q fs s).counters = s.counters := rfl
@[simp] theorem setQueue_attention (q : QueueIx) (fs : List HostFrame) (s : State) : (setQueue q fs s).attention = s.attention := rfl
@[simp] theorem setQueue_restart (q : QueueIx) (fs : List HostFrame) (s : State) : (setQueue q fs s).restart = s.restart := rfl
@[simp] theorem setQueue_settings (q : QueueIx) (fs : List HostFrame) (s : State) : (setQueue q fs s).settings = s.settings := rfl
@[simp] theorem setQueue_pending (q : QueueIx) (fs : List HostFrame) (s : State) : (setQueue q fs s).pending = s.pending := rfl
@[simp] theorem setQueue_raised (q : QueueIx) (fs : List HostFrame) (s : State) : (setQueue q fs s).raised = s.raised := rfl
@[simp] theorem setQueue_draws (q : QueueIx) (fs : List HostFrame) (s : State) : (setQueue q fs s).draws = s.draws := rfl
@[simp] theorem setQueue_nextFrameId (q : QueueIx) (fs : List HostFrame) (s : State) : (setQueue q fs s).nextFrameId = s.nextFrameId := rfl
@[simp] theorem setQueue_evalDue (q : QueueIx) (fs : List HostFrame) (s : State) : (setQueue q fs s).evalDue = true := rfl

/-! ### `placeControl` -/

@[simp] theorem placeControl_lineTime (c : ControlEntry) (s : State) : (placeControl c s).lineTime = s.lineTime := rfl
@[simp] theorem placeControl_held (c : ControlEntry) (s : State) : (placeControl c s).held = s.held := rfl
@[simp] theorem placeControl_startUp (c : ControlEntry) (s : State) : (placeControl c s).startUp = s.startUp := rfl
@[simp] theorem placeControl_listening (c : ControlEntry) (s : State) : (placeControl c s).listening = s.listening := rfl
@[simp] theorem placeControl_tracker (c : ControlEntry) (s : State) : (placeControl c s).tracker = s.tracker := rfl
@[simp] theorem placeControl_line (c : ControlEntry) (s : State) : (placeControl c s).line = s.line := rfl
@[simp] theorem placeControl_mac (c : ControlEntry) (s : State) : (placeControl c s).mac = s.mac := rfl
@[simp] theorem placeControl_thermal (c : ControlEntry) (s : State) : (placeControl c s).thermal = s.thermal := rfl
@[simp] theorem placeControl_estimator (c : ControlEntry) (s : State) : (placeControl c s).estimator = s.estimator := rfl
@[simp] theorem placeControl_table (c : ControlEntry) (s : State) : (placeControl c s).table = s.table := rfl
@[simp] theorem placeControl_note (c : ControlEntry) (s : State) : (placeControl c s).note = s.note := rfl
@[simp] theorem placeControl_pool (c : ControlEntry) (s : State) : (placeControl c s).pool = s.pool := rfl
@[simp] theorem placeControl_inFlight (c : ControlEntry) (s : State) : (placeControl c s).inFlight = s.inFlight := rfl
@[simp] theorem placeControl_queues (c : ControlEntry) (s : State) : (placeControl c s).queues = s.queues := rfl
@[simp] theorem placeControl_control (c : ControlEntry) (s : State) : (placeControl c s).control = s.control ++ [c] := rfl
@[simp] theorem placeControl_holdsCandidate (c : ControlEntry) (s : State) : (placeControl c s).holdsCandidate = s.holdsCandidate := rfl
@[simp] theorem placeControl_addressMap (c : ControlEntry) (s : State) : (placeControl c s).addressMap = s.addressMap := rfl
@[simp] theorem placeControl_port (c : ControlEntry) (s : State) : (placeControl c s).port = s.port := rfl
@[simp] theorem placeControl_counters (c : ControlEntry) (s : State) : (placeControl c s).counters = s.counters := rfl
@[simp] theorem placeControl_attention (c : ControlEntry) (s : State) : (placeControl c s).attention = s.attention := rfl
@[simp] theorem placeControl_restart (c : ControlEntry) (s : State) : (placeControl c s).restart = s.restart := rfl
@[simp] theorem placeControl_settings (c : ControlEntry) (s : State) : (placeControl c s).settings = s.settings := rfl
@[simp] theorem placeControl_pending (c : ControlEntry) (s : State) : (placeControl c s).pending = s.pending := rfl
@[simp] theorem placeControl_raised (c : ControlEntry) (s : State) : (placeControl c s).raised = s.raised := rfl
@[simp] theorem placeControl_draws (c : ControlEntry) (s : State) : (placeControl c s).draws = s.draws := rfl
@[simp] theorem placeControl_nextFrameId (c : ControlEntry) (s : State) : (placeControl c s).nextFrameId = s.nextFrameId := rfl
@[simp] theorem placeControl_evalDue (c : ControlEntry) (s : State) : (placeControl c s).evalDue = true := rfl

/-! ### `modMac` -/

@[simp] theorem modMac_lineTime (f : Mac → Mac) (s : State) : (modMac f s).lineTime = s.lineTime := rfl
@[simp] theorem modMac_held (f : Mac → Mac) (s : State) : (modMac f s).held = s.held := rfl
@[simp] theorem modMac_startUp (f : Mac → Mac) (s : State) : (modMac f s).startUp = s.startUp := rfl
@[simp] theorem modMac_listening (f : Mac → Mac) (s : State) : (modMac f s).listening = s.listening := rfl
@[simp] theorem modMac_tracker (f : Mac → Mac) (s : State) : (modMac f s).tracker = s.tracker := rfl
@[simp] theorem modMac_line (f : Mac → Mac) (s : State) : (modMac f s).line = s.line := rfl
@[simp] theorem modMac_mac (f : Mac → Mac) (s : State) : (modMac f s).mac = f s.mac := rfl
@[simp] theorem modMac_thermal (f : Mac → Mac) (s : State) : (modMac f s).thermal = s.thermal := rfl
@[simp] theorem modMac_estimator (f : Mac → Mac) (s : State) : (modMac f s).estimator = s.estimator := rfl
@[simp] theorem modMac_table (f : Mac → Mac) (s : State) : (modMac f s).table = s.table := rfl
@[simp] theorem modMac_note (f : Mac → Mac) (s : State) : (modMac f s).note = s.note := rfl
@[simp] theorem modMac_pool (f : Mac → Mac) (s : State) : (modMac f s).pool = s.pool := rfl
@[simp] theorem modMac_inFlight (f : Mac → Mac) (s : State) : (modMac f s).inFlight = s.inFlight := rfl
@[simp] theorem modMac_queues (f : Mac → Mac) (s : State) : (modMac f s).queues = s.queues := rfl
@[simp] theorem modMac_control (f : Mac → Mac) (s : State) : (modMac f s).control = s.control := rfl
@[simp] theorem modMac_holdsCandidate (f : Mac → Mac) (s : State) : (modMac f s).holdsCandidate = s.holdsCandidate := rfl
@[simp] theorem modMac_addressMap (f : Mac → Mac) (s : State) : (modMac f s).addressMap = s.addressMap := rfl
@[simp] theorem modMac_port (f : Mac → Mac) (s : State) : (modMac f s).port = s.port := rfl
@[simp] theorem modMac_counters (f : Mac → Mac) (s : State) : (modMac f s).counters = s.counters := rfl
@[simp] theorem modMac_attention (f : Mac → Mac) (s : State) : (modMac f s).attention = s.attention := rfl
@[simp] theorem modMac_restart (f : Mac → Mac) (s : State) : (modMac f s).restart = s.restart := rfl
@[simp] theorem modMac_settings (f : Mac → Mac) (s : State) : (modMac f s).settings = s.settings := rfl
@[simp] theorem modMac_pending (f : Mac → Mac) (s : State) : (modMac f s).pending = s.pending := rfl
@[simp] theorem modMac_raised (f : Mac → Mac) (s : State) : (modMac f s).raised = s.raised := rfl
@[simp] theorem modMac_draws (f : Mac → Mac) (s : State) : (modMac f s).draws = s.draws := rfl
@[simp] theorem modMac_nextFrameId (f : Mac → Mac) (s : State) : (modMac f s).nextFrameId = s.nextFrameId := rfl
@[simp] theorem modMac_evalDue (f : Mac → Mac) (s : State) : (modMac f s).evalDue = s.evalDue := rfl

/-! ### `modLine` -/

@[simp] theorem modLine_lineTime (f : LineInterface → LineInterface) (s : State) : (modLine f s).lineTime = s.lineTime := rfl
@[simp] theorem modLine_held (f : LineInterface → LineInterface) (s : State) : (modLine f s).held = s.held := rfl
@[simp] theorem modLine_startUp (f : LineInterface → LineInterface) (s : State) : (modLine f s).startUp = s.startUp := rfl
@[simp] theorem modLine_listening (f : LineInterface → LineInterface) (s : State) : (modLine f s).listening = s.listening := rfl
@[simp] theorem modLine_tracker (f : LineInterface → LineInterface) (s : State) : (modLine f s).tracker = s.tracker := rfl
@[simp] theorem modLine_line (f : LineInterface → LineInterface) (s : State) : (modLine f s).line = f s.line := rfl
@[simp] theorem modLine_mac (f : LineInterface → LineInterface) (s : State) : (modLine f s).mac = s.mac := rfl
@[simp] theorem modLine_thermal (f : LineInterface → LineInterface) (s : State) : (modLine f s).thermal = s.thermal := rfl
@[simp] theorem modLine_estimator (f : LineInterface → LineInterface) (s : State) : (modLine f s).estimator = s.estimator := rfl
@[simp] theorem modLine_table (f : LineInterface → LineInterface) (s : State) : (modLine f s).table = s.table := rfl
@[simp] theorem modLine_note (f : LineInterface → LineInterface) (s : State) : (modLine f s).note = s.note := rfl
@[simp] theorem modLine_pool (f : LineInterface → LineInterface) (s : State) : (modLine f s).pool = s.pool := rfl
@[simp] theorem modLine_inFlight (f : LineInterface → LineInterface) (s : State) : (modLine f s).inFlight = s.inFlight := rfl
@[simp] theorem modLine_queues (f : LineInterface → LineInterface) (s : State) : (modLine f s).queues = s.queues := rfl
@[simp] theorem modLine_control (f : LineInterface → LineInterface) (s : State) : (modLine f s).control = s.control := rfl
@[simp] theorem modLine_holdsCandidate (f : LineInterface → LineInterface) (s : State) : (modLine f s).holdsCandidate = s.holdsCandidate := rfl
@[simp] theorem modLine_addressMap (f : LineInterface → LineInterface) (s : State) : (modLine f s).addressMap = s.addressMap := rfl
@[simp] theorem modLine_port (f : LineInterface → LineInterface) (s : State) : (modLine f s).port = s.port := rfl
@[simp] theorem modLine_counters (f : LineInterface → LineInterface) (s : State) : (modLine f s).counters = s.counters := rfl
@[simp] theorem modLine_attention (f : LineInterface → LineInterface) (s : State) : (modLine f s).attention = s.attention := rfl
@[simp] theorem modLine_restart (f : LineInterface → LineInterface) (s : State) : (modLine f s).restart = s.restart := rfl
@[simp] theorem modLine_settings (f : LineInterface → LineInterface) (s : State) : (modLine f s).settings = s.settings := rfl
@[simp] theorem modLine_pending (f : LineInterface → LineInterface) (s : State) : (modLine f s).pending = s.pending := rfl
@[simp] theorem modLine_raised (f : LineInterface → LineInterface) (s : State) : (modLine f s).raised = s.raised := rfl
@[simp] theorem modLine_draws (f : LineInterface → LineInterface) (s : State) : (modLine f s).draws = s.draws := rfl
@[simp] theorem modLine_nextFrameId (f : LineInterface → LineInterface) (s : State) : (modLine f s).nextFrameId = s.nextFrameId := rfl
@[simp] theorem modLine_evalDue (f : LineInterface → LineInterface) (s : State) : (modLine f s).evalDue = s.evalDue := rfl

/-! ### `modPort` -/

@[simp] theorem modPort_lineTime (f : Port → Port) (s : State) : (modPort f s).lineTime = s.lineTime := rfl
@[simp] theorem modPort_held (f : Port → Port) (s : State) : (modPort f s).held = s.held := rfl
@[simp] theorem modPort_startUp (f : Port → Port) (s : State) : (modPort f s).startUp = s.startUp := rfl
@[simp] theorem modPort_listening (f : Port → Port) (s : State) : (modPort f s).listening = s.listening := rfl
@[simp] theorem modPort_tracker (f : Port → Port) (s : State) : (modPort f s).tracker = s.tracker := rfl
@[simp] theorem modPort_line (f : Port → Port) (s : State) : (modPort f s).line = s.line := rfl
@[simp] theorem modPort_mac (f : Port → Port) (s : State) : (modPort f s).mac = s.mac := rfl
@[simp] theorem modPort_thermal (f : Port → Port) (s : State) : (modPort f s).thermal = s.thermal := rfl
@[simp] theorem modPort_estimator (f : Port → Port) (s : State) : (modPort f s).estimator = s.estimator := rfl
@[simp] theorem modPort_table (f : Port → Port) (s : State) : (modPort f s).table = s.table := rfl
@[simp] theorem modPort_note (f : Port → Port) (s : State) : (modPort f s).note = s.note := rfl
@[simp] theorem modPort_pool (f : Port → Port) (s : State) : (modPort f s).pool = s.pool := rfl
@[simp] theorem modPort_inFlight (f : Port → Port) (s : State) : (modPort f s).inFlight = s.inFlight := rfl
@[simp] theorem modPort_queues (f : Port → Port) (s : State) : (modPort f s).queues = s.queues := rfl
@[simp] theorem modPort_control (f : Port → Port) (s : State) : (modPort f s).control = s.control := rfl
@[simp] theorem modPort_holdsCandidate (f : Port → Port) (s : State) : (modPort f s).holdsCandidate = s.holdsCandidate := rfl
@[simp] theorem modPort_addressMap (f : Port → Port) (s : State) : (modPort f s).addressMap = s.addressMap := rfl
@[simp] theorem modPort_port (f : Port → Port) (s : State) : (modPort f s).port = f s.port := rfl
@[simp] theorem modPort_counters (f : Port → Port) (s : State) : (modPort f s).counters = s.counters := rfl
@[simp] theorem modPort_attention (f : Port → Port) (s : State) : (modPort f s).attention = s.attention := rfl
@[simp] theorem modPort_restart (f : Port → Port) (s : State) : (modPort f s).restart = s.restart := rfl
@[simp] theorem modPort_settings (f : Port → Port) (s : State) : (modPort f s).settings = s.settings := rfl
@[simp] theorem modPort_pending (f : Port → Port) (s : State) : (modPort f s).pending = s.pending := rfl
@[simp] theorem modPort_raised (f : Port → Port) (s : State) : (modPort f s).raised = s.raised := rfl
@[simp] theorem modPort_draws (f : Port → Port) (s : State) : (modPort f s).draws = s.draws := rfl
@[simp] theorem modPort_nextFrameId (f : Port → Port) (s : State) : (modPort f s).nextFrameId = s.nextFrameId := rfl
@[simp] theorem modPort_evalDue (f : Port → Port) (s : State) : (modPort f s).evalDue = s.evalDue := rfl

/-! ### `markEval` -/

@[simp] theorem markEval_lineTime (s : State) : (markEval s).lineTime = s.lineTime := rfl
@[simp] theorem markEval_held (s : State) : (markEval s).held = s.held := rfl
@[simp] theorem markEval_startUp (s : State) : (markEval s).startUp = s.startUp := rfl
@[simp] theorem markEval_listening (s : State) : (markEval s).listening = s.listening := rfl
@[simp] theorem markEval_tracker (s : State) : (markEval s).tracker = s.tracker := rfl
@[simp] theorem markEval_line (s : State) : (markEval s).line = s.line := rfl
@[simp] theorem markEval_mac (s : State) : (markEval s).mac = s.mac := rfl
@[simp] theorem markEval_thermal (s : State) : (markEval s).thermal = s.thermal := rfl
@[simp] theorem markEval_estimator (s : State) : (markEval s).estimator = s.estimator := rfl
@[simp] theorem markEval_table (s : State) : (markEval s).table = s.table := rfl
@[simp] theorem markEval_note (s : State) : (markEval s).note = s.note := rfl
@[simp] theorem markEval_pool (s : State) : (markEval s).pool = s.pool := rfl
@[simp] theorem markEval_inFlight (s : State) : (markEval s).inFlight = s.inFlight := rfl
@[simp] theorem markEval_queues (s : State) : (markEval s).queues = s.queues := rfl
@[simp] theorem markEval_control (s : State) : (markEval s).control = s.control := rfl
@[simp] theorem markEval_holdsCandidate (s : State) : (markEval s).holdsCandidate = s.holdsCandidate := rfl
@[simp] theorem markEval_addressMap (s : State) : (markEval s).addressMap = s.addressMap := rfl
@[simp] theorem markEval_port (s : State) : (markEval s).port = s.port := rfl
@[simp] theorem markEval_counters (s : State) : (markEval s).counters = s.counters := rfl
@[simp] theorem markEval_attention (s : State) : (markEval s).attention = s.attention := rfl
@[simp] theorem markEval_restart (s : State) : (markEval s).restart = s.restart := rfl
@[simp] theorem markEval_settings (s : State) : (markEval s).settings = s.settings := rfl
@[simp] theorem markEval_pending (s : State) : (markEval s).pending = s.pending := rfl
@[simp] theorem markEval_raised (s : State) : (markEval s).raised = s.raised := rfl
@[simp] theorem markEval_draws (s : State) : (markEval s).draws = s.draws := rfl
@[simp] theorem markEval_nextFrameId (s : State) : (markEval s).nextFrameId = s.nextFrameId := rfl
@[simp] theorem markEval_evalDue (s : State) : (markEval s).evalDue = true := rfl

/-! ### `draw` -/

@[simp] theorem draw_lineTime (s : State) : (draw s).lineTime = s.lineTime := rfl
@[simp] theorem draw_held (s : State) : (draw s).held = s.held := rfl
@[simp] theorem draw_startUp (s : State) : (draw s).startUp = s.startUp := rfl
@[simp] theorem draw_listening (s : State) : (draw s).listening = s.listening := rfl
@[simp] theorem draw_tracker (s : State) : (draw s).tracker = s.tracker := rfl
@[simp] theorem draw_line (s : State) : (draw s).line = s.line := rfl
@[simp] theorem draw_mac (s : State) : (draw s).mac = s.mac := rfl
@[simp] theorem draw_thermal (s : State) : (draw s).thermal = s.thermal := rfl
@[simp] theorem draw_estimator (s : State) : (draw s).estimator = s.estimator := rfl
@[simp] theorem draw_table (s : State) : (draw s).table = s.table := rfl
@[simp] theorem draw_note (s : State) : (draw s).note = s.note := rfl
@[simp] theorem draw_pool (s : State) : (draw s).pool = s.pool := rfl
@[simp] theorem draw_inFlight (s : State) : (draw s).inFlight = s.inFlight := rfl
@[simp] theorem draw_queues (s : State) : (draw s).queues = s.queues := rfl
@[simp] theorem draw_control (s : State) : (draw s).control = s.control := rfl
@[simp] theorem draw_holdsCandidate (s : State) : (draw s).holdsCandidate = s.holdsCandidate := rfl
@[simp] theorem draw_addressMap (s : State) : (draw s).addressMap = s.addressMap := rfl
@[simp] theorem draw_port (s : State) : (draw s).port = s.port := rfl
@[simp] theorem draw_counters (s : State) : (draw s).counters = s.counters := rfl
@[simp] theorem draw_attention (s : State) : (draw s).attention = s.attention := rfl
@[simp] theorem draw_restart (s : State) : (draw s).restart = s.restart := rfl
@[simp] theorem draw_settings (s : State) : (draw s).settings = s.settings := rfl
@[simp] theorem draw_pending (s : State) : (draw s).pending = s.pending := rfl
@[simp] theorem draw_raised (s : State) : (draw s).raised = s.raised := rfl
@[simp] theorem draw_draws (s : State) : (draw s).draws = s.draws + 1 := rfl
@[simp] theorem draw_nextFrameId (s : State) : (draw s).nextFrameId = s.nextFrameId := rfl
@[simp] theorem draw_evalDue (s : State) : (draw s).evalDue = s.evalDue := rfl

/-! ### `taken` -/

@[simp] theorem taken_lineTime (c : Instr) (s : State) : (taken c s).lineTime = s.lineTime := rfl
@[simp] theorem taken_held (c : Instr) (s : State) : (taken c s).held = s.held := rfl
@[simp] theorem taken_startUp (c : Instr) (s : State) : (taken c s).startUp = s.startUp := rfl
@[simp] theorem taken_listening (c : Instr) (s : State) : (taken c s).listening = s.listening := rfl
@[simp] theorem taken_tracker (c : Instr) (s : State) : (taken c s).tracker = s.tracker := rfl
@[simp] theorem taken_line (c : Instr) (s : State) : (taken c s).line = s.line := rfl
@[simp] theorem taken_mac (c : Instr) (s : State) : (taken c s).mac = s.mac := rfl
@[simp] theorem taken_thermal (c : Instr) (s : State) : (taken c s).thermal = s.thermal := rfl
@[simp] theorem taken_estimator (c : Instr) (s : State) : (taken c s).estimator = s.estimator := rfl
@[simp] theorem taken_table (c : Instr) (s : State) : (taken c s).table = s.table := rfl
@[simp] theorem taken_note (c : Instr) (s : State) : (taken c s).note = s.note := rfl
@[simp] theorem taken_pool (c : Instr) (s : State) : (taken c s).pool = s.pool := rfl
@[simp] theorem taken_inFlight (c : Instr) (s : State) : (taken c s).inFlight = s.inFlight := rfl
@[simp] theorem taken_queues (c : Instr) (s : State) : (taken c s).queues = s.queues := rfl
@[simp] theorem taken_control (c : Instr) (s : State) : (taken c s).control = s.control := rfl
@[simp] theorem taken_holdsCandidate (c : Instr) (s : State) : (taken c s).holdsCandidate = s.holdsCandidate := rfl
@[simp] theorem taken_addressMap (c : Instr) (s : State) : (taken c s).addressMap = s.addressMap := rfl
@[simp] theorem taken_port (c : Instr) (s : State) : (taken c s).port = s.port := rfl
@[simp] theorem taken_counters (c : Instr) (s : State) : (taken c s).counters = s.counters := rfl
@[simp] theorem taken_attention (c : Instr) (s : State) : (taken c s).attention = s.attention := rfl
@[simp] theorem taken_restart (c : Instr) (s : State) : (taken c s).restart = s.restart := rfl
@[simp] theorem taken_settings (c : Instr) (s : State) : (taken c s).settings = s.settings := rfl
@[simp] theorem taken_pending (c : Instr) (s : State) : (taken c s).pending = s.pending := rfl
@[simp] theorem taken_raised (c : Instr) (s : State) : (taken c s).raised = c :: s.raised := rfl
@[simp] theorem taken_draws (c : Instr) (s : State) : (taken c s).draws = s.draws := rfl
@[simp] theorem taken_nextFrameId (c : Instr) (s : State) : (taken c s).nextFrameId = s.nextFrameId := rfl
@[simp] theorem taken_evalDue (c : Instr) (s : State) : (taken c s).evalDue = s.evalDue := rfl

/-! ### `clearCounters` -/

@[simp] theorem clearCounters_lineTime (s : State) : (clearCounters s).lineTime = s.lineTime := rfl
@[simp] theorem clearCounters_held (s : State) : (clearCounters s).held = s.held := rfl
@[simp] theorem clearCounters_startUp (s : State) : (clearCounters s).startUp = s.startUp := rfl
@[simp] theorem clearCounters_listening (s : State) : (clearCounters s).listening = s.listening := rfl
@[simp] theorem clearCounters_tracker (s : State) : (clearCounters s).tracker = s.tracker := rfl
@[simp] theorem clearCounters_line (s : State) : (clearCounters s).line = s.line := rfl
@[simp] theorem clearCounters_mac (s : State) : (clearCounters s).mac = s.mac := rfl
@[simp] theorem clearCounters_thermal (s : State) : (clearCounters s).thermal = s.thermal := rfl
@[simp] theorem clearCounters_estimator (s : State) : (clearCounters s).estimator = s.estimator := rfl
@[simp] theorem clearCounters_table (s : State) : (clearCounters s).table = s.table := rfl
@[simp] theorem clearCounters_note (s : State) : (clearCounters s).note = s.note := rfl
@[simp] theorem clearCounters_pool (s : State) : (clearCounters s).pool = s.pool := rfl
@[simp] theorem clearCounters_inFlight (s : State) : (clearCounters s).inFlight = s.inFlight := rfl
@[simp] theorem clearCounters_queues (s : State) : (clearCounters s).queues = s.queues := rfl
@[simp] theorem clearCounters_control (s : State) : (clearCounters s).control = s.control := rfl
@[simp] theorem clearCounters_holdsCandidate (s : State) : (clearCounters s).holdsCandidate = s.holdsCandidate := rfl
@[simp] theorem clearCounters_addressMap (s : State) : (clearCounters s).addressMap = s.addressMap := rfl
@[simp] theorem clearCounters_port (s : State) : (clearCounters s).port = s.port := rfl
@[simp] theorem clearCounters_counters (s : State) : (clearCounters s).counters = Vector.replicate 124 0#32 := rfl
@[simp] theorem clearCounters_attention (s : State) : (clearCounters s).attention = s.attention := rfl
@[simp] theorem clearCounters_restart (s : State) : (clearCounters s).restart = s.restart := rfl
@[simp] theorem clearCounters_settings (s : State) : (clearCounters s).settings = s.settings := rfl
@[simp] theorem clearCounters_pending (s : State) : (clearCounters s).pending = s.pending := rfl
@[simp] theorem clearCounters_raised (s : State) : (clearCounters s).raised = s.raised := rfl
@[simp] theorem clearCounters_draws (s : State) : (clearCounters s).draws = s.draws := rfl
@[simp] theorem clearCounters_nextFrameId (s : State) : (clearCounters s).nextFrameId = s.nextFrameId := rfl
@[simp] theorem clearCounters_evalDue (s : State) : (clearCounters s).evalDue = s.evalDue := rfl

/-! ### `raiseTrackerUntrusted` -/

@[simp] theorem raiseTrackerUntrusted_lineTime (s : State) : (raiseTrackerUntrusted s).lineTime = s.lineTime := rfl
@[simp] theorem raiseTrackerUntrusted_held (s : State) : (raiseTrackerUntrusted s).held = s.held := rfl
@[simp] theorem raiseTrackerUntrusted_startUp (s : State) : (raiseTrackerUntrusted s).startUp = s.startUp := rfl
@[simp] theorem raiseTrackerUntrusted_listening (s : State) : (raiseTrackerUntrusted s).listening = s.listening := rfl
@[simp] theorem raiseTrackerUntrusted_tracker (s : State) : (raiseTrackerUntrusted s).tracker = s.tracker := rfl
@[simp] theorem raiseTrackerUntrusted_line (s : State) : (raiseTrackerUntrusted s).line = s.line := rfl
@[simp] theorem raiseTrackerUntrusted_mac (s : State) : (raiseTrackerUntrusted s).mac = s.mac := rfl
@[simp] theorem raiseTrackerUntrusted_thermal (s : State) : (raiseTrackerUntrusted s).thermal = s.thermal := rfl
@[simp] theorem raiseTrackerUntrusted_estimator (s : State) : (raiseTrackerUntrusted s).estimator = s.estimator := rfl
@[simp] theorem raiseTrackerUntrusted_table (s : State) : (raiseTrackerUntrusted s).table = s.table := rfl
@[simp] theorem raiseTrackerUntrusted_note (s : State) : (raiseTrackerUntrusted s).note = s.note := rfl
@[simp] theorem raiseTrackerUntrusted_pool (s : State) : (raiseTrackerUntrusted s).pool = s.pool := rfl
@[simp] theorem raiseTrackerUntrusted_inFlight (s : State) : (raiseTrackerUntrusted s).inFlight = s.inFlight := rfl
@[simp] theorem raiseTrackerUntrusted_queues (s : State) : (raiseTrackerUntrusted s).queues = s.queues := rfl
@[simp] theorem raiseTrackerUntrusted_control (s : State) : (raiseTrackerUntrusted s).control = s.control := rfl
@[simp] theorem raiseTrackerUntrusted_holdsCandidate (s : State) : (raiseTrackerUntrusted s).holdsCandidate = s.holdsCandidate := rfl
@[simp] theorem raiseTrackerUntrusted_addressMap (s : State) : (raiseTrackerUntrusted s).addressMap = s.addressMap := rfl
@[simp] theorem raiseTrackerUntrusted_port (s : State) : (raiseTrackerUntrusted s).port = s.port := rfl
@[simp] theorem raiseTrackerUntrusted_counters (s : State) : (raiseTrackerUntrusted s).counters = s.counters := rfl
@[simp] theorem raiseTrackerUntrusted_attention (s : State) : (raiseTrackerUntrusted s).attention = { s.attention with trackerUntrusted := true } := rfl
@[simp] theorem raiseTrackerUntrusted_restart (s : State) : (raiseTrackerUntrusted s).restart = s.restart := rfl
@[simp] theorem raiseTrackerUntrusted_settings (s : State) : (raiseTrackerUntrusted s).settings = s.settings := rfl
@[simp] theorem raiseTrackerUntrusted_pending (s : State) : (raiseTrackerUntrusted s).pending = s.pending := rfl
@[simp] theorem raiseTrackerUntrusted_raised (s : State) : (raiseTrackerUntrusted s).raised = s.raised := rfl
@[simp] theorem raiseTrackerUntrusted_draws (s : State) : (raiseTrackerUntrusted s).draws = s.draws := rfl
@[simp] theorem raiseTrackerUntrusted_nextFrameId (s : State) : (raiseTrackerUntrusted s).nextFrameId = s.nextFrameId := rfl
@[simp] theorem raiseTrackerUntrusted_evalDue (s : State) : (raiseTrackerUntrusted s).evalDue = s.evalDue := rfl

/-! ### `raiseConfigDefault` -/

@[simp] theorem raiseConfigDefault_lineTime (s : State) : (raiseConfigDefault s).lineTime = s.lineTime := rfl
@[simp] theorem raiseConfigDefault_held (s : State) : (raiseConfigDefault s).held = s.held := rfl
@[simp] theorem raiseConfigDefault_startUp (s : State) : (raiseConfigDefault s).startUp = s.startUp := rfl
@[simp] theorem raiseConfigDefault_listening (s : State) : (raiseConfigDefault s).listening = s.listening := rfl
@[simp] theorem raiseConfigDefault_tracker (s : State) : (raiseConfigDefault s).tracker = s.tracker := rfl
@[simp] theorem raiseConfigDefault_line (s : State) : (raiseConfigDefault s).line = s.line := rfl
@[simp] theorem raiseConfigDefault_mac (s : State) : (raiseConfigDefault s).mac = s.mac := rfl
@[simp] theorem raiseConfigDefault_thermal (s : State) : (raiseConfigDefault s).thermal = s.thermal := rfl
@[simp] theorem raiseConfigDefault_estimator (s : State) : (raiseConfigDefault s).estimator = s.estimator := rfl
@[simp] theorem raiseConfigDefault_table (s : State) : (raiseConfigDefault s).table = s.table := rfl
@[simp] theorem raiseConfigDefault_note (s : State) : (raiseConfigDefault s).note = s.note := rfl
@[simp] theorem raiseConfigDefault_pool (s : State) : (raiseConfigDefault s).pool = s.pool := rfl
@[simp] theorem raiseConfigDefault_inFlight (s : State) : (raiseConfigDefault s).inFlight = s.inFlight := rfl
@[simp] theorem raiseConfigDefault_queues (s : State) : (raiseConfigDefault s).queues = s.queues := rfl
@[simp] theorem raiseConfigDefault_control (s : State) : (raiseConfigDefault s).control = s.control := rfl
@[simp] theorem raiseConfigDefault_holdsCandidate (s : State) : (raiseConfigDefault s).holdsCandidate = s.holdsCandidate := rfl
@[simp] theorem raiseConfigDefault_addressMap (s : State) : (raiseConfigDefault s).addressMap = s.addressMap := rfl
@[simp] theorem raiseConfigDefault_port (s : State) : (raiseConfigDefault s).port = s.port := rfl
@[simp] theorem raiseConfigDefault_counters (s : State) : (raiseConfigDefault s).counters = s.counters := rfl
@[simp] theorem raiseConfigDefault_attention (s : State) : (raiseConfigDefault s).attention = { s.attention with configDefault := true } := rfl
@[simp] theorem raiseConfigDefault_restart (s : State) : (raiseConfigDefault s).restart = s.restart := rfl
@[simp] theorem raiseConfigDefault_settings (s : State) : (raiseConfigDefault s).settings = s.settings := rfl
@[simp] theorem raiseConfigDefault_pending (s : State) : (raiseConfigDefault s).pending = s.pending := rfl
@[simp] theorem raiseConfigDefault_raised (s : State) : (raiseConfigDefault s).raised = s.raised := rfl
@[simp] theorem raiseConfigDefault_draws (s : State) : (raiseConfigDefault s).draws = s.draws := rfl
@[simp] theorem raiseConfigDefault_nextFrameId (s : State) : (raiseConfigDefault s).nextFrameId = s.nextFrameId := rfl
@[simp] theorem raiseConfigDefault_evalDue (s : State) : (raiseConfigDefault s).evalDue = s.evalDue := rfl

/-! ### `raisePoolExhausted` -/

@[simp] theorem raisePoolExhausted_lineTime (s : State) : (raisePoolExhausted s).lineTime = s.lineTime := rfl
@[simp] theorem raisePoolExhausted_held (s : State) : (raisePoolExhausted s).held = s.held := rfl
@[simp] theorem raisePoolExhausted_startUp (s : State) : (raisePoolExhausted s).startUp = s.startUp := rfl
@[simp] theorem raisePoolExhausted_listening (s : State) : (raisePoolExhausted s).listening = s.listening := rfl
@[simp] theorem raisePoolExhausted_tracker (s : State) : (raisePoolExhausted s).tracker = s.tracker := rfl
@[simp] theorem raisePoolExhausted_line (s : State) : (raisePoolExhausted s).line = s.line := rfl
@[simp] theorem raisePoolExhausted_mac (s : State) : (raisePoolExhausted s).mac = s.mac := rfl
@[simp] theorem raisePoolExhausted_thermal (s : State) : (raisePoolExhausted s).thermal = s.thermal := rfl
@[simp] theorem raisePoolExhausted_estimator (s : State) : (raisePoolExhausted s).estimator = s.estimator := rfl
@[simp] theorem raisePoolExhausted_table (s : State) : (raisePoolExhausted s).table = s.table := rfl
@[simp] theorem raisePoolExhausted_note (s : State) : (raisePoolExhausted s).note = s.note := rfl
@[simp] theorem raisePoolExhausted_pool (s : State) : (raisePoolExhausted s).pool = s.pool := rfl
@[simp] theorem raisePoolExhausted_inFlight (s : State) : (raisePoolExhausted s).inFlight = s.inFlight := rfl
@[simp] theorem raisePoolExhausted_queues (s : State) : (raisePoolExhausted s).queues = s.queues := rfl
@[simp] theorem raisePoolExhausted_control (s : State) : (raisePoolExhausted s).control = s.control := rfl
@[simp] theorem raisePoolExhausted_holdsCandidate (s : State) : (raisePoolExhausted s).holdsCandidate = s.holdsCandidate := rfl
@[simp] theorem raisePoolExhausted_addressMap (s : State) : (raisePoolExhausted s).addressMap = s.addressMap := rfl
@[simp] theorem raisePoolExhausted_port (s : State) : (raisePoolExhausted s).port = s.port := rfl
@[simp] theorem raisePoolExhausted_counters (s : State) : (raisePoolExhausted s).counters = s.counters := rfl
@[simp] theorem raisePoolExhausted_attention (s : State) : (raisePoolExhausted s).attention = { s.attention with poolExhausted := true } := rfl
@[simp] theorem raisePoolExhausted_restart (s : State) : (raisePoolExhausted s).restart = s.restart := rfl
@[simp] theorem raisePoolExhausted_settings (s : State) : (raisePoolExhausted s).settings = s.settings := rfl
@[simp] theorem raisePoolExhausted_pending (s : State) : (raisePoolExhausted s).pending = s.pending := rfl
@[simp] theorem raisePoolExhausted_raised (s : State) : (raisePoolExhausted s).raised = s.raised := rfl
@[simp] theorem raisePoolExhausted_draws (s : State) : (raisePoolExhausted s).draws = s.draws := rfl
@[simp] theorem raisePoolExhausted_nextFrameId (s : State) : (raisePoolExhausted s).nextFrameId = s.nextFrameId := rfl
@[simp] theorem raisePoolExhausted_evalDue (s : State) : (raisePoolExhausted s).evalDue = s.evalDue := rfl

/-! ### `raiseThermalLimited` -/

@[simp] theorem raiseThermalLimited_lineTime (s : State) : (raiseThermalLimited s).lineTime = s.lineTime := rfl
@[simp] theorem raiseThermalLimited_held (s : State) : (raiseThermalLimited s).held = s.held := rfl
@[simp] theorem raiseThermalLimited_startUp (s : State) : (raiseThermalLimited s).startUp = s.startUp := rfl
@[simp] theorem raiseThermalLimited_listening (s : State) : (raiseThermalLimited s).listening = s.listening := rfl
@[simp] theorem raiseThermalLimited_tracker (s : State) : (raiseThermalLimited s).tracker = s.tracker := rfl
@[simp] theorem raiseThermalLimited_line (s : State) : (raiseThermalLimited s).line = s.line := rfl
@[simp] theorem raiseThermalLimited_mac (s : State) : (raiseThermalLimited s).mac = s.mac := rfl
@[simp] theorem raiseThermalLimited_thermal (s : State) : (raiseThermalLimited s).thermal = s.thermal := rfl
@[simp] theorem raiseThermalLimited_estimator (s : State) : (raiseThermalLimited s).estimator = s.estimator := rfl
@[simp] theorem raiseThermalLimited_table (s : State) : (raiseThermalLimited s).table = s.table := rfl
@[simp] theorem raiseThermalLimited_note (s : State) : (raiseThermalLimited s).note = s.note := rfl
@[simp] theorem raiseThermalLimited_pool (s : State) : (raiseThermalLimited s).pool = s.pool := rfl
@[simp] theorem raiseThermalLimited_inFlight (s : State) : (raiseThermalLimited s).inFlight = s.inFlight := rfl
@[simp] theorem raiseThermalLimited_queues (s : State) : (raiseThermalLimited s).queues = s.queues := rfl
@[simp] theorem raiseThermalLimited_control (s : State) : (raiseThermalLimited s).control = s.control := rfl
@[simp] theorem raiseThermalLimited_holdsCandidate (s : State) : (raiseThermalLimited s).holdsCandidate = s.holdsCandidate := rfl
@[simp] theorem raiseThermalLimited_addressMap (s : State) : (raiseThermalLimited s).addressMap = s.addressMap := rfl
@[simp] theorem raiseThermalLimited_port (s : State) : (raiseThermalLimited s).port = s.port := rfl
@[simp] theorem raiseThermalLimited_counters (s : State) : (raiseThermalLimited s).counters = s.counters := rfl
@[simp] theorem raiseThermalLimited_attention (s : State) : (raiseThermalLimited s).attention = { s.attention with thermalLimited := true } := rfl
@[simp] theorem raiseThermalLimited_restart (s : State) : (raiseThermalLimited s).restart = s.restart := rfl
@[simp] theorem raiseThermalLimited_settings (s : State) : (raiseThermalLimited s).settings = s.settings := rfl
@[simp] theorem raiseThermalLimited_pending (s : State) : (raiseThermalLimited s).pending = s.pending := rfl
@[simp] theorem raiseThermalLimited_raised (s : State) : (raiseThermalLimited s).raised = s.raised := rfl
@[simp] theorem raiseThermalLimited_draws (s : State) : (raiseThermalLimited s).draws = s.draws := rfl
@[simp] theorem raiseThermalLimited_nextFrameId (s : State) : (raiseThermalLimited s).nextFrameId = s.nextFrameId := rfl
@[simp] theorem raiseThermalLimited_evalDue (s : State) : (raiseThermalLimited s).evalDue = s.evalDue := rfl

/-! ### `raiseTableFull` -/

@[simp] theorem raiseTableFull_lineTime (s : State) : (raiseTableFull s).lineTime = s.lineTime := rfl
@[simp] theorem raiseTableFull_held (s : State) : (raiseTableFull s).held = s.held := rfl
@[simp] theorem raiseTableFull_startUp (s : State) : (raiseTableFull s).startUp = s.startUp := rfl
@[simp] theorem raiseTableFull_listening (s : State) : (raiseTableFull s).listening = s.listening := rfl
@[simp] theorem raiseTableFull_tracker (s : State) : (raiseTableFull s).tracker = s.tracker := rfl
@[simp] theorem raiseTableFull_line (s : State) : (raiseTableFull s).line = s.line := rfl
@[simp] theorem raiseTableFull_mac (s : State) : (raiseTableFull s).mac = s.mac := rfl
@[simp] theorem raiseTableFull_thermal (s : State) : (raiseTableFull s).thermal = s.thermal := rfl
@[simp] theorem raiseTableFull_estimator (s : State) : (raiseTableFull s).estimator = s.estimator := rfl
@[simp] theorem raiseTableFull_table (s : State) : (raiseTableFull s).table = s.table := rfl
@[simp] theorem raiseTableFull_note (s : State) : (raiseTableFull s).note = s.note := rfl
@[simp] theorem raiseTableFull_pool (s : State) : (raiseTableFull s).pool = s.pool := rfl
@[simp] theorem raiseTableFull_inFlight (s : State) : (raiseTableFull s).inFlight = s.inFlight := rfl
@[simp] theorem raiseTableFull_queues (s : State) : (raiseTableFull s).queues = s.queues := rfl
@[simp] theorem raiseTableFull_control (s : State) : (raiseTableFull s).control = s.control := rfl
@[simp] theorem raiseTableFull_holdsCandidate (s : State) : (raiseTableFull s).holdsCandidate = s.holdsCandidate := rfl
@[simp] theorem raiseTableFull_addressMap (s : State) : (raiseTableFull s).addressMap = s.addressMap := rfl
@[simp] theorem raiseTableFull_port (s : State) : (raiseTableFull s).port = s.port := rfl
@[simp] theorem raiseTableFull_counters (s : State) : (raiseTableFull s).counters = s.counters := rfl
@[simp] theorem raiseTableFull_attention (s : State) : (raiseTableFull s).attention = { s.attention with tableFull := true } := rfl
@[simp] theorem raiseTableFull_restart (s : State) : (raiseTableFull s).restart = s.restart := rfl
@[simp] theorem raiseTableFull_settings (s : State) : (raiseTableFull s).settings = s.settings := rfl
@[simp] theorem raiseTableFull_pending (s : State) : (raiseTableFull s).pending = s.pending := rfl
@[simp] theorem raiseTableFull_raised (s : State) : (raiseTableFull s).raised = s.raised := rfl
@[simp] theorem raiseTableFull_draws (s : State) : (raiseTableFull s).draws = s.draws := rfl
@[simp] theorem raiseTableFull_nextFrameId (s : State) : (raiseTableFull s).nextFrameId = s.nextFrameId := rfl
@[simp] theorem raiseTableFull_evalDue (s : State) : (raiseTableFull s).evalDue = s.evalDue := rfl

/-! ### `raiseRelayDrop` -/

@[simp] theorem raiseRelayDrop_lineTime (s : State) : (raiseRelayDrop s).lineTime = s.lineTime := rfl
@[simp] theorem raiseRelayDrop_held (s : State) : (raiseRelayDrop s).held = s.held := rfl
@[simp] theorem raiseRelayDrop_startUp (s : State) : (raiseRelayDrop s).startUp = s.startUp := rfl
@[simp] theorem raiseRelayDrop_listening (s : State) : (raiseRelayDrop s).listening = s.listening := rfl
@[simp] theorem raiseRelayDrop_tracker (s : State) : (raiseRelayDrop s).tracker = s.tracker := rfl
@[simp] theorem raiseRelayDrop_line (s : State) : (raiseRelayDrop s).line = s.line := rfl
@[simp] theorem raiseRelayDrop_mac (s : State) : (raiseRelayDrop s).mac = s.mac := rfl
@[simp] theorem raiseRelayDrop_thermal (s : State) : (raiseRelayDrop s).thermal = s.thermal := rfl
@[simp] theorem raiseRelayDrop_estimator (s : State) : (raiseRelayDrop s).estimator = s.estimator := rfl
@[simp] theorem raiseRelayDrop_table (s : State) : (raiseRelayDrop s).table = s.table := rfl
@[simp] theorem raiseRelayDrop_note (s : State) : (raiseRelayDrop s).note = s.note := rfl
@[simp] theorem raiseRelayDrop_pool (s : State) : (raiseRelayDrop s).pool = s.pool := rfl
@[simp] theorem raiseRelayDrop_inFlight (s : State) : (raiseRelayDrop s).inFlight = s.inFlight := rfl
@[simp] theorem raiseRelayDrop_queues (s : State) : (raiseRelayDrop s).queues = s.queues := rfl
@[simp] theorem raiseRelayDrop_control (s : State) : (raiseRelayDrop s).control = s.control := rfl
@[simp] theorem raiseRelayDrop_holdsCandidate (s : State) : (raiseRelayDrop s).holdsCandidate = s.holdsCandidate := rfl
@[simp] theorem raiseRelayDrop_addressMap (s : State) : (raiseRelayDrop s).addressMap = s.addressMap := rfl
@[simp] theorem raiseRelayDrop_port (s : State) : (raiseRelayDrop s).port = s.port := rfl
@[simp] theorem raiseRelayDrop_counters (s : State) : (raiseRelayDrop s).counters = s.counters := rfl
@[simp] theorem raiseRelayDrop_attention (s : State) : (raiseRelayDrop s).attention = { s.attention with relayDrop := true } := rfl
@[simp] theorem raiseRelayDrop_restart (s : State) : (raiseRelayDrop s).restart = s.restart := rfl
@[simp] theorem raiseRelayDrop_settings (s : State) : (raiseRelayDrop s).settings = s.settings := rfl
@[simp] theorem raiseRelayDrop_pending (s : State) : (raiseRelayDrop s).pending = s.pending := rfl
@[simp] theorem raiseRelayDrop_raised (s : State) : (raiseRelayDrop s).raised = s.raised := rfl
@[simp] theorem raiseRelayDrop_draws (s : State) : (raiseRelayDrop s).draws = s.draws := rfl
@[simp] theorem raiseRelayDrop_nextFrameId (s : State) : (raiseRelayDrop s).nextFrameId = s.nextFrameId := rfl
@[simp] theorem raiseRelayDrop_evalDue (s : State) : (raiseRelayDrop s).evalDue = s.evalDue := rfl

end Sys2Proof.Machine
end

