-- ==== Sys2Proof/Laws/Pool.lean ====
section
/-! SUPPORT. The pool of grid slots: what the searches of the pool find, and that each way a slot is written keeps `PoolLawful`. -/

namespace Sys2Proof.Machine

theorem pool_set_self (p : Vector (Option HeldGrid) 48) (i : SlotIx) (g : Option HeldGrid) : (p.set i g)[i] = g := by simp

theorem pool_set_ne (p : Vector (Option HeldGrid) 48) {i j : SlotIx} (g : Option HeldGrid) (h : j ≠ i) : (p.set i g)[j] = p[j] := by
  have : i.val ≠ j.val := fun e => h (Fin.ext e.symm)
  exact Vector.getElem_set_ne _ _ this

/-- The slot found is one that the entry holds in the role. -/
theorem roleSlot_some {s : State} {e : EntryIx} {r : Role} {i : SlotIx} (h : s.roleSlot e r = some i) :
    ∃ g, s.pool[i] = some g ∧ g.entry = e ∧ g.role = r := by
  have k := List.find?_some h
  split at k
  · rename_i g hg
    simp only [Bool.and_eq_true, beq_iff_eq] at k
    exact ⟨g, hg, k.1, k.2⟩
  · cases k

/-- With no slot found, the entry holds none in the role. -/
theorem roleSlot_none {s : State} {e : EntryIx} {r : Role} (h : s.roleSlot e r = none) {i : SlotIx} {g : HeldGrid}
    (hg : s.pool[i] = some g) (he : g.entry = e) : g.role ≠ r := by
  intro hr
  have k := List.find?_eq_none.1 h i (List.mem_finRange i)
  rw [hg] at k
  simp [he, hr] at k

/-- R100: the slot taken is FREE. -/
theorem freeSlot_some {s : State} {i : SlotIx} (h : s.freeSlot = some i) : s.pool[i] = none := by
  have k := List.find?_some h
  simpa using k

section Lawful
variable {p : Vector (Option HeldGrid) 48}

/-- A freed slot. -/
theorem PoolLawful.free (i : SlotIx) (h : PoolLawful p) : PoolLawful (p.set i none) := by
  intro a b g k ha hb
  have na : a ≠ i := fun e => by rw [e, pool_set_self] at ha; cases ha
  have nb : b ≠ i := fun e => by rw [e, pool_set_self] at hb; cases hb
  rw [pool_set_ne _ _ na] at ha
  rw [pool_set_ne _ _ nb] at hb
  exact h a b g k ha hb

/-- A slot written with a grid that no other slot of its entry stands against. -/
theorem PoolLawful.put (i : SlotIx) (g : HeldGrid) (h : PoolLawful p)
    (hn : ∀ (j : SlotIx) (k : HeldGrid), j ≠ i → p[j] = some k → k.entry = g.entry →
      k.role ≠ g.role ∧
      (g.role = .rxPending → k.role = .rxCurrent → g.grid.tag ≠ k.grid.tag) ∧
      (g.role = .txAssembling → k.role = .txActive → g.grid.tag ≠ k.grid.tag) ∧
      (k.role = .rxPending → g.role = .rxCurrent → k.grid.tag ≠ g.grid.tag) ∧
      (k.role = .txAssembling → g.role = .txActive → k.grid.tag ≠ g.grid.tag)) :
    PoolLawful (p.set i (some g)) := by
  intro a b x y ha hb he
  by_cases na : a = i <;> by_cases nb : b = i
  · subst na; subst nb
    rw [pool_set_self] at ha hb
    cases ha; cases hb
    exact ⟨fun _ => rfl, (fun q r => by rw [q] at r; cases r), (fun q r => by rw [q] at r; cases r)⟩
  · subst na
    rw [pool_set_self] at ha; cases ha
    rw [pool_set_ne _ _ nb] at hb
    obtain ⟨h1, h2, h3, -, -⟩ := hn b y nb hb he.symm
    exact ⟨fun q => absurd q.symm h1, h2, h3⟩
  · subst nb
    rw [pool_set_self] at hb; cases hb
    rw [pool_set_ne _ _ na] at ha
    obtain ⟨h1, -, -, h4, h5⟩ := hn a x na ha he
    exact ⟨fun q => absurd q h1, h4, h5⟩
  · rw [pool_set_ne _ _ na] at ha
    rw [pool_set_ne _ _ nb] at hb
    exact h a b x y ha hb he

/-- A slot whose grid is changed with its entry, its role and its tag kept. -/
theorem PoolLawful.keep (i : SlotIx) (f : HeldGrid → HeldGrid)
    (hf : ∀ g, (f g).entry = g.entry ∧ (f g).role = g.role ∧ (f g).grid.tag = g.grid.tag) (h : PoolLawful p) :
    PoolLawful (p.set i (p[i].map f)) := by
  cases hg : p[i] with
  | none => rw [Option.map_none]; exact h.free i
  | some g =>
    rw [Option.map_some]
    obtain ⟨e1, e2, e3⟩ := hf g
    refine h.put i _ fun j k hj hk he => ?_
    rw [e1] at he
    rw [e2, e3]
    have a := h j i k g hk hg he
    have b := h i j g k hg hk he.symm
    exact ⟨fun q => hj (a.1 q), b.2.1, b.2.2, a.2.1, a.2.2⟩

/-- Every slot of an entry freed. -/
theorem PoolLawful.freeEntry (e : EntryIx) (h : PoolLawful p) :
    PoolLawful (p.map fun g =>
      match g with
      | some x => if x.entry == e then none else some x
      | none => none) := by
  have inv : ∀ (i : SlotIx) (g : HeldGrid), (p.map fun g =>
      match g with
      | some x => if x.entry == e then none else some x
      | none => none)[i] = some g → p[i] = some g := by
    intro i g hg
    rw [Fin.getElem_fin, Vector.getElem_map] at hg
    rw [Fin.getElem_fin]
    split at hg
    · rename_i x hx
      split at hg
      · cases hg
      · rw [hx, hg]
    · cases hg
  intro a b g k ha hb
  exact h a b g k (inv a g ha) (inv b k hb)

end Lawful

/-! ### What leaves the pool alone -/

@[simp] theorem modEntry_pool (i : EntryIx) (f : Entry → Entry) (s : State) : (modEntry i f s).pool = s.pool := by
  unfold modEntry; split <;> rfl

@[simp] theorem offerLowest_pool (e : EntryIx) (s : State) : (offerLowest e s).pool = s.pool := by
  unfold offerLowest; split
  · dsimp only; split
    · simp
    · rfl
  · rfl

theorem foldl_pool {α : Type} (f : State → α → State) (hf : ∀ s a, (f s a).pool = s.pool) (l : List α) (s : State) :
    (l.foldl f s).pool = s.pool := by
  induction l generalizing s with
  | nil => rfl
  | cons a l ih => exact (ih _).trans (hf s a)

@[simp] theorem leaveControl_pool (g : ControlEntry → Bool) (s : State) : (leaveControl g s).pool = s.pool := by
  unfold leaveControl; dsimp only; split
  · rfl
  · split
    · exact (foldl_pool _ (fun u _ => foldl_pool _ (fun v e => offerLowest_pool e v) _ u) _ _).trans rfl
    · rfl

@[simp] theorem endIssue_pool (e : EntryIx) (st : IssueState) (s : State) : (endIssue e st s).pool = s.pool := by
  unfold endIssue; simp

@[simp] theorem bumpBy_pool (c : Counter) (n : Nat) (s : State) : (bumpBy c n s).pool = s.pool := by
  induction n generalizing s with
  | zero => rfl
  | succ n ih => exact (ih _).trans rfl

@[simp] theorem recompute_pool (s : State) : (recompute s).pool = s.pool := by
  unfold recompute; dsimp only; split <;> simp

@[simp] theorem gridNotice_pool (e : EntryIx) (s : State) : (gridNotice e s).pool = s.pool := by
  unfold gridNotice; split
  · rfl
  · dsimp only; split <;> rfl

theorem activeNotice_pool (e : EntryIx) (s : State) : (activeNotice e s).pool = s.pool := by unfold activeNotice; simp

/-- R104: what replacing the pending grid leaves in the pool. -/
theorem dropPending_pool (e : EntryIx) (s : State) :
    (dropPending e s).pool = match s.roleSlot e .rxPending with
      | some i => s.pool.set i none
      | none => s.pool := by
  unfold dropPending; cases s.roleSlot e .rxPending <;> simp

theorem freeRole_pool (e : EntryIx) (r : Role) (s : State) :
    (freeRole e r s).pool = match s.roleSlot e r with
      | some i => s.pool.set i none
      | none => s.pool := by
  unfold freeRole; cases s.roleSlot e r <;> simp

/-- A slot of the pool once the slot of a role has been freed: FREE, or as it was and not of that role. -/
theorem freed_slot {s : State} (h : PoolLawful s.pool) {e : EntryIx} {r : Role} {p : Vector (Option HeldGrid) 48}
    (hp : p = match s.roleSlot e r with
      | some i => s.pool.set i none
      | none => s.pool) {j : SlotIx} {k : HeldGrid} (hk : p[j] = some k) :
    s.pool[j] = some k ∧ (k.entry = e → k.role ≠ r) := by
  cases hr : s.roleSlot e r with
  | none =>
    rw [hr] at hp; subst hp
    exact ⟨hk, roleSlot_none hr hk⟩
  | some i =>
    rw [hr] at hp; subst hp
    have nj : j ≠ i := fun q => by rw [q, pool_set_self] at hk; cases hk
    rw [pool_set_ne _ _ nj] at hk
    obtain ⟨g, hg, he, hrole⟩ := roleSlot_some hr
    exact ⟨hk, fun ke kr => nj ((h j i k g hk hg (ke.trans he.symm)).1 (kr.trans hrole.symm))⟩

theorem roleGrid_of_slot {s : State} {e : EntryIx} {r : Role} {j : SlotIx} {k : HeldGrid} (h : PoolLawful s.pool)
    (hk : s.pool[j] = some k) (he : k.entry = e) (hr : k.role = r) : s.roleGrid e r = some k.grid := by
  unfold State.roleGrid
  cases hs : s.roleSlot e r with
  | none => exact absurd hr (roleSlot_none hs hk he)
  | some i =>
    obtain ⟨g, hg, ge, gr⟩ := roleSlot_some hs
    have : i = j := (h i j g k hg hk (ge.trans he.symm)).1 (gr.trans hr.symm)
    subst this
    dsimp only
    rw [hk]; rfl

/-- R103: a tag that passes over at most two differs from both. -/
theorem chooseTag_not_mem (next : Byte) (a b : Option Byte) : chooseTag next (a.toList ++ b.toList) ∉ a.toList ++ b.toList := by
  have ne : ∀ t : Byte, tagAfter t ≠ t := by decide +kernel
  have ne2 : ∀ t : Byte, tagAfter (tagAfter t) ≠ t := by decide +kernel
  unfold chooseTag
  cases a <;> cases b
  · simp
  all_goals
    simp only [Option.toList_none, Option.toList_some, List.nil_append, List.append_nil, List.singleton_append, List.contains_cons,
      List.contains_nil, Bool.or_false, beq_iff_eq, Bool.or_eq_true, List.mem_cons, List.not_mem_nil, or_false]
    (repeat' split) <;> grind

end Sys2Proof.Machine
end

