-- ==== Sys2Proof/Laws/Inner.lean ====
section
/-! SUPPORT. The footprint of the operations below the medium access controller: what the station table, the grid store, the builder,
the segment engine and the queue and bridge unit leave alone. One lemma per operation. -/

namespace Sys2Proof.Machine

/-- `t` differs from `s` only in what those operations write: the clock, the tracker, the line, the MAC record, the thermal guard,
the settings, the queue of commands and the port (its delivery list apart) are those of `s`, and the control list keeps its
bound and the pool the bounds of `PoolLawful`. -/
structure Inner (s t : State) : Prop where
  lineTime : t.lineTime = s.lineTime
  held : t.held = s.held
  startUp : t.startUp = s.startUp
  listening : t.listening = s.listening
  tracker : t.tracker = s.tracker
  line : t.line = s.line
  mac : t.mac = s.mac
  thermal : t.thermal = s.thermal
  restart : t.restart = s.restart
  settings : t.settings = s.settings
  pending : t.pending = s.pending
  raised : t.raised = s.raised
  draws : t.draws = s.draws
  port : t.port = { s.port with delivery := t.port.delivery }
  control : s.control.length ≤ 16 → t.control.length ≤ 16
  pool : PoolLawful s.pool → PoolLawful t.pool

theorem Inner.refl (s : State) : Inner s s := by constructor <;> first | rfl | exact id

theorem Inner.trans {s t u : State} (h : Inner s t) (k : Inner t u) : Inner s u where
  lineTime := k.lineTime.trans h.lineTime
  held := k.held.trans h.held
  startUp := k.startUp.trans h.startUp
  listening := k.listening.trans h.listening
  tracker := k.tracker.trans h.tracker
  line := k.line.trans h.line
  mac := k.mac.trans h.mac
  thermal := k.thermal.trans h.thermal
  restart := k.restart.trans h.restart
  settings := k.settings.trans h.settings
  pending := k.pending.trans h.pending
  raised := k.raised.trans h.raised
  draws := k.draws.trans h.draws
  port := by rw [k.port, h.port]
  control := fun c => k.control (h.control c)
  pool := fun c => k.pool (h.pool c)

/-- A state that shares every field `Inner` speaks of. -/
theorem Inner.of_fields {s t : State} (h : t = { s with
    estimator := t.estimator, table := t.table, note := t.note, inFlight := t.inFlight, queues := t.queues,
    holdsCandidate := t.holdsCandidate, addressMap := t.addressMap, counters := t.counters, attention := t.attention,
    nextFrameId := t.nextFrameId, evalDue := t.evalDue }) : Inner s t := by
  rw [h]; constructor <;> first | rfl | exact id

section Basic
variable {s t : State}

theorem Inner.bump (c : Counter) (h : Inner s t) : Inner s (bump c t) := h.trans (.of_fields rfl)
theorem Inner.setEntry (i : EntryIx) (e : Option Entry) (h : Inner s t) : Inner s (setEntry i e t) := h.trans (.of_fields rfl)
theorem Inner.setSlot (i : SlotIx) (g : Option HeldGrid) (hp : PoolLawful t.pool → PoolLawful (t.pool.set i g)) (h : Inner s t) :
    Inner s (setSlot i g t) :=
  h.trans ⟨rfl, rfl, rfl, rfl, rfl, rfl, rfl, rfl, rfl, rfl, rfl, rfl, rfl, rfl, id, hp⟩
theorem Inner.setMap (i : MapIx) (m : Option MapEntry) (h : Inner s t) : Inner s (setMap i m t) := h.trans (.of_fields rfl)
theorem Inner.setQueue (q : QueueIx) (fs : List HostFrame) (h : Inner s t) : Inner s (setQueue q fs t) :=
  h.trans (.of_fields rfl)
theorem Inner.markEval (h : Inner s t) : Inner s (markEval t) := h.trans (.of_fields rfl)
theorem Inner.raisePoolExhausted (h : Inner s t) : Inner s (raisePoolExhausted t) := h.trans (.of_fields rfl)
theorem Inner.raiseTableFull (h : Inner s t) : Inner s (raiseTableFull t) := h.trans (.of_fields rfl)
theorem Inner.raiseRelayDrop (h : Inner s t) : Inner s (raiseRelayDrop t) := h.trans (.of_fields rfl)
theorem Inner.freeAllRoles (e : EntryIx) (h : Inner s t) : Inner s (freeAllRoles e t) :=
  h.trans ⟨rfl, rfl, rfl, rfl, rfl, rfl, rfl, rfl, rfl, rfl, rfl, rfl, rfl, rfl, id, fun k => k.freeEntry e⟩
theorem Inner.forgetStation (a : Addr) (h : Inner s t) : Inner s (forgetStation a t) := h.trans (.of_fields rfl)

theorem Inner.bumpBy (c : Counter) (n : Nat) (h : Inner s t) : Inner s (bumpBy c n t) := by
  induction n generalizing t with
  | zero => exact h
  | succ n ih => exact ih (h.bump c)

theorem Inner.bumpOpt (c : Option Counter) (h : Inner s t) : Inner s (bumpOpt c t) := by
  cases c with
  | none => exact h
  | some c => exact h.bump c

theorem Inner.modEntry (i : EntryIx) (f : Entry → Entry) (h : Inner s t) : Inner s (modEntry i f t) := by
  unfold Machine.modEntry; split
  · exact h
  · exact h.setEntry _ _

theorem Inner.foldl {α : Type} (f : State → α → State) (hf : ∀ s a, Inner s (f s a)) (l : List α) (h : Inner s t) :
    Inner s (l.foldl f t) := by
  induction l generalizing t with
  | nil => exact h
  | cons a l ih => exact ih (h.trans (hf _ _))

theorem Inner.placeControl (c : ControlEntry) (hc : t.controlTakes c = true) (h : Inner s t) : Inner s (placeControl c t) := by
  refine h.trans ⟨rfl, rfl, rfl, rfl, rfl, rfl, rfl, rfl, rfl, rfl, rfl, rfl, rfl, rfl, fun _ => ?_, id⟩
  simp only [State.controlTakes, Bool.and_eq_true, decide_eq_true_eq] at hc
  simp only [placeControl_control, List.length_append, List.length_singleton]
  omega

theorem Inner.freeRole (e : EntryIx) (r : Role) (h : Inner s t) : Inner s (freeRole e r t) := by
  unfold Machine.freeRole; split
  · exact h.setSlot _ _ (·.free _)
  · exact h

theorem Inner.modBuild (e : EntryIx) (f : BuildRecord → BuildRecord) (h : Inner s t) : Inner s (modBuild e f t) :=
  h.modEntry _ _

theorem Inner.modRx (e : EntryIx) (f : RxState → RxState) (h : Inner s t) : Inner s (modRx e f t) := h.modEntry _ _

theorem Inner.modTx (i : EntryIx) (f : TxState → TxState) (h : Inner s t) : Inner s (modTx i f t) := by
  unfold Machine.modTx; split
  · exact h
  · dsimp only; split
    · exact (h.setEntry _ _).markEval
    · exact h.setEntry _ _

end Basic

section Table
variable {s t : State}

theorem Inner.ageCells (i : EntryIx) (w : Pair → MainsSlot → Bool) (h : Inner s t) : Inner s (ageCells i w t) := by
  unfold Machine.ageCells; split
  · exact h
  · exact (h.setEntry _ _).bumpBy _ _

theorem Inner.ageEntry (i : EntryIx) (h : Inner s t) : Inner s (ageEntry i t) := h.ageCells _ _

theorem Inner.ageAll (h : Inner s t) : Inner s (ageAll t) := h.foldl _ (fun u i => (Inner.refl u).ageEntry i) _

theorem Inner.startBuild (i : EntryIx) (c : Causes) (h : Inner s t) : Inner s (startBuild i c t) := by
  unfold Machine.startBuild; dsimp only; split
  · exact h.ageEntry i
  · split
    · exact (((h.ageEntry i).setEntry _ _).bump _).bump _
    · exact ((h.ageEntry i).setEntry _ _).bump _

theorem Inner.boostUp (i : EntryIx) (h : Inner s t) : Inner s (boostUp i t) := (h.modEntry _ _).bump _

theorem Inner.trigger (i : EntryIx) (c : Causes) (h : Inner s t) : Inner s (trigger i c t) := by
  unfold Machine.trigger; dsimp only; split
  · have h1 : Inner s (Machine.ageEntry i (if c.error then Machine.boostUp i t else t)) := by
      refine Inner.ageEntry i ?_
      split
      · exact h.boostUp i
      · exact h
    split
    · exact h1.startBuild _ _
    · exact (h1.modEntry _ _).bump _
    · exact h1
  · exact h.bump _

theorem Inner.triggerFor (a : Addr) (c : Causes) (h : Inner s t) : Inner s (triggerFor a c t) := by
  unfold Machine.triggerFor; split
  · exact h.trigger _ _
  · exact h.bump _

theorem Inner.takeRemembered (i : EntryIx) (h : Inner s t) : Inner s (takeRemembered i t) := by
  unfold Machine.takeRemembered; split
  · exact h
  · dsimp only; split
    · exact (h.modEntry _ _).startBuild _ _
    · exact (h.modEntry _ _).bump _

theorem Inner.recompute (h : Inner s t) : Inner s (recompute t) := by
  unfold Machine.recompute; dsimp only
  have h1 := (h.trans (Inner.of_fields (t := { t with table := Vector.ofFn t.rerouted }) rfl)).bumpBy .routeChanges
    ((List.finRange 24).countP fun i =>
      ((Vector.ofFn t.rerouted)[i]).map (·.route) != (t.entry i).map (·.route))
  split
  · exact h1
  · exact h1.markEval

theorem Inner.formRoute (i : EntryIx) (h : Inner s t) : Inner s (formRoute i t) := h.setEntry _ _

theorem Inner.gridNotice (i : EntryIx) (h : Inner s t) : Inner s (gridNotice i t) := by
  unfold Machine.gridNotice; split
  · exact h
  · dsimp only; split
    · exact (h.setEntry _ _).markEval
    · exact h

theorem Inner.activeNotice (i : EntryIx) (h : Inner s t) : Inner s (activeNotice i t) := (h.gridNotice i).recompute

theorem Inner.setHold (i : EntryIx) (h : Inner s t) : Inner s (setHold i t) := by
  unfold Machine.setHold; split
  · exact h
  · dsimp only; split
    · exact h.setEntry _ _
    · exact ((h.setEntry _ _).bump _).recompute

theorem Inner.clearHold (i : EntryIx) (h : Inner s t) : Inner s (clearHold i t) := by
  unfold Machine.clearHold; split
  · exact h
  · split
    · exact (h.setEntry _ _).recompute
    · exact h

theorem Inner.noResponseSend (i : EntryIx) (h : Inner s t) : Inner s (noResponseSend i t) := by
  unfold Machine.noResponseSend; split
  · exact h
  · dsimp only; split
    · exact (h.setEntry _ _).setHold _
    · exact h.setEntry _ _

theorem Inner.clearStreak (i : EntryIx) (h : Inner s t) : Inner s (clearStreak i t) := h.modEntry _ _

end Table

section Segments
variable {s t : State}

theorem Inner.applyEntry (i : EntryIx) (q : Seq) (g : Bool) (h : Inner s t) : Inner s (applyEntry i q g t) := by
  unfold Machine.applyEntry; split
  · exact h.bump _
  · split
    · dsimp only; split
      · exact (h.modTx _ _).bump _
      · exact h.modTx _ _
    · dsimp only; split
      · exact (h.modTx _ _).bump _
      · exact h.modTx _ _

theorem Inner.applyEntries (i : EntryIx) (l : List (Seq × Bool)) (h : Inner s t) : Inner s (applyEntries i l t) := by
  induction l generalizing t with
  | nil => exact h
  | cons x l ih => exact ih (h.applyEntry _ _ _)

theorem Inner.segmentResponse (es : List Bool) (h : Inner s t) : Inner s (segmentResponse es t) := by
  unfold Machine.segmentResponse; split
  · exact h.bumpBy _ _
  · exact (h.applyEntries _ _).trans (.of_fields rfl)

theorem Inner.applyNoAnswer (i : EntryIx) (q : Seq) (h : Inner s t) : Inner s (applyNoAnswer i q t) := by
  unfold Machine.applyNoAnswer; split
  · exact h
  · exact h.applyEntry _ _ _

theorem Inner.applyNoAnswers (i : EntryIx) (l : List Seq) (h : Inner s t) : Inner s (applyNoAnswers i l t) := by
  induction l generalizing t with
  | nil => exact h
  | cons x l ih => exact ih (h.applyNoAnswer _ _)

theorem Inner.segmentNoResponse (h : Inner s t) : Inner s (segmentNoResponse t) := by
  unfold Machine.segmentNoResponse; split
  · exact h
  · exact (h.applyNoAnswers _ _).trans (.of_fields rfl)

theorem Inner.expireFrame (id : Nat) (h : Inner s t) : Inner s (expireFrame id t) := by
  unfold Machine.expireFrame; split
  · exact (h.setQueue _ _).bump _
  · split
    · exact (h.modTx _ _).bump _
    · exact h

end Segments

section Control
variable {s t : State}

theorem controlTakes_modEntry (i : EntryIx) (f : Entry → Entry) (s : State) (c : ControlEntry) :
    (modEntry i f s).controlTakes c = s.controlTakes c := by
  unfold modEntry State.controlTakes; split <;> rfl

theorem Inner.offerLowest (e : EntryIx) (h : Inner s t) : Inner s (offerLowest e t) := by
  unfold Machine.offerLowest; split
  · dsimp only; split
    · refine (h.modEntry _ _).placeControl _ ?_
      rw [controlTakes_modEntry]; assumption
    · exact h
  · exact h

theorem Inner.offerIssue (e : EntryIx) (h : Inner s t) : Inner s (offerIssue e t) :=
  h.foldl _ (fun u _ => (Inner.refl u).offerLowest e) _

theorem Inner.offerAll (h : Inner s t) : Inner s (offerAll t) :=
  h.foldl _ (fun u _ => (Inner.refl u).foldl _ (fun v e => (Inner.refl v).offerLowest e) _) _

theorem Inner.leaveControl (g : ControlEntry → Bool) (h : Inner s t) : Inner s (leaveControl g t) := by
  unfold Machine.leaveControl; dsimp only
  have h1 : Inner s (Machine.markEval { t with control := t.control.filter fun c => !g c }) := by
    refine Inner.markEval (h.trans ⟨rfl, rfl, rfl, rfl, rfl, rfl, rfl, rfl, rfl, rfl, rfl, rfl, rfl, rfl, fun k => ?_, id⟩)
    exact Nat.le_trans (List.length_filter_le _ _) k
  split
  · exact h
  · split
    · exact h1.offerAll
    · exact h1

theorem Inner.placementAttempt (h : Inner s t) : Inner s (placementAttempt t) := by
  unfold Machine.placementAttempt; dsimp only; split
  · refine Inner.placeControl _ (by assumption) ?_
    exact h.trans (.of_fields rfl)
  · refine Inner.bump _ ?_
    exact h.trans (.of_fields rfl)

theorem Inner.intervalPath (h : Inner s t) : Inner s (intervalPath t) := by
  unfold Machine.intervalPath; split
  · exact h.trans (.of_fields rfl)
  · exact h.placementAttempt

theorem Inner.wantsRaised (o : Option MainsSlot) (q : SoundRequest) (h : Inner s t) : Inner s (wantsRaised o q t) := by
  have h1 : Inner s (Machine.bump .soundRequests
      { t with estimator := { t.estimator with wants := raiseWants o q t.estimator.wants } }) := by
    refine Inner.bump _ ?_
    exact h.trans (.of_fields rfl)
  unfold Machine.wantsRaised; dsimp only; split
  · exact h1.markEval
  · exact h1

theorem Inner.wantAttempt (h : Inner s t) : Inner s (wantAttempt t) := by
  unfold Machine.wantAttempt; split
  · exact h.placementAttempt
  · exact h

theorem Inner.soundRequested (o : Option MainsSlot) (q : SoundRequest) (h : Inner s t) : Inner s (soundRequested o q t) :=
  (h.wantsRaised o q).wantAttempt

theorem Inner.soundSent (p : Pair) (a : LineTime) (h : Inner s t) : Inner s (soundSent p a t) := h.trans (.of_fields rfl)
theorem Inner.noteSent (h : Inner s t) : Inner s (noteSent t) := h.trans (.of_fields rfl)

end Control

section GridStore
variable {s t : State}

theorem Inner.endIssue (e : EntryIx) (st : IssueState) (h : Inner s t) : Inner s (endIssue e st t) :=
  (h.modEntry _ _).leaveControl _

theorem Inner.dropPending (e : EntryIx) (h : Inner s t) : Inner s (dropPending e t) := by
  unfold Machine.dropPending; split
  · exact (h.setSlot _ _ (·.free _)).endIssue _ _
  · exact h

/-- A slot written so that the pool keeps its bounds. -/
theorem Inner.writeSlot {u : State} (i : SlotIx) (g : Option HeldGrid) (h : Inner t u)
    (hp : PoolLawful t.pool → PoolLawful (u.pool.set i g)) : Inner t (Machine.setSlot i g u) :=
  ⟨h.lineTime, h.held, h.startUp, h.listening, h.tracker, h.line, h.mac, h.thermal, h.restart, h.settings, h.pending, h.raised,
    h.draws, h.port, h.control, hp⟩

/-- R103, R104: the slot that an issue takes. -/
theorem issue_pool {t : State} (ht : PoolLawful t.pool) {e : EntryIx} {i : SlotIx} {g : HeldGrid} (next : Byte)
    (he : g.entry = e) (hr : g.role = .rxPending) (hg : g.grid.tag = chooseTag next (t.rxTags e)) :
    PoolLawful ((dropPending e t).pool.set i (some g)) := by
  have hd : PoolLawful (dropPending e t).pool := ((Inner.refl t).dropPending e).pool ht
  refine hd.put i g fun j k hj hk ke => ?_
  obtain ⟨hk, hn⟩ := freed_slot ht (dropPending_pool e t) hk
  rw [he] at ke
  rw [hr]
  refine ⟨hn ke, fun _ kr => ?_, (fun q => by cases q), (fun q => absurd q (hn ke)), (fun _ q => by cases q)⟩
  have hc := roleGrid_of_slot ht hk ke kr
  have hm := chooseTag_not_mem next ((t.roleGrid e .rxCurrent).map (·.tag)) ((t.roleGrid e .rxPending).map (·.tag))
  intro q
  apply hm
  rw [hg] at q
  have q' : chooseTag next (t.rxTags e) = k.grid.tag := q
  unfold State.rxTags at q'
  rw [q', hc]
  simp

theorem Inner.issueGrid (e : EntryIx) (b : BuiltGrid) (h : Inner s t) : Inner s (issueGrid e b t) := by
  refine h.trans ?_
  unfold Machine.issueGrid; split
  · exact .refl t
  · dsimp only; split
    · exact (((Inner.refl t).dropPending e).bump _).raisePoolExhausted
    · exact ((((Inner.refl t).dropPending e).writeSlot _ _ fun ht => issue_pool ht _ rfl rfl rfl).modEntry _ _).offerIssue _

theorem Inner.dealWithResult (e : EntryIx) (c : Causes) (r : Option BuiltGrid) (h : Inner s t) :
    Inner s (dealWithResult e c r t) := by
  unfold Machine.dealWithResult; split
  · split
    · exact ((h.bump _).issueGrid _ _).modBuild _ _
    · exact (h.bump _).modBuild _ _
  · exact (h.bump _).modBuild _ _

theorem Inner.completeBuild (e : EntryIx) (h : Inner s t) : Inner s (completeBuild e t) := by
  unfold Machine.completeBuild; split
  · exact ((h.dealWithResult _ _ _).modBuild _ _).takeRemembered _
  · exact h

theorem Inner.rebuildDue (e : EntryIx) (h : Inner s t) : Inner s (rebuildDue e t) := by
  unfold Machine.rebuildDue; split
  · exact h
  · dsimp only; split
    · exact (h.modBuild _ _).trigger _ _
    · split
      · exact h.modBuild _ _
      · split
        · exact (h.modBuild _ _).trigger _ _
        · exact h.modBuild _ _

/-- R112, R116: the slot of an entry's new grid takes the role of the old one, which has been freed. -/
theorem retake_pool {t : State} (ht : PoolLawful t.pool) {e : EntryIx} {i : SlotIx} {new old : Role} (hi : t.roleSlot e new = some i)
    (hro : (new = .rxPending ∧ old = .rxCurrent) ∨ (new = .txAssembling ∧ old = .txActive)) (f : HeldGrid → HeldGrid)
    (hf : ∀ g, (f g).entry = g.entry ∧ (f g).role = old ∧ (f g).grid.tag = g.grid.tag) :
    PoolLawful ((freeRole e old t).pool.set i ((freeRole e old t).pool[i].map f)) := by
  have hd : PoolLawful (freeRole e old t).pool := ((Inner.refl t).freeRole e old).pool ht
  cases hg : (freeRole e old t).pool[i] with
  | none => exact hd.free i
  | some g =>
    obtain ⟨gi, -⟩ := freed_slot ht (freeRole_pool e old t) hg
    obtain ⟨g', gi', ge, gr⟩ := roleSlot_some hi
    rw [gi] at gi'; cases gi'
    obtain ⟨f1, f2, f3⟩ := hf g
    refine hd.put i _ fun j k hj hk ke => ?_
    obtain ⟨kj, kn⟩ := freed_slot ht (freeRole_pool e old t) hk
    rw [f1] at ke
    rw [f2]
    have kne : k.role ≠ new := fun q => hj (ht j i k g kj gi ke |>.1 (q.trans gr.symm))
    refine ⟨kn (ke.trans ge), ?_, ?_, ?_, ?_⟩
    · intro q; rcases hro with ⟨-, rfl⟩ | ⟨-, rfl⟩ <;> cases q
    · intro q; rcases hro with ⟨-, rfl⟩ | ⟨-, rfl⟩ <;> cases q
    · rcases hro with ⟨rfl, rfl⟩ | ⟨rfl, rfl⟩
      · exact fun q => absurd q kne
      · exact fun _ q => by cases q
    · rcases hro with ⟨rfl, rfl⟩ | ⟨rfl, rfl⟩
      · exact fun _ q => by cases q
      · exact fun q => absurd q kne

theorem Inner.promote (e : EntryIx) (b : Bool) (h : Inner s t) : Inner s (promote e b t) := by
  refine h.trans ?_
  unfold Machine.promote; split
  · exact .refl t
  · rename_i i hi
    dsimp only
    refine Inner.gridNotice e ?_
    have k := ((Inner.refl t).freeRole e .rxCurrent).writeSlot i _ fun ht =>
      retake_pool ht hi (.inl ⟨rfl, rfl⟩) (fun g => { g with role := .rxCurrent }) fun _ => ⟨rfl, rfl, rfl⟩
    split
    · exact ((k.endIssue _ _).bump _).bump _
    · exact (k.endIssue _ _).bump _

theorem Inner.abandonmentTrigger (e : EntryIx) (h : Inner s t) : Inner s (abandonmentTrigger e t) := by
  unfold Machine.abandonmentTrigger; split
  · exact h
  · split
    · exact h.bump _
    · exact h.trigger _ _

theorem Inner.abandonIssue (e : EntryIx) (h : Inner s t) : Inner s (abandonIssue e t) :=
  (((h.freeRole _ _).endIssue _ _).bump _).abandonmentTrigger e

theorem Inner.withdrawIssue (e : EntryIx) (h : Inner s t) : Inner s (withdrawIssue e t) :=
  ((h.freeRole _ _).endIssue _ _).bump _

theorem Inner.partNotTaken (e : EntryIx) (p : PartRecord) (h : Inner s t) : Inner s (partNotTaken e p t) := by
  unfold Machine.partNotTaken; dsimp only; split
  · exact (h.modEntry _ _).abandonIssue _
  · exact h.modEntry _ _

theorem Inner.partAccepted (e : EntryIx) (g : Byte) (p : PartRecord) (h : Inner s t) : Inner s (partAccepted e g p t) := by
  unfold Machine.partAccepted; dsimp only; split
  · exact ((h.modEntry _ _).leaveControl _).promote _ _
  · exact (h.modEntry _ _).leaveControl _

theorem Inner.partAnswered (c : Option ControlEntry) (st : RespStatus) (h : Inner s t) : Inner s (partAnswered c st t) := by
  unfold Machine.partAnswered; split
  · split
    · exact h
    · split
      · exact h.partAccepted _ _ _
      · exact h.partNotTaken _ _
      · exact (h.bump _).partNotTaken _ _
      · exact h.withdrawIssue _
  · exact h

theorem Inner.partNoResponse (c : Option ControlEntry) (h : Inner s t) : Inner s (partNoResponse c t) := by
  unfold Machine.partNoResponse; split
  · split
    · exact h
    · exact (h.bump _).partNotTaken _ _
  · exact h

theorem Inner.promoteByData (e : EntryIx) (r : Resolution) (h : Inner s t) : Inner s (promoteByData e r t) := by
  unfold Machine.promoteByData; split
  · split
    · exact h.promote _ _
    · exact h
  all_goals exact h

theorem Inner.freeAssemblyIf (e : EntryIx) (c : Grid → Bool) (h : Inner s t) : Inner s (freeAssemblyIf e c t) := by
  unfold Machine.freeAssemblyIf; split
  · split
    · exact h.freeRole _ _
    · exact h
  · exact h

theorem Inner.commit (e : EntryIx) (h : Inner s t) : Inner s (commit e t) := by
  refine h.trans ?_
  unfold Machine.commit; split
  · exact .refl t
  · rename_i i hi
    dsimp only
    refine Inner.activeNotice e (Inner.bump _ ?_)
    exact ((Inner.refl t).freeRole e .txActive).writeSlot i _ fun ht =>
      retake_pool ht hi (.inr ⟨rfl, rfl⟩)
        (fun h => { h with role := .txActive, grid := { h.grid with
          rate := gridRate h.grid.columns h.grid.map, issueTime := (Machine.freeRole e .txActive t).lineTime } })
        fun _ => ⟨rfl, rfl, rfl⟩

/-- R103, R115: an assembly opened beside no TX-ACTIVE grid of its tag. -/
theorem Inner.openAssembly (e : EntryIx) (p : GridPart)
    (hp : PoolLawful s.pool → ∀ g, t.roleGrid e .txActive = some g → g.tag ≠ p.tag) (h : Inner s t) :
    Inner s (openAssembly e p t) := by
  unfold Machine.openAssembly; split
  · rename_i i hn hi
    refine h.writeSlot _ _ fun hs => (h.pool hs).put i _ fun j k hj hk ke => ?_
    refine ⟨roleSlot_none hn hk ke, (fun q => by cases q), (fun _ kr q => ?_), (fun _ q => by cases q), (fun _ q => by cases q)⟩
    exact hp hs _ (roleGrid_of_slot (h.pool hs) hk ke kr) q.symm
  · exact h

theorem Inner.storeColumn (e : EntryIx) (p : GridPart) (x : SlotIx) (h : Inner s t) : Inner s (storeColumn e p x t) := by
  have k := h.setSlot x (t.pool[x].map fun h => { h with grid := h.grid.store p })
    fun ht => ht.keep x (fun h => { h with grid := h.grid.store p }) fun _ => ⟨rfl, rfl, rfl⟩
  unfold Machine.storeColumn; dsimp only; split
  · exact k.commit _
  · exact k

/-- Freeing a slot of another role leaves the grid of a role no other grid. -/
theorem roleGrid_freeRole {e : EntryIx} {r q : Role} {g : Grid} (ht : PoolLawful t.pool)
    (h : (Machine.freeRole e q t).roleGrid e r = some g) : t.roleGrid e r = some g := by
  unfold State.roleGrid at h
  split at h
  · rename_i i hi
    obtain ⟨k, hk, ke, kr⟩ := roleSlot_some hi
    obtain ⟨hk', -⟩ := freed_slot ht (freeRole_pool e q t) hk
    rw [hk, Option.map_some] at h
    cases h
    exact roleGrid_of_slot ht hk' ke kr
  · cases h

theorem roleGrid_freeAssemblyIf {e : EntryIx} {r : Role} {c : Grid → Bool} {g : Grid} (ht : PoolLawful t.pool)
    (h : (Machine.freeAssemblyIf e c t).roleGrid e r = some g) : t.roleGrid e r = some g := by
  unfold Machine.freeAssemblyIf at h
  split at h
  · split at h
    · exact roleGrid_freeRole ht h
    · exact h
  · exact h

theorem roleGrid_freed {e : EntryIx} {r : Role} (ht : PoolLawful t.pool) : (Machine.freeRole e r t).roleGrid e r = none := by
  unfold State.roleGrid
  split
  · rename_i i hi
    obtain ⟨k, hk, ke, kr⟩ := roleSlot_some hi
    exact absurd kr ((freed_slot ht (freeRole_pool e r t) hk).2 ke)
  · rfl

theorem roleGrid_congr {u v : State} (h : u.pool = v.pool) {e : EntryIx} {r : Role} : u.roleGrid e r = v.roleGrid e r := by
  unfold State.roleGrid State.roleSlot; rw [h]

theorem Inner.storePart (e : EntryIx) (p : GridPart)
    (hp : PoolLawful s.pool → ∀ g, t.roleGrid e .txActive = some g → g.tag ≠ p.tag) (h : Inner s t) :
    Inner s (storePart e p t).2 := by
  have k := (h.freeAssemblyIf e fun g => g.tag != p.tag || !p.sameGrid g).openAssembly e p fun hs g hg =>
    hp hs g (roleGrid_freeAssemblyIf (h.pool hs) hg)
  unfold Machine.storePart; dsimp only; split
  · exact k.bump _
  · exact k.storeColumn _ _ _

theorem Inner.takePart (e : EntryIx) (p : GridPart) (h : Inner s t) : Inner s (takePart e p t).2 := by
  unfold Machine.takePart; split
  · exact (h.freeAssemblyIf _ _).bump _
  · split
    · rename_i g hg
      split
      · split
        · exact h
        · refine ((h.freeRole e .txActive).activeNotice e).storePart _ _ fun hs x hx => ?_
          rw [roleGrid_congr (activeNotice_pool e _), roleGrid_freed (h.pool hs)] at hx
          cases hx
      · rename_i hne
        exact h.storePart _ _ fun _ x hx => by rw [hg] at hx; cases hx; exact hne
    · rename_i hn
      exact h.storePart _ _ fun _ x hx => by rw [hn] at hx; cases hx

theorem Inner.gridUnknownReceived (e : EntryIx) (g : Byte) (h : Inner s t) : Inner s (gridUnknownReceived e g t) := by
  unfold Machine.gridUnknownReceived; split
  · split
    · exact ((h.freeRole _ _).bump _).activeNotice _
    · exact h
  · exact h

end GridStore

section Queues
variable {s t : State}

theorem Inner.admission (f : HostFrame) (h : Inner s t) : Inner s (admission f t).2 := by
  unfold Machine.admission; dsimp only; split
  · exact h.bump _
  · split
    · exact h.bump _
    · refine Inner.setQueue _ _ ?_
      exact h.trans (.of_fields rfl)

theorem Inner.dropUnreachable (q : QueueIx) (h : Inner s t) : Inner s (dropUnreachable q t) := by
  unfold Machine.dropUnreachable; dsimp only; split
  · exact h
  · exact (h.setQueue _ _).bumpBy _ _

theorem Inner.searchQueues (l : List QueueIx) (h : Inner s t) : Inner s (searchQueues l t).2 := by
  induction l generalizing t with
  | nil => exact h
  | cons q l ih =>
    unfold Machine.searchQueues; dsimp only
    split
    · exact h.dropUnreachable q
    · exact ih (h.dropUnreachable q)

theorem Inner.findCandidate (h : Inner s t) : Inner s (findCandidate t).2 := by
  unfold Machine.findCandidate; split
  · exact h
  · have h1 := h.searchQueues t.settings.queueOrder
    split
    · rename_i e; rw [e] at h1; exact h1
    · rename_i e; rw [e] at h1; exact h1

theorem Inner.candidateRequest (h : Inner s t) : Inner s (candidateRequest t).2 :=
  h.findCandidate.trans (.of_fields rfl)

theorem Inner.learnMap (a : Addr) (g : MapTarget) (h : Inner s t) : Inner s (learnMap a g t) := by
  unfold Machine.learnMap; dsimp only; split
  · split
    · exact (h.setMap _ _).bump _
    · exact h.setMap _ _
  · split
    · exact h.setMap _ _
    · exact (h.setMap _ _).bump _

theorem Inner.offerCopy (q : QueueIx) (b : List Byte) (a : Addr) (h : Inner s t) : Inner s (offerCopy q b a t) := by
  unfold Machine.offerCopy
  have h1 := h.admission (t.carriage a q b)
  split
  · rename_i e; rw [e] at h1; exact h1.bump _
  · rename_i e; rw [e] at h1; exact h1.bump _

theorem Inner.replicate (q : QueueIx) (b : List Byte) (h : Inner s t) : Inner s (replicate q b t) := by
  unfold Machine.replicate; dsimp only; split
  · exact h.bump _
  · exact (h.bump _).foldl _ (fun u a => (Inner.refl u).offerCopy q b a) _

theorem Inner.learnSource (a : Addr) (h : Inner s t) : Inner s (learnSource a t) := by
  unfold Machine.learnSource; split
  · exact h
  · exact h.learnMap _ _

theorem Inner.hostFrame (b : List Byte) (h : Inner s t) : Inner s (hostFrame b t) := by
  unfold Machine.hostFrame; dsimp only; split
  · exact (h.learnSource _).replicate _ _
  · split
    · exact (h.learnSource _).replicate _ _
    · split
      · exact (h.learnSource _).bump _
      · exact (h.learnSource _).admission _

theorem Inner.relayDrop (h : Inner s t) : Inner s (relayDrop t) := (h.bump _).raiseRelayDrop

theorem Inner.relay (o f : Addr) (n : Nat) (q : QueueIx) (b : List Byte) (h : Inner s t) : Inner s (relay o f n q b t) := by
  unfold Machine.relay; split
  · have h1 := h.admission { id := 0, origin := o, final := f, hop := 1, queue := q, eth := b, expiry := 0#32 }
    split
    · rename_i e; rw [e] at h1; exact h1.bump _
    · rename_i e; rw [e] at h1; exact h1.relayDrop
  · exact h.relayDrop

theorem Inner.deliver (o : Addr) (b : List Byte) (c : Nat) (h : Inner s t) : Inner s (deliver o b c t) := by
  unfold Machine.deliver; dsimp only
  have h1 : Inner s { t with port := { t.port with delivery := t.port.delivery ++ [{ eth := b, charge := c }] } } :=
    h.trans ⟨rfl, rfl, rfl, rfl, rfl, rfl, rfl, rfl, rfl, rfl, rfl, rfl, rfl, rfl, id, id⟩
  split
  · exact (h1.bump _).learnMap _ _
  · exact h1.bump _

theorem Inner.inspect (j : JoinedPieces) (h : Inner s t) : Inner s (inspect j t) := by
  unfold Machine.inspect; dsimp only; split
  · split
    · exact h.bump _
    · split
      · exact h.deliver _ _ _
      · exact h.relay _ _ _ _ _
  · exact h.bump _

end Queues

section Receive
variable {s t : State}

theorem Inner.deliverOne (i : EntryIx) (h : Inner s t) : Inner s (deliverOne i t) := by
  unfold Machine.deliverOne; split
  · exact h
  · split
    · exact h
    · split
      · exact h
      · dsimp only; split
        · exact (((h.setEntry _ _).bumpOpt _).bump _).inspect _
        · exact (h.setEntry _ _).bumpOpt _

theorem Inner.deliverAll (i : EntryIx) (h : Inner s t) : Inner s (deliverAll i t) :=
  h.foldl _ (fun u _ => (Inner.refl u).deliverOne i) _

theorem Inner.judgeIntact (i : EntryIx) (q : Seq) (a b : Bool) (p : List Byte) (h : Inner s t) :
    Inner s (judgeIntact i q a b p t).2 := by
  unfold Machine.judgeIntact; split
  · exact h
  · split
    · exact h.bump _
    · split
      · split
        · exact h.bump _
        · split
          · exact (h.modRx _ _).deliverAll _
          · exact h.bump _
      · exact h.bump _

theorem Inner.judgeAll (i : EntryIx) (l : List RxSegment) (h : Inner s t) : Inner s (judgeAll i l t).2 := by
  induction l generalizing t with
  | nil => exact h
  | cons x l ih =>
    cases x with
    | damaged q => exact ih (h.bump _)
    | intact q a b p => exact ih (h.judgeIntact i q a b p)

theorem Inner.enterVerdict (i : EntryIx) (g : Bool) (h : Inner s t) : Inner s (enterVerdict i g t) := by
  unfold Machine.enterVerdict; split
  · exact h
  · dsimp only; split
    · exact ((h.modRx _ _).bump _).trigger _ _
    · exact h.modRx _ _

theorem Inner.takeData (i : EntryIx) (f : Seq) (l : List RxSegment) (h : Inner s t) : Inner s (takeData i f l t).2 := by
  unfold Machine.takeData; dsimp only
  refine Inner.foldl _ (fun u x => (Inner.refl u).enterVerdict _ _) _ (Inner.judgeAll _ _ (Inner.deliverAll _ ?_))
  split
  · exact (h.modRx _ _).bumpOpt _
  · exact h

end Receive

section Stations
variable {s t : State}

theorem Inner.discardBuild (i : EntryIx) (h : Inner s t) : Inner s (discardBuild i t) := by
  unfold Machine.discardBuild; split
  · exact h.bump _
  · exact h

theorem Inner.removeEntry (i : EntryIx) (h : Inner s t) : Inner s (removeEntry i t) := by
  unfold Machine.removeEntry; split
  · exact h
  · dsimp only
    refine Inner.recompute (Inner.markEval (Inner.forgetStation _ (Inner.leaveControl _ ?_)))
    exact (((h.discardBuild i).setEntry _ _).freeAllRoles _).trans (.of_fields rfl)

theorem Inner.createEntry (i : EntryIx) (e : Entry) (h : Inner s t) : Inner s (createEntry i e t) :=
  ((((h.setEntry _ _).formRoute _).recompute).bump _).markEval

theorem Inner.hearAgain (i : EntryIx) (b : Bool) (h : Inner s t) : Inner s (hearAgain i b t) := by
  unfold Machine.hearAgain; split
  · exact h
  · dsimp only; split
    · exact h.setEntry _ _
    · exact (h.setEntry _ _).markEval.recompute

theorem Inner.learn (a : Addr) (b : Bool) (h : Inner s t) : Inner s (learn a b t) := by
  unfold Machine.learn; split
  · exact h.hearAgain _ _
  · split
    · exact h.createEntry _ _
    · split
      · exact ((h.removeEntry _).createEntry _ _).bump _
      · exact (h.bump _).raiseTableFull

theorem Inner.nameStation (x a : Addr) (h : Inner s t) : Inner s (nameStation x a t) := by
  unfold Machine.nameStation; split
  · exact h
  · split
    · exact h.modEntry _ _
    · split
      · exact h.createEntry _ _
      · exact h.bump _

theorem Inner.noteIntake (i : EntryIx) (x : Addr) (n : NotePayload) (h : Inner s t) : Inner s (noteIntake i x n t) := by
  unfold Machine.noteIntake; dsimp only
  refine Inner.bump _ (Inner.recompute (Inner.foldl _ (fun u y => (Inner.refl u).nameStation _ _) _ ?_))
  split
  · exact ((h.bumpBy _ _).modEntry _ _).soundRequested _ _
  · exact (h.bumpBy _ _).modEntry _ _

theorem Inner.ageOut (i : EntryIx) (h : Inner s t) : Inner s (ageOut i t) := by
  unfold Machine.ageOut; split
  · exact h
  · split
    · exact ((h.setEntry _ _).bump _).markEval.recompute
    · exact (h.removeEntry _).bump _

theorem Inner.offerNote (h : Inner s t) : Inner s (offerNote t) := by
  unfold Machine.offerNote; split
  · exact h
  · split
    · refine Inner.placeControl _ (by assumption) ?_
      exact h.trans (.of_fields rfl)
    · exact h.bump _

theorem Inner.moveNoteDeadline (h : Inner s t) : Inner s (moveNoteDeadline t) := h.trans (.of_fields rfl)

theorem Inner.noteDue (h : Inner s t) : Inner s (noteDue t) := h.ageAll.offerNote.moveNoteDeadline

theorem Inner.takeOffsetSample (i : EntryIx) (a : Nat) (b : Bool) (c : Nat) (d : Bool) (h : Inner s t) :
    Inner s (takeOffsetSample i a b c d t) := by
  unfold Machine.takeOffsetSample; split
  · split
    · exact h.bump _
    · exact h.modEntry _ _
  · exact h

theorem Inner.sampleHeader (r : Reception) (x : Header) (h : Inner s t) : Inner s (sampleHeader r x t) := by
  unfold Machine.sampleHeader; split
  iterate 2
    split
    · exact h.takeOffsetSample _ _ _ _ _
    · exact h
  all_goals exact h

theorem Inner.soundSample (i : EntryIx) (p : Pair) (b : Bool) (l : List MainsSlot) (r : List (List Int)) (h : Inner s t) :
    Inner s (soundSample i p b l r t) := by
  unfold Machine.soundSample; split
  · split
    · dsimp only; split
      · exact ((((h.ageCells _ _).modEntry _ _).bump _).bump _).trigger _ _
      · exact ((h.ageCells _ _).modEntry _ _).bump _
    · exact h.bump _
  · exact h

theorem Inner.noteEnd (x : Header) (b : List Byte) (h : Inner s t) : Inner s (noteEnd x b t) := by
  unfold Machine.noteEnd; split
  · exact h
  · split
    · exact h.bump _
    · exact h.noteIntake _ _ _

theorem Inner.soundEnd (r : Reception) (x : Header) (l : List (List Int)) (h : Inner s t) : Inner s (soundEnd r x l t) := by
  unfold Machine.soundEnd; split
  · exact h
  · exact h.soundSample _ _ _ _ _

theorem Inner.holdByStatus (i : EntryIx) (k : FrameKind) (st : RespStatus) (h : Inner s t) :
    Inner s (holdByStatus i k st t) := by
  unfold Machine.holdByStatus; split
  · exact h.clearHold _
  · split
    · exact h.setHold _
    · exact h
  all_goals exact h

theorem Inner.capConflictReceived (i : EntryIx) (k : FrameKind) (b : Option (List Band)) (h : Inner s t) :
    Inner s (capConflictReceived i k b t) := by
  unfold Machine.capConflictReceived; dsimp only; split
  · exact (h.modEntry _ _).trigger _ _
  · exact h.modEntry _ _

end Stations

end Sys2Proof.Machine
end

