-- ==== Sys2Proof/Laws/Kept.lean ====
section
/-! SUPPORT. What every command below the resets keeps: the line time, the queue of commands, and the bounds of Safety.lean. One
lemma per operation of the medium access controller and of what ends a command. -/

namespace Sys2Proof.Machine

/-- What leads from `s` to `t` moves neither the line time nor the queue and ends no reset, and each bound that holds of `s` holds of
`t`. -/
structure Kept (s t : State) : Prop where
  lineTime : t.lineTime = s.lineTime
  held : t.held = s.held
  pending : t.pending = s.pending
  tracker : s.tracker.lawful = true → t.tracker.lawful = true
  settings : s.settings.Lawful → t.settings.Lawful
  thermal : s.settings.Lawful → s.thermal.lawful = true → t.thermal.lawful = true
  mac : s.mac.bounded = true → t.mac.bounded = true
  control : s.control.length ≤ 16 → t.control.length ≤ 16
  requests : s.port.requests.length ≤ 4 → t.port.requests.length ≤ 4
  pool : PoolLawful s.pool → PoolLawful t.pool
  allowance : s.AllowanceHeld → t.AllowanceHeld

theorem Kept.refl (s : State) : Kept s s where
  lineTime := rfl
  held := rfl
  pending := rfl
  tracker := id
  settings := id
  thermal := fun _ => id
  mac := id
  control := id
  requests := id
  pool := id
  allowance := id

theorem Kept.trans {s t u : State} (h : Kept s t) (k : Kept t u) : Kept s u where
  lineTime := k.lineTime.trans h.lineTime
  held := k.held.trans h.held
  pending := k.pending.trans h.pending
  tracker := k.tracker ∘ h.tracker
  settings := k.settings ∘ h.settings
  thermal := fun a b => k.thermal (h.settings a) (h.thermal a b)
  mac := k.mac ∘ h.mac
  control := k.control ∘ h.control
  requests := k.requests ∘ h.requests
  pool := k.pool ∘ h.pool
  allowance := k.allowance ∘ h.allowance

theorem Inner.kept {s t : State} (h : Inner s t) : Kept s t where
  lineTime := h.lineTime
  held := h.held
  pending := h.pending
  tracker := by rw [h.tracker]; exact id
  settings := by rw [h.settings]; exact id
  thermal := by rw [h.thermal]; exact fun _ => id
  mac := by rw [h.mac]; exact id
  control := h.control
  requests := by rw [h.port]; exact id
  pool := h.pool
  allowance := by unfold State.AllowanceHeld; rw [h.startUp, h.thermal, h.settings]; exact id

section Access
variable {s t : State}

theorem Kept.then (h : Kept s t) {u : State} (k : Inner t u) : Kept s u := h.trans k.kept

theorem Kept.modMac (f : Mac → Mac) (hf : t.mac.bounded = true → (f t.mac).bounded = true) (h : Kept s t) :
    Kept s (modMac f t) :=
  h.trans ⟨rfl, rfl, rfl, id, id, fun _ => id, hf, id, id, id, id⟩

theorem Kept.modLine (f : LineInterface → LineInterface) (h : Kept s t) : Kept s (modLine f t) :=
  h.trans ⟨rfl, rfl, rfl, id, id, fun _ => id, id, id, id, id, id⟩

theorem Kept.modPort (f : Port → Port) (hf : (f t.port).requests.length ≤ 4 ∨ (f t.port).requests = t.port.requests)
    (h : Kept s t) : Kept s (modPort f t) :=
  h.trans ⟨rfl, rfl, rfl, id, id, fun _ => id, id, id, fun k => by
    rcases hf with hf | hf
    · exact hf
    · rw [show (Machine.modPort f t).port = f t.port from rfl, hf]; exact k, id, id⟩

theorem Kept.bump (c : Counter) (h : Kept s t) : Kept s (bump c t) := h.then (Inner.bump c (.refl _))

theorem Kept.taken (c : Instr) (h : Kept s t) : Kept s (taken c t) :=
  h.trans ⟨rfl, rfl, rfl, id, id, fun _ => id, id, id, id, id, id⟩

theorem Kept.draw (h : Kept s t) : Kept s (draw t) :=
  h.trans ⟨rfl, rfl, rfl, id, id, fun _ => id, id, id, id, id, id⟩

theorem Kept.setThermalWait (h : Kept s t) : Kept s (setThermalWait t) := (h.modMac _ id).bump _

theorem Kept.toIdle (h : Kept s t) : Kept s (toIdle t) := h.modMac _ id

theorem Kept.askCandidate (h : Kept s t) : Kept s (askCandidate t) := by
  have k := h.then (Inner.candidateRequest (.refl t))
  unfold Machine.askCandidate
  split
  · rename_i e; rw [e] at k; exact k.toIdle
  · rename_i e; rw [e] at k
    split
    · exact k.modMac _ id
    · exact k.setThermalWait.toIdle

theorem Kept.beginPeriod (h : Kept s t) : Kept s (beginPeriod t) := by
  unfold Machine.beginPeriod; dsimp only; split
  · exact (h.modMac _ id).askCandidate
  · exact (h.modMac _ id).toIdle

theorem Kept.candidateNotice (h : Kept s t) : Kept s (candidateNotice t) := by
  unfold Machine.candidateNotice; split
  · exact h.beginPeriod
  · exact h

theorem Kept.evaluate (h : Kept s t) : Kept s (evaluate t) := by
  have k := h.then (Inner.candidateRequest (.refl t))
  unfold Machine.evaluate; dsimp only; split
  · exact k.candidateNotice
  · exact k

theorem Kept.setEvalDue (b : Bool) (h : Kept s t) : Kept s { t with evalDue := b } :=
  h.trans ⟨rfl, rfl, rfl, id, id, fun _ => id, id, id, id, id, id⟩

theorem Kept.evaluateIfDue (h : Kept s t) : Kept s (evaluateIfDue t) := by
  unfold Machine.evaluateIfDue; split
  · exact (h.setEvalDue _).evaluate.setEvalDue _
  · exact h

theorem Kept.enterToneWatch (h : Kept s t) : Kept s (enterToneWatch t) := h.modMac _ id
theorem Kept.enterQuietGap (h : Kept s t) : Kept s (enterQuietGap t) := h.modMac _ id
theorem Kept.enterResponseGap (h : Kept s t) : Kept s (enterResponseGap t) := h.modMac _ id
theorem Kept.candidateGone (h : Kept s t) : Kept s (candidateGone t) := (h.bump _).enterToneWatch
theorem Kept.doesNotFit (h : Kept s t) : Kept s (doesNotFit t) := h.setThermalWait.enterToneWatch

theorem Kept.sendFrame (f : TxFrame)
    (hf : t.thermal.limited = true → t.thermal.used + f.header.duration ≤ t.settings.dutyPercent * 100) (h : Kept s t) :
    Kept s (sendFrame f t) := by
  unfold Machine.sendFrame; dsimp only
  have k : Kept s (Machine.modMac (fun m => { m with state := .sending, candidate := none }) { t with
      line := { t.line with sending := some f }
      thermal := { t.thermal with used := t.thermal.used + f.header.duration } }) :=
    h.trans ⟨rfl, rfl, rfl, id, id, fun _ => id, id, id, id, id, fun k => ⟨k.1, hf⟩⟩
  split
  · exact k.bump _
  · exact k

end Access

/-! ### Composition -/

theorem takeHeads_inner (l : Loading) (cap : Nat) (q : QueueIx) (n : EntryIx) (fuel : Nat) :
    ∀ (t : Taking) (s : State), Inner s (takeHeads l cap q n fuel t s).2 := by
  induction fuel with
  | zero => intro t s; exact .refl s
  | succ k ih =>
    intro t s
    unfold takeHeads
    split
    · exact .refl s
    · split
      · exact .refl s
      · split
        · dsimp only
          split
          · exact .refl s
          · split
            · exact ((Inner.refl s).modTx _ _).setQueue _ _
            · exact (((Inner.refl s).modTx _ _).setQueue _ _).trans (ih _ _)
        · exact .refl s

theorem Inner.countComposition (s0 : State) (n : EntryIx) (a : LineTime) (l : Loading) (cap : Nat) (k : Taking) {s t : State}
    (h : Inner s t) : Inner s (countComposition s0 n a l cap k t) := by
  unfold Machine.countComposition; dsimp only
  have h1 := (h.bumpBy .segmentsSent (k.taken.length - k.taken.countP fun x => decide (x.attempts ≥ 1))).bumpBy .segmentsResent
    (k.taken.countP fun x => decide (x.attempts ≥ 1))
  repeat' split
  all_goals first
    | exact h1 | exact h1.bump _ | exact (h1.bump _).bump _ | exact ((h1.bump _).bump _).bump _

theorem takeOffered_inner (l : Loading) (cap : Nat) (n : EntryIx) (q : Option QueueIx) (m : List UnackedSegment) (s : State) :
    Inner s (takeOffered l cap n q m s).2 := by
  unfold takeOffered; dsimp only; split
  · split
    · exact .refl s
    · exact takeHeads_inner _ _ _ _ _ _ _
  · exact .refl s

theorem composeData_inner {n : EntryIx} {q : Option QueueIx} {p : Fin 4} {a b : Nat} {s t : State} {f : TxFrame}
    (e : composeData n q p a b s = some (f, t)) : Inner s t := by
  unfold composeData at e
  dsimp only at e
  split at e
  · cases e
  · split at e
    · cases e
    · split at e
      · cases e
      · cases e
        exact Inner.countComposition _ _ _ _ _ _ (Inner.trans ((takeOffered_inner _ _ _ _ _ _).modTx _ _) (.of_fields rfl))

theorem formControl_kept {c : ControlEntry} {s t : State} {f : TxFrame} (e : formControl c s = some (f, t)) : Inner s t := by
  unfold formControl at e
  split at e
  · cases e
    exact .refl s
  · cases e
    exact .of_fields rfl
  · unfold formGridPart at e
    split at e
    · cases e; exact (Inner.refl s).modEntry _ _
    · cases e

/-! ### What a frame that is handed to the line charges (R55, R56) -/

theorem leastSymbols_le (bits : Nat) (l : List Nat) : leastSymbols bits l ≤ l.length := by
  induction l generalizing bits with
  | nil => exact Nat.le_refl _
  | cons b rest ih =>
    unfold leastSymbols; split
    · exact Nat.zero_le _
    · have := ih (bits - b); simp only [List.length_cons]; omega

theorem symbolBits_length_le (l : Loading) (n : Nat) : (l.symbolBits n).length ≤ n := by
  cases l <;> simp [Loading.symbolBits] <;> omega

/-- R56: a DATA frame composed within a symbol limit has no more payload symbols. -/
theorem composeData_symbols {n : EntryIx} {q : Option QueueIx} {p : Fin 4} {a b : Nat} {s t : State} {f : TxFrame}
    (e : composeData n q p a b s = some (f, t)) : f.header.duration ≤ 192 + 32 * a := by
  unfold composeData at e
  dsimp only at e
  split at e
  · cases e
  · split at e
    · cases e
    · split at e
      · cases e
      · cases e
        exact Nat.add_le_add_left (Nat.mul_le_mul_left _ (Nat.le_trans (leastSymbols_le _ _) (symbolBits_length_le _ a))) _

/-- R55, R56: while the guard is LIMITED, a frame within the symbol limit leaves the used airtime within the allowance. -/
theorem symbolLimit_fits {s : State} {a : Nat} (h : s.symbolLimit = some a) (hl : s.thermal.limited = true) :
    s.thermal.used + (192 + 32 * a) ≤ s.settings.dutyPercent * 100 := by
  unfold State.symbolLimit State.remaining at h
  simp only [hl, if_true] at h
  split at h
  · cases h
  · cases h; have := Nat.min_le_right Config.maxSymbols ((s.settings.dutyPercent * 100 - s.thermal.used - 192) / 32); omega

theorem entry_setEntry (i j : EntryIx) (e : Option Entry) (s : State) :
    (setEntry i e s).entry j = if j = i then e else s.entry j := by
  unfold State.entry
  simp only [setEntry_table, Fin.getElem_fin, Vector.getElem_set, Fin.val_inj, eq_comm (a := i)]

theorem bumpBy_entry (c : Counter) (n : Nat) (j : EntryIx) (s : State) : (bumpBy c n s).entry j = s.entry j := by
  induction n generalizing s with
  | zero => rfl
  | succ n ih => exact ih _

theorem ageEntry_state (i j : EntryIx) (s : State) : ((ageEntry i s).entry j).map (·.state) = (s.entry j).map (·.state) := by
  unfold ageEntry ageCells
  split
  · rfl
  · rename_i e he
    rw [bumpBy_entry]
    by_cases h : j = i
    · subst h; simp only [entry_setEntry, if_true, he, Option.map_some]
    · simp only [entry_setEntry, h, if_false]

/-- R63: aging leaves the state of every entry. -/
theorem ageAll_state (j : EntryIx) (s : State) : ((ageAll s).entry j).map (·.state) = (s.entry j).map (·.state) := by
  unfold ageAll
  generalize List.finRange 24 = l
  induction l generalizing s with
  | nil => rfl
  | cons a l ih => exact (ih (ageEntry a s)).trans (ageEntry_state a j s)

/-- R140: tables whose entries have the same states list as many present entries. -/
theorem heardEntries_length {s u : State} (h : ∀ j, (u.entry j).map (·.state) = (s.entry j).map (·.state)) :
    u.heardEntries.length = s.heardEntries.length := by
  unfold State.heardEntries
  generalize List.finRange 24 = l
  induction l with
  | nil => rfl
  | cons a l ih =>
    have h := h a
    simp only [List.filterMap_cons]
    cases hs : s.entry a <;> cases ht : u.entry a <;> simp only [hs, ht, Option.map_none, Option.map_some, reduceCtorEq,
      Option.some.injEq] at h
    · exact ih
    · simp only [List.filter_cons, h]; split
      · simp only [List.length_cons, ih]
      · exact ih

/-- R140: forming a NOTE does not change how long it is. -/
theorem gatherNote_symbols (s : State) : (gatherNote s).noteSymbols = s.noteSymbols := by
  have k := (((Inner.refl s).ageAll).bumpBy .reachOverflow ((ageAll s).heardEntries.length - 23)).settings
  simp only [State.noteSymbols, gatherNote, k, heardEntries_length (s := s)
    (u := bumpBy .reachOverflow ((ageAll s).heardEntries.length - 23) (ageAll s)) fun j => by rw [bumpBy_entry, ageAll_state]]

theorem Inner.gatherControl {s t : State} (c : ControlEntry) (h : Inner s t) : Inner s (gatherControl c t) := by
  cases c
  case note => exact h.ageAll.bumpBy _ _
  all_goals exact h

theorem formNote_duration (s : State) : (formNote s).header.duration = s.controlAirtime .note := by
  simp only [formNote, State.frame, State.header, Header.duration, Header.payloadSymbols, State.controlAirtime,
    reduceCtorEq, if_false]

/-- R55: a control frame lasts as long as the test of R46 took it to. -/
theorem formControl_duration {c : ControlEntry} {s t : State} {f : TxFrame} (e : formControl c s = some (f, t)) :
    f.header.duration = s.controlAirtime c := by
  cases c with
  | note =>
    have h := congrArg Prod.fst (Option.some.inj e)
    dsimp only at h; rw [← h]; exact formNote_duration s
  | sound p =>
    have h := congrArg Prod.fst (Option.some.inj e)
    dsimp only at h; rw [← h]; rfl
  | gridPart i tag part =>
    simp only [formControl, formGridPart] at e
    split at e
    · have h := congrArg Prod.fst (Option.some.inj e)
      dsimp only at h; rw [← h]; rfl
    · cases e

theorem airtimeFits_le {s : State} {a : Nat} (hp : 0 < a) (h : s.airtimeFits a = true) (hl : s.thermal.limited = true) :
    s.thermal.used + a ≤ s.settings.dutyPercent * 100 := by
  unfold State.airtimeFits State.remaining at h
  simp only [hl, Bool.not_true, Bool.false_or, decide_eq_true_eq] at h
  omega

theorem controlAirtime_pos (s : State) (c : ControlEntry) : 0 < s.controlAirtime c := by
  cases c <;> simp only [State.controlAirtime] <;> omega

section Access
variable {s t : State}

theorem Kept.transmitData (n : EntryIx) (q : Option QueueIx) (p : Fin 4) (h : Kept s t) : Kept s (transmitData n q p t) := by
  unfold Machine.transmitData
  split
  · exact h.candidateGone
  · split
    · exact h.doesNotFit
    · split
      · rename_i hlim _ f u e
        have k := composeData_inner e
        refine (h.then k).sendFrame _ fun hl => ?_
        rw [k.thermal] at hl ⊢
        rw [k.settings]
        exact Nat.le_trans (Nat.add_le_add_left (composeData_symbols e) _) (symbolLimit_fits ‹_› hl)
      · exact h.doesNotFit

theorem Kept.transmit (h : Kept s t) : Kept s (transmit t) := by
  unfold Machine.transmit
  split
  · exact h.candidateGone
  · split
    · split
      · dsimp only
        have h := h.then ((Inner.refl t).gatherControl ‹ControlEntry›)
        split
        · split
          · rename_i hfit _ f u e
            have k := formControl_kept e
            refine (h.then k).sendFrame _ fun hl => ?_
            rw [k.thermal] at hl ⊢
            rw [k.settings, formControl_duration e]
            exact airtimeFits_le (controlAirtime_pos _ _) ‹_› hl
          · exact h.candidateGone
        · exact h.doesNotFit
      · exact h.candidateGone
    · dsimp only
      have k := h.then ((Inner.refl t).dropUnreachable ‹QueueIx›)
      split
      · exact k.transmitData _ _ _
      · exact k.candidateGone
    · split
      · exact h.transmitData _ _ _
      · exact h.candidateGone

theorem windowOf_pos (n : Nat) : 0 < windowOf n := by unfold windowOf; exact Nat.mul_pos (by decide) (Nat.pow_pos (by decide))

theorem windowOf_mono {a b : Nat} (h : a ≤ b) : windowOf a ≤ windowOf b := by
  unfold windowOf
  exact Nat.mul_le_mul_left _ (Nat.pow_le_pow_right (by decide) h)

/-- R45: the bound of the backoff counter, in words. -/
theorem Mac.bounded_iff (m : Mac) :
    m.bounded = true ↔ m.stage ≤ 5 ∧ ∀ n, m.backoff = some n → n < windowOf m.stage := by
  unfold Mac.bounded
  cases hb : m.backoff <;> simp

theorem Mac.bounded_setBackoff {m : Mac} (n : Nat) (hn : n < windowOf m.stage) (h : m.bounded = true) :
    Mac.bounded { m with backoff := some n } = true := by
  rw [Mac.bounded_iff] at *
  exact ⟨h.1, fun k e => by cases e; exact hn⟩

theorem Mac.bounded_draw {m : Mac} (x : Nat) (h : m.bounded = true) :
    Mac.bounded { m with backoff := some (x % windowOf m.stage) } = true :=
  Mac.bounded_setBackoff _ (Nat.mod_lt _ (windowOf_pos _)) h

theorem Mac.bounded_stage {m n : Mac} (h : m.bounded = true) (hs : m.stage ≤ n.stage) (h5 : n.stage ≤ 5)
    (hb : n.backoff = m.backoff ∨ n.backoff = none) : n.bounded = true := by
  rw [Mac.bounded_iff] at *
  refine ⟨h5, fun k e => ?_⟩
  rcases hb with hb | hb
  · exact Nat.lt_of_lt_of_le (h.2 k (hb ▸ e)) (windowOf_mono hs)
  · rw [hb] at e; cases e

theorem stageUp_le (n : Nat) : stageUp n ≤ 5 := by unfold stageUp; omega
theorem le_stageUp {n : Nat} (h : n ≤ 5) : n ≤ stageUp n := by unfold stageUp; omega

theorem Mac.stage_le {m : Mac} (h : m.bounded = true) : m.stage ≤ 5 := ((Mac.bounded_iff m).1 h).1

theorem Kept.enterBackoff (h : Kept s t) : Kept s (enterBackoff t) := by
  unfold Machine.enterBackoff
  dsimp only
  split
  · split
    · exact (h.modMac _ id).transmit
    · exact h.modMac _ id
  · have k := (h.modMac (fun m => { m with backoff := some (Config.backoffDraw t.draws % windowOf m.stage) })
      (Mac.bounded_draw _)).draw
    split
    · exact (k.modMac _ id).transmit
    · exact k.modMac _ id

theorem Kept.contentionCleared (h : Kept s t) : Kept s (contentionCleared t) :=
  h.modMac _ fun _ => rfl

theorem Inner.receiverSilent (w : ResponseWait) (h : Inner s t) : Inner s (receiverSilent w t) := by
  unfold Machine.receiverSilent; split
  · exact h.noResponseSend _
  · exact h

theorem Kept.noResponseOutcome (h : Kept s t) : Kept s (noResponseOutcome t) := by
  unfold Machine.noResponseOutcome
  split
  · exact h
  · rename_i w _
    dsimp only
    have k := ((h.modMac (fun m => { m with wait := none, stage := stageUp m.stage, backoff := none, deferral := 0 })
      fun hb => Mac.bounded_stage hb (le_stageUp (Mac.stage_le hb)) (stageUp_le _) (.inr rfl)).bump .noResponse).then
        (Inner.receiverSilent w (.refl _))
    split
    · exact k.then (.segmentNoResponse (.refl _))
    · exact k.then (.partNoResponse _ (.refl _))
    all_goals exact k

theorem Inner.receiverOutcome (w : ResponseWait) (r : RespBody) (h : Inner s t) : Inner s (receiverOutcome w r t) := by
  unfold Machine.receiverOutcome; dsimp only; split
  · split
    · exact h.bump _
    · exact h
  · split
    · exact ((h.clearStreak _).holdByStatus _ _ _).capConflictReceived _ _ _
    · exact (h.clearStreak _).holdByStatus _ _ _

theorem Inner.dataAnswered (r : RespBody) (h : Inner s t) : Inner s (dataAnswered r t) := by
  unfold Machine.dataAnswered; dsimp only; split
  · exact (h.gridUnknownReceived _ _).segmentResponse _
  · exact h.segmentResponse _

theorem Kept.receivedOutcome (r : RespBody) (h : Kept s t) : Kept s (receivedOutcome r t) := by
  unfold Machine.receivedOutcome
  split
  · exact h
  · dsimp only
    have k := ((h.modMac (fun m => { m with wait := none }) id).contentionCleared).then
      (Inner.receiverOutcome ‹_› r (.refl _))
    split
    · exact k.then (.dataAnswered _ (.refl _))
    · exact k.then (.partAnswered _ _ (.refl _))
    all_goals exact k

theorem Kept.takeResp (a : Addr) (b : List Byte) (h : Kept s t) : Kept s (takeResp a b t) := by
  unfold Machine.takeResp
  split
  · split
    · split
      · split
        · exact h.receivedOutcome _
        · exact (h.bump _).noResponseOutcome
      · exact (h.bump _).noResponseOutcome
    · exact (h.bump _).noResponseOutcome
  · exact h.bump _

theorem Kept.broadcastOutcome (f : TxFrame) (h : Kept s t) : Kept s (broadcastOutcome f t) := by
  unfold Machine.broadcastOutcome
  dsimp only
  split
  · exact (h.contentionCleared.then (Inner.leaveControl _ (Inner.soundSent _ _ (.refl _)))).enterQuietGap
  · exact (h.contentionCleared.then (Inner.leaveControl _ (Inner.noteSent (.refl _)))).enterQuietGap

theorem Kept.frameSent (f : TxFrame) (h : Kept s t) : Kept s (frameSent f t) := by
  unfold Machine.frameSent
  dsimp only
  have k : Kept s { t with line := { t.line with sending := none } } := h.modLine fun l => { l with sending := none }
  split
  · exact k.modMac _ id
  · exact k.modMac _ id
  · exact k.broadcastOutcome _
  · exact k.broadcastOutcome _
  · exact k

theorem Kept.deferToFrame (h : Kept s t) : Kept s (deferToFrame t) := by
  unfold Machine.deferToFrame
  cases hr : decide (t.mac.deferral + 1 ≥ t.settings.deferralLimit) <;> simp only [hr]
  · exact (h.modMac _ id).bump _
  · exact ((h.modMac _ fun hb => Mac.bounded_stage hb (le_stageUp (Mac.stage_le hb)) (stageUp_le _) (.inl rfl)).bump _).bump _

theorem Kept.raiseThermalLimited (h : Kept s t) : Kept s (raiseThermalLimited t) :=
  h.trans ⟨rfl, rfl, rfl, id, id, fun _ => id, id, id, id, id, id⟩

theorem Thermal.sample_lawful (t : Thermal) (hot : Bool) (n : Nat) (hn : 1 ≤ n ∧ n ≤ 255) (h : t.lawful = true) :
    (t.sample hot n).lawful = true := by
  obtain ⟨lim, hold, used, nb⟩ := t
  simp only [Thermal.lawful, Thermal.sample, Bool.and_eq_true, beq_iff_eq, decide_eq_true_eq] at h ⊢
  cases hot <;> cases lim <;> simp at h ⊢ <;> omega

@[simp] theorem Thermal.sample_used (t : Thermal) (hot : Bool) (n : Nat) : (t.sample hot n).used = t.used := by
  unfold Thermal.sample; repeat' split
  all_goals rfl

theorem Kept.sampleGuard (b : Bool) (hl : t.startUp ≠ .loading) (h : Kept s t) : Kept s (sampleGuard b t) := by
  have k (n : LineTime) : Kept s
      { t with thermal := Thermal.sample { t.thermal with used := 0, nextBoundary := n } b t.settings.holdPeriods } :=
    h.trans ⟨rfl, rfl, rfl, id, id, fun hs ht => by
      obtain ⟨-, -, -, -, -, -, -, -, -, hp, -⟩ := hs
      exact Thermal.sample_lawful _ _ _ hp ht, id, id, id, id, fun k => ⟨fun e => absurd e hl, fun _ => by
      rw [Thermal.sample_used]; exact Nat.zero_le _⟩⟩
  unfold Machine.sampleGuard; dsimp only; split
  · exact (k _).raiseThermalLimited.bump _
  · exact k _

theorem Kept.dutyBoundaryEffect (b : Bool) (h : Kept s t) : Kept s (dutyBoundaryEffect b t) := by
  have k (n : LineTime) : Kept t { t with thermal := { t.thermal with nextBoundary := n } } :=
    ⟨rfl, rfl, rfl, id, id, fun _ => id, id, id, id, id, id⟩
  unfold Machine.dutyBoundaryEffect; dsimp only; split
  · exact h.trans (k _)
  · split
    · exact ((h.sampleGuard b ‹_›).modMac (fun m => { m with thermalWait := false }) id).beginPeriod
    · exact (h.sampleGuard b ‹_›).modMac (fun m => { m with thermalWait := false }) id

theorem Kept.enterRunning (h : Kept s t) : Kept s (enterRunning t) := by
  unfold Machine.enterRunning
  dsimp only
  have k : Kept s { t with startUp := .running } :=
    h.trans ⟨rfl, rfl, rfl, id, id, fun _ => id, id, id, id, id, fun k => ⟨nofun, k.2⟩⟩
  split
  · exact k.beginPeriod
  · exact k

theorem Kept.lockEndsListening (h : Kept s t) : Kept s (lockEndsListening t) := by
  unfold Machine.lockEndsListening; split
  · exact h.enterRunning
  · exact h

end Access

end Sys2Proof.Machine
end

