-- ==== Sys2Proof/Laws/Settle.lean ====
section
/-! SUPPORT. The line interface and the station port against the bounds of Laws/Kept.lean, and what ends a command: `settle` leaves
the part at rest, and at rest it does nothing. -/

namespace Sys2Proof.Machine

section LineOps
variable {s t : State}

theorem Kept.macFrameStart (h : Kept s t) : Kept s (macFrameStart t) := by
  unfold Machine.macFrameStart
  split
  · exact h.modMac _ id
  · exact h.modMac _ id
  · exact h.modMac _ id
  · exact h.deferToFrame
  all_goals exact h

theorem Kept.openReception (p : Pair) (b : Preamble) (h : Kept s t) : Kept s (openReception p b t) := by
  unfold Machine.openReception; exact h.modLine _

theorem Kept.setHeader (x : HeaderState) (h : Kept s t) : Kept s (setHeader x t) := h.modLine _

theorem Kept.beginProcessed (r : Reception) (x : Header) (h : Kept s t) : Kept s (beginProcessed r x t) := by
  have k : Kept s (Machine.openDuty r x t) := by
    unfold Machine.openDuty; split
    · exact h.modMac (fun m => { m with duty := some (x.duty r.frameStart) }) id
    · exact h
  unfold Machine.beginProcessed
  split
  · exact k.bump _
  · exact k

theorem Kept.filterEffect (r : Reception) (x : Header) (c : FilterCase) (h : Kept s t) : Kept s (filterEffect r x c t) := by
  unfold Machine.filterEffect
  split
  · exact h.bump _
  · exact h.bump _
  · exact h.then ((Inner.refl _).learn _ _)
  · exact (h.then (((Inner.refl _).learn _ _).sampleHeader _ _)).beginProcessed _ _

theorem Kept.takeHeader (c : List (Pair × List Byte)) (h : Kept s t) : Kept s (takeHeader c t) := by
  unfold Machine.takeHeader
  split
  · exact h
  · split
    · exact (h.bump _).setHeader _
    · dsimp only; exact (h.filterEffect _ _ _).setHeader _

theorem Kept.setResp (b : Option RespBody) (h : Kept s t) : Kept s (setResp b t) := h.modMac _ id

theorem Kept.dataEnd (r : Resolution) (x : Header) (b : List Byte) (h : Kept s t) : Kept s (dataEnd r x b t) := by
  unfold Machine.dataEnd; dsimp only
  split
  · exact h.setResp _
  · split
    · exact (h.bump _).setResp _
    · exact (h.then (((Inner.refl _).promoteByData _ _).takeData _ _ _)).setResp _
    · exact (h.then (((Inner.refl _).promoteByData _ _).takeData _ _ _)).setResp _

theorem Kept.gridEnd (x : Header) (b : List Byte) (h : Kept s t) : Kept s (gridEnd x b t) := by
  unfold Machine.gridEnd
  split
  · exact h.setResp _
  · split
    · exact (h.bump _).setResp _
    · exact (h.then ((Inner.refl _).takePart _ _)).setResp _

theorem Kept.handOn (r : Reception) (x : Header) (e : Resolution) (b : List Byte) (l : List (List Int)) (h : Kept s t) :
    Kept s (handOn r x e b l t) := by
  unfold Machine.handOn
  split
  · exact h.dataEnd _ _ _
  · exact h.gridEnd _ _
  · exact h.then ((Inner.refl _).soundEnd _ _ _)
  · exact h.then ((Inner.refl _).noteEnd _ _)
  · exact h

theorem Kept.resolveWait (h : Kept s t) : Kept s (resolveWait t) := by
  unfold Machine.resolveWait; split
  · exact h.noResponseOutcome
  · exact h

theorem Kept.answerOrGap (h : Kept s t) : Kept s (answerOrGap t) := by
  unfold Machine.answerOrGap; split
  · exact h.modMac _ id
  · exact (h.modMac _ id).enterResponseGap

theorem Kept.nextStep (x : Header) (c : FilterCase) (h : Kept s t) : Kept s (nextStep x c t) := by
  unfold Machine.nextStep
  split
  · exact h.beginPeriod
  · split
    · split
      · exact h.answerOrGap
      · exact h.enterResponseGap
    · exact h.enterQuietGap

theorem Kept.endReception (b : List Byte) (l : List (List Int)) (h : Kept s t) : Kept s (endReception b l t) := by
  unfold Machine.endReception
  split
  · exact h
  · dsimp only
    have k := h.modLine fun l => { l with reception := none }
    split
    · exact k
    · exact k.resolveWait.enterQuietGap
    · split
      · split
        · exact (k.takeResp _ _).nextStep _ _
        · exact ((k.handOn _ _ _ _ _).resolveWait).nextStep _ _
      · exact k.resolveWait.nextStep _ _

theorem Kept.sendResp (d : ResponderDuty) (b : RespBody) (h : Kept s t) : Kept s (sendResp d b t) :=
  (h.modLine fun _ => { sending := some (respFrame d b t), reception := none }).bump _

theorem Kept.startResp (h : Kept s t) : Kept s (startResp t) := by
  unfold Machine.startResp
  split
  · exact h
  · split
    · exact h
    · split
      · exact (h.sendResp _ _).then ((Inner.refl _).triggerFor _ _)
      · exact h.sendResp _ _

theorem Kept.endResp (h : Kept s t) : Kept s (endResp t) := ((h.modLine _).modMac _ id).beginPeriod

theorem Kept.endSent (h : Kept s t) : Kept s (endSent t) := by
  unfold Machine.endSent; split
  · exact h.frameSent _
  · exact h

theorem Kept.endSignalSlot (h : Kept s t) : Kept s (endSignalSlot t) := by
  unfold Machine.endSignalSlot
  split
  · exact h
  · dsimp only
    have k := h.taken .signalSlotEnd
    split
    · exact (k.bump _).enterToneWatch
    · split
      · exact k.enterBackoff
      · exact k.modMac _ id

theorem Kept.hearTone (h : Kept s t) : Kept s (hearTone t) := by
  unfold Machine.hearTone
  split
  · exact h.enterToneWatch
  · split
    · exact h.enterToneWatch
    · exact h.enterToneWatch
    · exact h
    · exact h
  · exact h.modMac _ id
  · exact h.modMac _ id
  all_goals exact h

theorem Kept.endContentionSlot (b : Bool) (h : Kept s t) : Kept s (endContentionSlot b t) := by
  unfold Machine.endContentionSlot
  dsimp only
  have k := h.taken (.contentionSlotEnd false)
  split
  · exact k.modMac _ id
  · split
    · exact k
    · rename_i n hn
      split
      · split
        · exact k
        · exact (k.modMac _ fun hb => Mac.bounded_setBackoff 0 (windowOf_pos _) hb).transmit
      · refine k.modMac _ fun hb => Mac.bounded_setBackoff _ ?_ hb
        have := ((Mac.bounded_iff _).1 hb).2 n hn
        omega

theorem Kept.responseRunsOut (h : Kept s t) : Kept s (responseRunsOut t) := h.noResponseOutcome.beginPeriod

theorem Kept.wantPoint (h : Kept s t) : Kept s (wantPoint t) := by
  unfold Machine.wantPoint
  dsimp only
  have k := h.taken .sound20msPoint
  split
  · split
    · exact k.then (.of_fields rfl)
    · exact k
  · exact k.then ((Inner.refl _).placementAttempt)

end LineOps

/-! ### The port -/

section PortOps
variable {s t : State}

theorem Kept.makePause (q : BitVec 16) (h : Kept s t) : Kept s (makePause q t) := h.modPort _ (.inr rfl)

theorem Kept.pauseTest (h : Kept s t) : Kept s (pauseTest t) := by
  unfold Machine.pauseTest
  repeat' split
  all_goals first | exact h | exact (h.modPort _ (.inr rfl)).makePause _

theorem Kept.pauseTestAfter (n : Nat) (h : Kept s t) : Kept s (pauseTestAfter n t) := by
  unfold Machine.pauseTestAfter; split
  · exact h
  · exact h.pauseTest

theorem Kept.chooseTx (h : Kept s t) : Kept s (chooseTx t) := by
  unfold Machine.chooseTx
  repeat' split
  all_goals first | exact h | exact h.modPort _ (.inr rfl)

theorem Kept.settle (n : Nat) (h : Kept s t) : Kept s (settle n t) := (h.evaluateIfDue.pauseTestAfter n).chooseTx

theorem Kept.macControl (v : EthView) (h : Kept s t) : Kept s (macControl v t) := by
  unfold Machine.macControl; dsimp only; split
  · split
    · exact (h.bump _).modPort _ (.inr rfl)
    · exact h.bump _
  · exact h.bump _

theorem Kept.takeRequest (v : EthView) (h : Kept s t) : Kept s (takeRequest v t) := by
  unfold Machine.takeRequest; split
  · exact h.bump _
  · exact (h.modPort _ (.inl (by simp; omega))).bump _

theorem Kept.takeHostFrame (f : List Byte) (h : Kept s t) : Kept s (takeHostFrame f t) := by
  unfold Machine.takeHostFrame; dsimp only
  repeat' split
  · exact h
  · exact h.bump _
  · exact h.bump _
  · exact h.macControl _
  · exact h.takeRequest _
  · exact h.bump _
  · exact (h.bump _).then ((Inner.refl _).hostFrame _)

theorem Kept.txDone (h : Kept s t) : Kept s (txDone t) := by
  unfold Machine.txDone
  split
  · exact h
  all_goals exact (h.modPort _ (.inr rfl)).bump _

theorem Kept.serve (f : Request → State → Response) (h : Kept s t) : Kept s (serve f t) := by
  refine h.trans ?_
  unfold Machine.serve
  cases hr : t.port.requests with
  | nil => exact .refl _
  | cons r rest =>
    exact ⟨rfl, rfl, rfl, id, id, fun _ => id, id, id, fun k => by
      rw [hr] at k; exact Nat.le_trans (Nat.le_succ _) k, id, id⟩

theorem Kept.serveStatus (h : Kept s t) : Kept s (serveStatus t) :=
  (h.serve answerStatus).trans ⟨rfl, rfl, rfl, id, id, fun _ => id, id, id, id, id, id⟩

theorem Kept.clearAllCounters (h : Kept s t) : Kept s (clearAllCounters t) :=
  h.trans ⟨rfl, rfl, rfl, id, id, fun _ => id, id, id, id, id, id⟩

theorem Kept.serveCounters (h : Kept s t) : Kept s (serveCounters t) := by
  unfold Machine.serveCounters; dsimp only; split
  · exact (h.serve _).clearAllCounters
  · exact h.serve _

theorem Kept.refreshPause (h : Kept s t) : Kept s (refreshPause t) := (h.modPort _ (.inr rfl)).makePause _

theorem Kept.endHold (h : Kept s t) : Kept s (endHold t) := h.modPort _ (.inr rfl)

end PortOps

/-! ### What ends a command -/

theorem evaluateIfDue_evalDue (s : State) : (evaluateIfDue s).evalDue = false := by
  unfold evaluateIfDue
  split
  · rfl
  · rename_i h; simpa using h

theorem pauseTestAfter_evalDue (n : Nat) (s : State) : (pauseTestAfter n s).evalDue = s.evalDue := by
  unfold pauseTestAfter pauseTest
  repeat' split
  all_goals rfl

theorem chooseTx_evalDue (s : State) : (chooseTx s).evalDue = s.evalDue := by
  unfold chooseTx
  repeat' split
  all_goals rfl

theorem chooseTx_rested (s : State) : (chooseTx s).port.Rested := by
  unfold chooseTx
  split
  · left; assumption
  · rename_i hs
    split
    · left; rfl
    · rename_i hp
      split
      · right; exact ⟨hp, .inl ‹_›⟩
      · split
        · left; rfl
        · rename_i hr
          split
          · rename_i hd
            exact .inr ⟨hp, .inr ⟨by simpa using hr, by simpa using hd⟩⟩
          · left; rfl

/-- A settled command leaves the part at rest. -/
theorem settle_rested (n : Nat) (s : State) : (settle n s).Rested :=
  ⟨by unfold settle; rw [chooseTx_evalDue, pauseTestAfter_evalDue, evaluateIfDue_evalDue], chooseTx_rested _⟩

theorem settled_rested (f : State → State) (s : State) : (settled f s).Rested := settle_rested _ _

theorem chooseTx_of_rested {s : State} (h : s.port.Rested) : chooseTx s = s := by
  unfold chooseTx
  rcases h with h | ⟨hp, h | ⟨hr, hd⟩⟩
  · rw [if_pos h]
  · split
    · rfl
    · rw [hp]
  · split
    · rfl
    · simp [hp, hr, hd]

theorem evaluateIfDue_of_not_due {s : State} (h : s.evalDue = false) : evaluateIfDue s = s := by
  unfold evaluateIfDue; simp [h]

/-- At rest, and with the transmit charge unchanged, what ends a command does nothing. -/
theorem settle_of_rested {n : Nat} {s : State} (h : s.Rested) (hc : s.txCharge = n) : settle n s = s := by
  unfold settle
  rw [evaluateIfDue_of_not_due h.1]
  unfold pauseTestAfter
  rw [if_pos hc, chooseTx_of_rested h.2]

/-- A command whose effect touches neither the port, the queues nor the table, from a state at rest. -/
theorem settled_eq {f : State → State} {s t : State} (h : f s = t) (hr : t.Rested) (hc : t.txCharge = s.txCharge) :
    settled f s = t := by
  unfold settled
  rw [h]; exact settle_of_rested hr hc

/-- The transmit charge depends on the queues and the table alone. -/
theorem txCharge_congr {s t : State} (hq : t.queues = s.queues) (ht : t.table = s.table) : t.txCharge = s.txCharge := by
  unfold State.txCharge; rw [hq, ht]

/-! ### Guards -/

theorem whenLive_of_live {s : State} (h : s.Live) (f : State → State) : whenLive s f = .next (f s) := by
  unfold whenLive; rw [h]; rfl

theorem whenDue_of_due {b : Bool} (h : b = true) (f : State → State) (s : State) : whenDue b f s = f s := by
  unfold whenDue; rw [if_pos h]

/-- What a live, due command answers. -/
theorem live_due {b : State → Bool} {f : State → State} {s : State} (hl : s.Live) (hd : b s = true) :
    whenLive s (fun s => whenDue (b s) f s) = .next (f s) := by
  rw [whenLive_of_live hl, whenDue_of_due hd]

end Sys2Proof.Machine
end

