-- ==== Sys2Proof/Laws/Commands.lean ====
section
/-! SUPPORT. What each command keeps: for every command but the resets, one lemma that it answers a next state that `Kept` relates to
the state before, and one that this next state is at rest again. -/

namespace Sys2Proof.Machine

/-- A result that is a next state with `Kept`. -/
abbrev Keeps (s : State) (r : Result) : Prop := ∃ t, r = .next t ∧ Kept s t

/-- A result that is a next state at rest. -/
abbrev Rests (r : Result) : Prop := ∃ t, r = .next t ∧ t.Rested

theorem keeps_whenLive {s : State} {f : State → State} (h : Kept s (f s)) : Keeps s (whenLive s f) := by
  unfold whenLive
  by_cases k : s.held.isSome = true
  · exact ⟨s, by rw [if_pos k], .refl s⟩
  · exact ⟨f s, by rw [if_neg k], h⟩

theorem kept_whenDue {s : State} {b : Bool} {f : State → State} (h : Kept s (f s)) : Kept s (whenDue b f s) := by
  unfold whenDue
  split
  · exact h
  · exact .refl s

theorem kept_settled {s : State} {f : State → State} (h : Kept s (f s)) : Kept s (settled f s) := h.settle _

theorem rests_whenLive {s : State} {f : State → State} (hs : s.Rested) (h : (f s).Rested) : Rests (whenLive s f) := by
  unfold whenLive
  by_cases k : s.held.isSome = true
  · exact ⟨s, by rw [if_pos k], hs⟩
  · exact ⟨f s, by rw [if_neg k], h⟩

theorem rested_whenDue {s : State} {b : Bool} {f : State → State} (hs : s.Rested) (h : (f s).Rested) :
    (whenDue b f s).Rested := by
  unfold whenDue
  split
  · exact h
  · exact hs

/-- An effect that touches neither the indicator's mark nor the port keeps the part at rest. -/
theorem rested_congr {s t : State} (hs : s.Rested) (he : t.evalDue = s.evalDue) (hp : t.port = s.port) : t.Rested := by
  unfold State.Rested at *
  rw [he, hp]; exact hs

/-! ### The tracker -/

theorem filterH_range (h i : Nat) : 7500 ≤ filterH h i ∧ filterH h i ≤ 11000 := by
  unfold filterH Config.halfCycleMin Config.halfCycleMax
  dsimp only
  split <;> omega

theorem Tracker.takeReference_lawful (t : Tracker) (now : LineTime) (h : Option Nat) (n : Nat)
    (hs : t.state = .seeking) (hc : t.missCount = 0 ∧ t.disturbedCount = 0)
    (hh : ∀ x, h = some x → 7500 ≤ x ∧ x ≤ 11000) (hn : 1 ≤ n → h.isSome = true) :
    (t.takeReference now h n).lawful = true := by
  unfold Tracker.takeReference Tracker.lawful
  cases h with
  | none =>
    have hn0 : n = 0 := Nat.le_zero.1 (Nat.not_lt.1 fun k => by simpa using hn k)
    subst hn0
    simp [hs, hc]
  | some x =>
    have := hh x rfl
    by_cases k : n ≥ 8
    · simp [k, this, Config.halfCycleMin, Config.halfCycleMax]
    · simp [k, hs, hc, this, Config.halfCycleMin, Config.halfCycleMax]; omega

theorem Tracker.h_range {t : Tracker} (h : t.lawful = true) (x : Nat) (e : t.h = some x) : 7500 ≤ x ∧ x ≤ 11000 := by
  unfold Tracker.lawful at h
  rw [e] at h
  simp only [Config.halfCycleMin, Config.halfCycleMax, Bool.and_eq_true] at h
  exact of_decide_eq_true h.1

theorem Tracker.seekFrom_lawful {t : Tracker} (now : LineTime) (h : t.lawful = true) : (t.seekFrom now).lawful = true := by
  have hr := Tracker.h_range h
  unfold Tracker.lawful Tracker.seekFrom
  cases e : t.h with
  | none => simp
  | some x => have := hr x e; simp [Config.halfCycleMin, Config.halfCycleMax, this]

theorem Tracker.agree_lawful {t : Tracker} (now : LineTime) (h : t.lawful = true) : (t.agree now).lawful = true := by
  unfold Tracker.agree
  split
  · unfold Tracker.lawful
    have := filterH_range ‹Nat› ((‹LineTime› : LineTime).dist now)
    simp [Config.halfCycleMin, Config.halfCycleMax, filterH_range]
  · exact h

theorem Tracker.seeking_counts {t : Tracker} (h : t.lawful = true) (hs : t.state = .seeking) :
    t.lockCount ≤ 7 ∧ t.missCount = 0 ∧ t.disturbedCount = 0 := by
  unfold Tracker.lawful at h
  rw [hs] at h
  simp at h
  exact ⟨h.2.1, h.2.2.1, h.2.2.2.1⟩

theorem Tracker.seekCrossing_lawful {t : Tracker} (now : LineTime) (h : t.lawful = true) (hs : t.state = .seeking) :
    (t.seekCrossing now).1.lawful = true := by
  obtain ⟨-, hc⟩ := Tracker.seeking_counts h hs
  have hr := Tracker.h_range h
  unfold Tracker.seekCrossing
  split
  · exact Tracker.takeReference_lawful _ _ _ _ hs hc hr (by omega)
  · dsimp only
    split
    · exact h
    · split
      · exact Tracker.takeReference_lawful _ _ _ _ hs hc hr (by omega)
      · rename_i h1 h2
        have hi : ∀ x, some (LineTime.dist ‹LineTime› now) = some x → 7500 ≤ x ∧ x ≤ 11000 := by
          intro x e; cases e
          simp only [Config.halfCycleMin, Config.halfCycleMax] at h1 h2
          omega
        have k1 : (t.takeReference now (some (LineTime.dist ‹LineTime› now)) 1).lawful = true :=
          Tracker.takeReference_lawful _ _ _ _ hs hc hi (fun _ => rfl)
        split
        · split
          · exact Tracker.takeReference_lawful _ _ _ _ hs hc
              (fun x e => by cases e; exact filterH_range _ _) (fun _ => rfl)
          · exact k1
        · exact k1

theorem Tracker.crossing_lawful {t : Tracker} (now : LineTime) (h : t.lawful = true) : (t.crossing now).1.lawful = true := by
  unfold Tracker.crossing
  split
  · exact Tracker.seekCrossing_lawful now h ‹_›
  · exact Tracker.seekFrom_lawful now h
  · split
    · exact h
    · split
      · exact Tracker.agree_lawful now h
      · exact h
      · exact h
      · exact h
  · split
    · exact h
    · split
      · exact Tracker.agree_lawful now h
      · exact h
      · split
        · exact Tracker.seekFrom_lawful now h
        · have hst : t.state = .holdover := by assumption
          unfold Tracker.lawful at h ⊢
          rw [hst] at h ⊢
          simp at h ⊢
          exact ⟨h.1, h.2.1, h.2.2.1, h.2.2.2.1, h.2.2.2.2.1, h.2.2.2.2.2.1, by omega⟩
      · exact h

theorem Tracker.lastEdge_lawful (t : Tracker) (e : Option LineTime) : Tracker.lawful { t with lastEdge := e } = t.lawful := rfl

theorem Kept.setTracker {s : State} (r : Tracker) (h : s.tracker.lawful = true → r.lawful = true) : Kept s (setTracker r s) := by
  unfold Machine.setTracker; dsimp only; split
  · exact ⟨rfl, rfl, rfl, h, id, fun _ => id, id, id, id, id, id⟩
  · exact ⟨rfl, rfl, rfl, h, id, fun _ => id, id, id, id, id, id⟩

theorem Kept.crossingEffect (s : State) : Kept s (crossingEffect s) := by
  have k : Kept s (Machine.setTracker { (s.tracker.crossing s.lineTime).1 with lastEdge := some s.lineTime } s) :=
    .setTracker _ fun h => by rw [Tracker.lastEdge_lawful]; exact Tracker.crossing_lawful _ h
  unfold Machine.crossingEffect; dsimp only
  split <;> split
  · exact (k.bump _).lockEndsListening
  · exact k.lockEndsListening
  · exact k.bump _
  · exact k

theorem Kept.dropReference {s : State} (hd : s.tracker.dropDue s.lineTime = true) : Kept s (dropReference s) := by
  refine .setTracker _ fun h => ?_
  have hr := Tracker.h_range h
  have hs : s.tracker.state = .seeking := by
    unfold Tracker.dropDue at hd; split at hd
    · assumption
    · cases hd
  obtain ⟨-, hc⟩ := Tracker.seeking_counts h hs
  unfold Tracker.lawful
  cases e : s.tracker.h with
  | none => simp [hs, hc]
  | some x => have := hr x e; simp [hs, hc, this, Config.halfCycleMin, Config.halfCycleMax]

theorem Kept.expireWindow {s : State} (hd : s.tracker.expiryDue s.lineTime = true) : Kept s (expireWindow s) := by
  refine .setTracker _ fun h => ?_
  have hr := Tracker.h_range h
  have he : s.tracker.expected.isSome = true := by
    unfold Tracker.expiryDue at hd; split at hd
    · simp [*]
    · simp [*]
    · cases hd
  have hh : s.tracker.h.isSome = true := by
    unfold Tracker.expected at he; split at he
    · simp [*]
    · cases he
  obtain ⟨x, ex⟩ := Option.isSome_iff_exists.1 hh
  have hx := hr x ex
  have hst : s.tracker.state = .locked ∨ s.tracker.state = .holdover := by
    unfold Tracker.expiryDue at hd; split at hd
    · exact .inl ‹_›
    · exact .inr ‹_›
    · cases hd
  rcases hst with hst | hst
  · unfold Tracker.expire Tracker.lawful
    simp [hst, ex, he, hx, Config.halfCycleMin, Config.halfCycleMax]
  · unfold Tracker.lawful at h
    rw [hst, ex] at h
    simp at h
    unfold Tracker.expire Tracker.lawful
    by_cases k : s.tracker.missCount + 1 ≥ 16
    · simp [hst, ex, he, hx, k, Config.halfCycleMin, Config.halfCycleMax]
    · simp [hst, ex, he, hx, k, Config.halfCycleMin, Config.halfCycleMax]; omega

theorem Kept.placeSynthetic {s : State} (hd : s.tracker.syntheticDue s.lineTime = true) : Kept s (placeSynthetic s) := by
  refine .setTracker _ fun h => ?_
  unfold Tracker.syntheticDue at hd
  split at hd
  · rename_i x hst hex
    have hh : s.tracker.h.isSome = true := by
      unfold Tracker.expected at hex; split at hex
      · simp [*]
      · cases hex
    unfold Tracker.lawful at h ⊢
    rw [hst] at h ⊢
    simp [hex] at h ⊢
    exact ⟨h.1, h.2.2.1, h.2.2.2.2⟩
  · cases hd

/-! ### Start-up -/

theorem Kept.enterListening (m : List Byte) {s : State} (hs : s.startUp = .loading) : Kept s (enterListening m s) := by
  have k : s.AllowanceHeld → s.thermal.limited = true → s.thermal.used ≤ (loadSettings m).dutyPercent * 100 :=
    fun h e => absurd e (by rw [h.1 hs]; nofun)
  unfold Machine.enterListening; dsimp only; split
  · exact ⟨rfl, rfl, rfl, id, fun _ => loadSettings_lawful m, fun _ => id, id, id, id, id, fun h => ⟨nofun, k h⟩⟩
  · exact ⟨rfl, rfl, rfl, id, fun _ => loadSettings_lawful m, fun _ => id, id, id, id, id, fun h => ⟨nofun, k h⟩⟩

theorem Kept.loadEffect (m : List Byte) {s : State} (hs : s.startUp = .loading) : Kept s (loadEffect m s) := by
  unfold Machine.loadEffect; dsimp only; split
  · exact (Kept.enterListening m hs).enterRunning
  · exact Kept.enterListening m hs

/-! ### One lemma per command -/

theorem execZcCrossing_keeps (s : State) : Keeps s (execZcCrossing s) :=
  keeps_whenLive (kept_settled (.crossingEffect s))

theorem execReferenceDrop_keeps (s : State) : Keeps s (execReferenceDrop s) := by
  refine keeps_whenLive ?_
  unfold whenDue; split
  · exact .dropReference ‹_›
  · exact .refl s

theorem execWindowExpiry_keeps (s : State) : Keeps s (execWindowExpiry s) := by
  refine keeps_whenLive ?_
  unfold whenDue; split
  · exact .expireWindow ‹_›
  · exact .refl s

theorem execFreeRunSynthetic_keeps (s : State) : Keeps s (execFreeRunSynthetic s) := by
  refine keeps_whenLive ?_
  unfold whenDue; split
  · exact .placeSynthetic ‹_›
  · exact .refl s

theorem execFrameStart_keeps (p : Pair) (b : Preamble) (s : State) : Keeps s (execFrameStart p b s) :=
  keeps_whenLive (kept_whenDue (((Kept.refl s).openReception p b).macFrameStart))

theorem execHeaderEvent_keeps (c : List (Pair × Demodulated)) (s : State) : Keeps s (execHeaderEvent c s) :=
  keeps_whenLive (kept_whenDue (kept_settled ((Kept.refl s).takeHeader _)))

theorem execPayloadSymbolStart_keeps (s : State) : Keeps s (execPayloadSymbolStart s) :=
  keeps_whenLive (kept_whenDue ((Kept.refl s).modLine _))

theorem execFrameEnd_keeps (b : Demodulated) (l : List (List Int)) (s : State) : Keeps s (execFrameEnd b l s) :=
  keeps_whenLive (kept_whenDue (kept_settled ((Kept.refl s).endReception _ l)))

theorem execSoundPayloadStart_keeps (s : State) : Keeps s (execSoundPayloadStart s) :=
  keeps_whenLive (kept_whenDue ((Inner.of_fields rfl).kept))

theorem execSentFrameEnd_keeps (s : State) : Keeps s (execSentFrameEnd s) :=
  keeps_whenLive (kept_whenDue (kept_settled ((Kept.refl s).endSent)))

theorem execRespStart_keeps (s : State) : Keeps s (execRespStart s) :=
  keeps_whenLive (kept_whenDue (kept_settled ((Kept.refl s).startResp)))

theorem execRespFrameEnd_keeps (s : State) : Keeps s (execRespFrameEnd s) :=
  keeps_whenLive (kept_whenDue (kept_settled ((Kept.refl s).endResp)))

theorem execSignalSlotEnd_keeps (s : State) : Keeps s (execSignalSlotEnd s) :=
  keeps_whenLive (kept_whenDue (kept_settled ((Kept.refl s).endSignalSlot)))

theorem execToneHeard_keeps (s : State) : Keeps s (execToneHeard s) :=
  keeps_whenLive (kept_whenDue ((Kept.refl s).hearTone))

theorem execContentionSlotEnd_keeps (b : Bool) (s : State) : Keeps s (execContentionSlotEnd b s) :=
  keeps_whenLive (kept_whenDue (kept_settled ((Kept.refl s).endContentionSlot b)))

theorem execGapDeadline_keeps (s : State) : Keeps s (execGapDeadline s) :=
  keeps_whenLive (kept_whenDue (kept_settled ((Kept.refl s).beginPeriod)))

theorem execToneWatchEnd_keeps (s : State) : Keeps s (execToneWatchEnd s) :=
  keeps_whenLive (kept_whenDue (kept_settled ((Kept.refl s).beginPeriod)))

theorem execResponseDeadline_keeps (s : State) : Keeps s (execResponseDeadline s) :=
  keeps_whenLive (kept_whenDue (kept_settled ((Kept.refl s).responseRunsOut)))

theorem execDutyBoundary_keeps (b : Bool) (s : State) : Keeps s (execDutyBoundary b s) :=
  keeps_whenLive (kept_whenDue (kept_settled ((Kept.refl s).dutyBoundaryEffect b)))

theorem execSoundDeadline_keeps (s : State) : Keeps s (execSoundDeadline s) :=
  keeps_whenLive (kept_whenDue (kept_settled ((Inner.refl s).intervalPath.kept)))

theorem execSound20msPoint_keeps (s : State) : Keeps s (execSound20msPoint s) :=
  keeps_whenLive (kept_whenDue (kept_settled ((Kept.refl s).wantPoint)))

theorem execSoundSlotEligible_keeps (s : State) : Keeps s (execSoundSlotEligible s) :=
  keeps_whenLive (kept_whenDue (kept_settled ((Inner.refl s).markEval.kept)))

theorem execBuildCompletion_keeps (e : EntryIx) (s : State) : Keeps s (execBuildCompletion e s) :=
  keeps_whenLive (kept_whenDue (kept_settled (((Inner.refl s).completeBuild e).kept)))

theorem execRebuildDeadline_keeps (e : EntryIx) (s : State) : Keeps s (execRebuildDeadline e s) :=
  keeps_whenLive (kept_whenDue (kept_settled (((Inner.refl s).rebuildDue e).kept)))

theorem execEntryAgingDeadline_keeps (e : EntryIx) (s : State) : Keeps s (execEntryAgingDeadline e s) :=
  keeps_whenLive (kept_whenDue (kept_settled (((Inner.refl s).ageOut e).kept)))

theorem execHoldExpiry_keeps (e : EntryIx) (s : State) : Keeps s (execHoldExpiry e s) :=
  keeps_whenLive (kept_whenDue (kept_settled (((Inner.refl s).clearHold e).kept)))

theorem execNoteDeadline_keeps (s : State) : Keeps s (execNoteDeadline s) :=
  keeps_whenLive (kept_whenDue (kept_settled ((Inner.refl s).noteDue.kept)))

theorem execFrameExpiry_keeps (id : Nat) (s : State) : Keeps s (execFrameExpiry id s) :=
  keeps_whenLive (kept_settled (((Inner.refl s).expireFrame id).kept))

theorem execMapAging_keeps (i : MapIx) (s : State) : Keeps s (execMapAging i s) :=
  keeps_whenLive (kept_whenDue ((((Inner.refl s).setMap i none).bump _).kept))

theorem execHostFrameReceived_keeps (f : List Byte) (s : State) : Keeps s (execHostFrameReceived f s) :=
  keeps_whenLive (kept_settled ((Kept.refl s).takeHostFrame f))

theorem execHostHoldEnd_keeps (s : State) : Keeps s (execHostHoldEnd s) :=
  keeps_whenLive (kept_whenDue (kept_settled ((Kept.refl s).endHold)))

theorem execPauseRefresh_keeps (s : State) : Keeps s (execPauseRefresh s) :=
  keeps_whenLive (kept_whenDue (kept_settled ((Kept.refl s).refreshPause)))

theorem execStatus_keeps (s : State) : Keeps s (execStatus s) :=
  keeps_whenLive (kept_whenDue (kept_settled ((Kept.refl s).serveStatus)))

theorem execAttentionClear_keeps (s : State) : Keeps s (execAttentionClear s) :=
  keeps_whenLive (kept_whenDue (kept_settled ((Kept.refl s).serveStatus)))

theorem execCounters_keeps (s : State) : Keeps s (execCounters s) :=
  keeps_whenLive (kept_whenDue (kept_settled ((Kept.refl s).serveCounters)))

theorem execCountersClear_keeps (s : State) : Keeps s (execCountersClear s) :=
  keeps_whenLive (kept_whenDue (kept_settled ((Kept.refl s).serveCounters)))

theorem execStationTable_keeps (s : State) : Keeps s (execStationTable s) :=
  keeps_whenLive (kept_whenDue (kept_settled (((Kept.refl s).serve answerOther).draw)))

theorem execWindowRead_keeps (s : State) : Keeps s (execWindowRead s) :=
  keeps_whenLive (kept_whenDue (kept_settled (((Kept.refl s).serve answerOther).draw)))

theorem execAddressMap_keeps (s : State) : Keeps s (execAddressMap s) :=
  keeps_whenLive (kept_whenDue (kept_settled (((Kept.refl s).serve answerOther).draw)))

theorem execConfigRead_keeps (s : State) : Keeps s (execConfigRead s) :=
  keeps_whenLive (kept_whenDue (kept_settled ((Kept.refl s).serve answerOther)))

theorem execRestart_keeps (s : State) : Keeps s (execRestart s) :=
  keeps_whenLive (kept_whenDue (kept_settled ((Kept.refl s).serve answerOther)))

theorem execUnknownRequest_keeps (s : State) : Keeps s (execUnknownRequest s) :=
  keeps_whenLive (kept_whenDue (kept_settled (((Kept.refl s).serve answerOther).bump _)))

theorem execLoadCompletion_keeps (m : List Byte) (s : State) : Keeps s (execLoadCompletion m s) :=
  keeps_whenLive (by
    unfold whenDue; split
    · exact kept_settled (.loadEffect m (eq_of_beq ‹_›))
    · exact .refl s)

theorem execListeningDeadline_keeps (s : State) : Keeps s (execListeningDeadline s) :=
  keeps_whenLive (kept_whenDue (kept_settled ((Kept.refl s).enterRunning)))


/-- The end of a frame to the host, unless it is the response that restarts the part. -/
theorem execHostTxDone_keeps (b : Bool) {s : State} (h : s.restartSent = false) : Keeps s (execHostTxDone b s) := by
  have e : hostTxEnd b s = settled txDone s := by unfold hostTxEnd; rw [h]; rfl
  refine keeps_whenLive (kept_whenDue ?_)
  rw [e]; exact kept_settled (Kept.refl s).txDone

/-- The end of the response that restarts the part is a RESTART reset. -/
theorem hostTxEnd_restart (b : Bool) {s : State} (h : s.restartSent = true) :
    hostTxEnd b s = finishReset .restart b (txDone s) := by unfold hostTxEnd; rw [h]; rfl

/-- Every command but a reset's begin, its end, and the end of the response that restarts the part answers a next state with `Kept`. -/
theorem exec_keeps (c : Instr) (s : State) (h1 : c ≠ .powerReset) (h2 : c ≠ .pinReset) (h3 : ∀ b, c ≠ .resetEnd b)
    (h4 : ∀ b, c = .hostTxDone b → s.restartSent = false) : Keeps s (exec c s) := by
  cases c
  case powerReset => exact absurd rfl h1
  case pinReset => exact absurd rfl h2
  case resetEnd b => exact absurd rfl (h3 b)
  case hostTxDone b => exact execHostTxDone_keeps b (h4 b rfl)
  case zcCrossing => exact execZcCrossing_keeps s
  case referenceDrop => exact execReferenceDrop_keeps s
  case windowExpiry => exact execWindowExpiry_keeps s
  case freeRunSynthetic => exact execFreeRunSynthetic_keeps s
  case frameStart pair preamble => exact execFrameStart_keeps _ _ s
  case headerEvent copies => exact execHeaderEvent_keeps _ s
  case frameEnd payload readings => exact execFrameEnd_keeps _ _ s
  case signalSlotEnd => exact execSignalSlotEnd_keeps s
  case toneHeard => exact execToneHeard_keeps s
  case contentionSlotEnd preamble => exact execContentionSlotEnd_keeps _ s
  case soundPayloadStart => exact execSoundPayloadStart_keeps s
  case sentFrameEnd => exact execSentFrameEnd_keeps s
  case gapDeadline => exact execGapDeadline_keeps s
  case toneWatchEnd => exact execToneWatchEnd_keeps s
  case responseDeadline => exact execResponseDeadline_keeps s
  case respStart => exact execRespStart_keeps s
  case respFrameEnd => exact execRespFrameEnd_keeps s
  case dutyBoundary drvhot => exact execDutyBoundary_keeps _ s
  case soundDeadline => exact execSoundDeadline_keeps s
  case sound20msPoint => exact execSound20msPoint_keeps s
  case soundSlotEligible => exact execSoundSlotEligible_keeps s
  case buildCompletion e => exact execBuildCompletion_keeps _ s
  case rebuildDeadline e => exact execRebuildDeadline_keeps _ s
  case entryAgingDeadline e => exact execEntryAgingDeadline_keeps _ s
  case holdExpiry e => exact execHoldExpiry_keeps _ s
  case noteDeadline => exact execNoteDeadline_keeps s
  case frameExpiry id => exact execFrameExpiry_keeps _ s
  case mapAging i => exact execMapAging_keeps _ s
  case hostFrameReceived frame => exact execHostFrameReceived_keeps _ s
  case hostHoldEnd => exact execHostHoldEnd_keeps s
  case pauseRefresh => exact execPauseRefresh_keeps s
  case status => exact execStatus_keeps s
  case attentionClear => exact execAttentionClear_keeps s
  case counters => exact execCounters_keeps s
  case countersClear => exact execCountersClear_keeps s
  case stationTable => exact execStationTable_keeps s
  case windowRead => exact execWindowRead_keeps s
  case addressMap => exact execAddressMap_keeps s
  case configRead => exact execConfigRead_keeps s
  case restart => exact execRestart_keeps s
  case unknownRequest => exact execUnknownRequest_keeps s
  case loadCompletion memory => exact execLoadCompletion_keeps _ s
  case listeningDeadline => exact execListeningDeadline_keeps s
  case payloadSymbolStart => exact execPayloadSymbolStart_keeps s

/-! ### At rest again -/

theorem setTracker_rested {s : State} (r : Tracker) (hs : s.Rested) : (setTracker r s).Rested := by
  unfold setTracker; dsimp only; split
  · exact rested_congr hs rfl rfl
  · exact rested_congr hs rfl rfl

theorem modMac_rested {s : State} (f : Mac → Mac) (hs : s.Rested) : (modMac f s).Rested := rested_congr hs rfl rfl

theorem modLine_rested {s : State} (f : LineInterface → LineInterface) (hs : s.Rested) : (modLine f s).Rested :=
  rested_congr hs rfl rfl

theorem macFrameStart_rested {s : State} (hs : s.Rested) : (macFrameStart s).Rested := by
  unfold macFrameStart
  split
  all_goals first
    | exact hs
    | exact modMac_rested _ hs
    | (unfold deferToFrame; dsimp only; split <;> exact rested_congr hs rfl rfl)

theorem hearTone_rested {s : State} (hs : s.Rested) : (hearTone s).Rested := by
  unfold hearTone enterToneWatch
  repeat' split
  all_goals exact hs

theorem execZcCrossing_rests {s : State} (hs : s.Rested) : Rests (execZcCrossing s) :=
  rests_whenLive hs (settled_rested _ _)

theorem execReferenceDrop_rests {s : State} (hs : s.Rested) : Rests (execReferenceDrop s) :=
  rests_whenLive hs (rested_whenDue hs (setTracker_rested _ hs))

theorem execWindowExpiry_rests {s : State} (hs : s.Rested) : Rests (execWindowExpiry s) :=
  rests_whenLive hs (rested_whenDue hs (setTracker_rested _ hs))

theorem execFreeRunSynthetic_rests {s : State} (hs : s.Rested) : Rests (execFreeRunSynthetic s) :=
  rests_whenLive hs (rested_whenDue hs (setTracker_rested _ hs))

theorem execFrameStart_rests (p : Pair) (b : Preamble) {s : State} (hs : s.Rested) : Rests (execFrameStart p b s) :=
  rests_whenLive hs (rested_whenDue hs (macFrameStart_rested (modLine_rested _ hs)))

theorem execHeaderEvent_rests (c : List (Pair × Demodulated)) {s : State} (hs : s.Rested) : Rests (execHeaderEvent c s) :=
  rests_whenLive hs (rested_whenDue hs (settled_rested _ _))

theorem execPayloadSymbolStart_rests {s : State} (hs : s.Rested) : Rests (execPayloadSymbolStart s) :=
  rests_whenLive hs (rested_whenDue hs (modLine_rested _ hs))

theorem execFrameEnd_rests (b : Demodulated) (l : List (List Int)) {s : State} (hs : s.Rested) : Rests (execFrameEnd b l s) :=
  rests_whenLive hs (rested_whenDue hs (settled_rested _ _))

theorem execSoundPayloadStart_rests {s : State} (hs : s.Rested) : Rests (execSoundPayloadStart s) :=
  rests_whenLive hs (rested_whenDue hs (rested_congr hs rfl rfl))

theorem execSentFrameEnd_rests {s : State} (hs : s.Rested) : Rests (execSentFrameEnd s) :=
  rests_whenLive hs (rested_whenDue hs (settled_rested _ _))

theorem execRespStart_rests {s : State} (hs : s.Rested) : Rests (execRespStart s) :=
  rests_whenLive hs (rested_whenDue hs (settled_rested _ _))

theorem execRespFrameEnd_rests {s : State} (hs : s.Rested) : Rests (execRespFrameEnd s) :=
  rests_whenLive hs (rested_whenDue hs (settled_rested _ _))

theorem execSignalSlotEnd_rests {s : State} (hs : s.Rested) : Rests (execSignalSlotEnd s) :=
  rests_whenLive hs (rested_whenDue hs (settled_rested _ _))

theorem execToneHeard_rests {s : State} (hs : s.Rested) : Rests (execToneHeard s) :=
  rests_whenLive hs (rested_whenDue hs (hearTone_rested hs))

theorem execContentionSlotEnd_rests (b : Bool) {s : State} (hs : s.Rested) : Rests (execContentionSlotEnd b s) :=
  rests_whenLive hs (rested_whenDue hs (settled_rested _ _))

theorem execGapDeadline_rests {s : State} (hs : s.Rested) : Rests (execGapDeadline s) :=
  rests_whenLive hs (rested_whenDue hs (settled_rested _ _))

theorem execToneWatchEnd_rests {s : State} (hs : s.Rested) : Rests (execToneWatchEnd s) :=
  rests_whenLive hs (rested_whenDue hs (settled_rested _ _))

theorem execResponseDeadline_rests {s : State} (hs : s.Rested) : Rests (execResponseDeadline s) :=
  rests_whenLive hs (rested_whenDue hs (settled_rested _ _))

theorem execDutyBoundary_rests (b : Bool) {s : State} (hs : s.Rested) : Rests (execDutyBoundary b s) :=
  rests_whenLive hs (rested_whenDue hs (settled_rested _ _))

theorem execSoundDeadline_rests {s : State} (hs : s.Rested) : Rests (execSoundDeadline s) :=
  rests_whenLive hs (rested_whenDue hs (settled_rested _ _))

theorem execSound20msPoint_rests {s : State} (hs : s.Rested) : Rests (execSound20msPoint s) :=
  rests_whenLive hs (rested_whenDue hs (settled_rested _ _))

theorem execSoundSlotEligible_rests {s : State} (hs : s.Rested) : Rests (execSoundSlotEligible s) :=
  rests_whenLive hs (rested_whenDue hs (settled_rested _ _))

theorem execBuildCompletion_rests (e : EntryIx) {s : State} (hs : s.Rested) : Rests (execBuildCompletion e s) :=
  rests_whenLive hs (rested_whenDue hs (settled_rested _ _))

theorem execRebuildDeadline_rests (e : EntryIx) {s : State} (hs : s.Rested) : Rests (execRebuildDeadline e s) :=
  rests_whenLive hs (rested_whenDue hs (settled_rested _ _))

theorem execEntryAgingDeadline_rests (e : EntryIx) {s : State} (hs : s.Rested) : Rests (execEntryAgingDeadline e s) :=
  rests_whenLive hs (rested_whenDue hs (settled_rested _ _))

theorem execHoldExpiry_rests (e : EntryIx) {s : State} (hs : s.Rested) : Rests (execHoldExpiry e s) :=
  rests_whenLive hs (rested_whenDue hs (settled_rested _ _))

theorem execNoteDeadline_rests {s : State} (hs : s.Rested) : Rests (execNoteDeadline s) :=
  rests_whenLive hs (rested_whenDue hs (settled_rested _ _))

theorem execFrameExpiry_rests (id : Nat) {s : State} (hs : s.Rested) : Rests (execFrameExpiry id s) :=
  rests_whenLive hs (settled_rested _ _)

theorem execMapAging_rests (i : MapIx) {s : State} (hs : s.Rested) : Rests (execMapAging i s) :=
  rests_whenLive hs (rested_whenDue hs (rested_congr hs rfl rfl))

theorem execHostFrameReceived_rests (f : List Byte) {s : State} (hs : s.Rested) : Rests (execHostFrameReceived f s) :=
  rests_whenLive hs (settled_rested _ _)

theorem execHostHoldEnd_rests {s : State} (hs : s.Rested) : Rests (execHostHoldEnd s) :=
  rests_whenLive hs (rested_whenDue hs (settled_rested _ _))

theorem execPauseRefresh_rests {s : State} (hs : s.Rested) : Rests (execPauseRefresh s) :=
  rests_whenLive hs (rested_whenDue hs (settled_rested _ _))

theorem execStatus_rests {s : State} (hs : s.Rested) : Rests (execStatus s) :=
  rests_whenLive hs (rested_whenDue hs (settled_rested _ _))

theorem execAttentionClear_rests {s : State} (hs : s.Rested) : Rests (execAttentionClear s) :=
  rests_whenLive hs (rested_whenDue hs (settled_rested _ _))

theorem execCounters_rests {s : State} (hs : s.Rested) : Rests (execCounters s) :=
  rests_whenLive hs (rested_whenDue hs (settled_rested _ _))

theorem execCountersClear_rests {s : State} (hs : s.Rested) : Rests (execCountersClear s) :=
  rests_whenLive hs (rested_whenDue hs (settled_rested _ _))

theorem execStationTable_rests {s : State} (hs : s.Rested) : Rests (execStationTable s) :=
  rests_whenLive hs (rested_whenDue hs (settled_rested _ _))

theorem execWindowRead_rests {s : State} (hs : s.Rested) : Rests (execWindowRead s) :=
  rests_whenLive hs (rested_whenDue hs (settled_rested _ _))

theorem execAddressMap_rests {s : State} (hs : s.Rested) : Rests (execAddressMap s) :=
  rests_whenLive hs (rested_whenDue hs (settled_rested _ _))

theorem execConfigRead_rests {s : State} (hs : s.Rested) : Rests (execConfigRead s) :=
  rests_whenLive hs (rested_whenDue hs (settled_rested _ _))

theorem execRestart_rests {s : State} (hs : s.Rested) : Rests (execRestart s) :=
  rests_whenLive hs (rested_whenDue hs (settled_rested _ _))

theorem execUnknownRequest_rests {s : State} (hs : s.Rested) : Rests (execUnknownRequest s) :=
  rests_whenLive hs (rested_whenDue hs (settled_rested _ _))

theorem execLoadCompletion_rests (m : List Byte) {s : State} (hs : s.Rested) : Rests (execLoadCompletion m s) :=
  rests_whenLive hs (rested_whenDue hs (settled_rested _ _))

theorem execListeningDeadline_rests {s : State} (hs : s.Rested) : Rests (execListeningDeadline s) :=
  rests_whenLive hs (rested_whenDue hs (settled_rested _ _))

theorem reset_port_rested (m : PortMode) : (Port.reset m).Rested := .inr ⟨rfl, .inr ⟨rfl, .inl rfl⟩⟩

theorem beginReset_rested (k : ResetKind) (s : State) : (beginReset k s).Rested := ⟨rfl, reset_port_rested _⟩

theorem finishReset_rested (k : ResetKind) (b : Bool) (s : State) : (finishReset k b s).Rested := ⟨rfl, reset_port_rested _⟩

/-- Every command leaves a part at rest at rest. -/
theorem exec_rests (c : Instr) {s : State} (hs : s.Rested) : Rests (exec c s) := by
  cases c
  case powerReset => exact ⟨_, rfl, beginReset_rested _ _⟩
  case pinReset => exact ⟨_, rfl, beginReset_rested _ _⟩
  case resetEnd b =>
    refine ⟨_, rfl, ?_⟩
    unfold endReset; split
    · exact finishReset_rested _ _ _
    · exact hs
  case hostTxDone b =>
    refine rests_whenLive hs (rested_whenDue hs ?_)
    unfold hostTxEnd; split
    · exact finishReset_rested _ _ _
    · exact settled_rested _ _
  case zcCrossing => exact execZcCrossing_rests hs
  case referenceDrop => exact execReferenceDrop_rests hs
  case windowExpiry => exact execWindowExpiry_rests hs
  case freeRunSynthetic => exact execFreeRunSynthetic_rests hs
  case frameStart pair preamble => exact execFrameStart_rests _ _ hs
  case headerEvent copies => exact execHeaderEvent_rests _ hs
  case frameEnd payload readings => exact execFrameEnd_rests _ _ hs
  case signalSlotEnd => exact execSignalSlotEnd_rests hs
  case toneHeard => exact execToneHeard_rests hs
  case contentionSlotEnd preamble => exact execContentionSlotEnd_rests _ hs
  case soundPayloadStart => exact execSoundPayloadStart_rests hs
  case sentFrameEnd => exact execSentFrameEnd_rests hs
  case gapDeadline => exact execGapDeadline_rests hs
  case toneWatchEnd => exact execToneWatchEnd_rests hs
  case responseDeadline => exact execResponseDeadline_rests hs
  case respStart => exact execRespStart_rests hs
  case respFrameEnd => exact execRespFrameEnd_rests hs
  case dutyBoundary drvhot => exact execDutyBoundary_rests _ hs
  case soundDeadline => exact execSoundDeadline_rests hs
  case sound20msPoint => exact execSound20msPoint_rests hs
  case soundSlotEligible => exact execSoundSlotEligible_rests hs
  case buildCompletion e => exact execBuildCompletion_rests _ hs
  case rebuildDeadline e => exact execRebuildDeadline_rests _ hs
  case entryAgingDeadline e => exact execEntryAgingDeadline_rests _ hs
  case holdExpiry e => exact execHoldExpiry_rests _ hs
  case noteDeadline => exact execNoteDeadline_rests hs
  case frameExpiry id => exact execFrameExpiry_rests _ hs
  case mapAging i => exact execMapAging_rests _ hs
  case hostFrameReceived frame => exact execHostFrameReceived_rests _ hs
  case hostHoldEnd => exact execHostHoldEnd_rests hs
  case pauseRefresh => exact execPauseRefresh_rests hs
  case status => exact execStatus_rests hs
  case attentionClear => exact execAttentionClear_rests hs
  case counters => exact execCounters_rests hs
  case countersClear => exact execCountersClear_rests hs
  case stationTable => exact execStationTable_rests hs
  case windowRead => exact execWindowRead_rests hs
  case addressMap => exact execAddressMap_rests hs
  case configRead => exact execConfigRead_rests hs
  case restart => exact execRestart_rests hs
  case unknownRequest => exact execUnknownRequest_rests hs
  case loadCompletion memory => exact execLoadCompletion_rests _ hs
  case listeningDeadline => exact execListeningDeadline_rests hs
  case payloadSymbolStart => exact execPayloadSymbolStart_rests hs

end Sys2Proof.Machine
end

