-- ==== Sys2Proof/Laws/Frames.lean ====
section
/-! SUPPORT. Frames: what `settle`, a contention period, the evaluation of the indicator and a route recomputation write, and which
counters they leave alone; and what each larger operation can do, said once: a transmission and its composition, a part taken, answered or
promoted, an entry created, removed or aged, a NOTE taken in, segments judged and fed. -/

namespace Sys2Proof.Machine

theorem nextInj {a b : State} (h : a = b) : (Host.Outcome.next a : Result) = .next b := by rw [h]

/-- `t` is `u` with nothing changed but what the events that end a command write. -/
def Ended (u t : State) : Prop := t = ({ u with evalDue := t.evalDue } : State).endedAs t

theorem Ended.refl (u : State) : Ended u u := rfl
theorem Ended.trans {a b c : State} (h : Ended a b) (k : Ended b c) : Ended a c := by
  unfold Ended at *
  rw [k]; rw [h]; rfl

theorem Ended.bump (c) {a b : State} (h : Ended a b) : Ended a (bump c b) := h.trans rfl
theorem Ended.bumpBy (c n) {a b : State} (h : Ended a b) : Ended a (bumpBy c n b) := by
  induction n generalizing b with
  | zero => exact h
  | succ n ih => exact ih (h.bump c)
theorem Ended.modMac (f) {a b : State} (h : Ended a b) : Ended a (modMac f b) := h.trans rfl
theorem Ended.dropU (q) {a b : State} (h : Ended a b) : Ended a (dropUnreachable q b) := by
  unfold dropUnreachable; dsimp only; split
  · exact h
  · exact (h.trans (show Ended b (setQueue q _ b) from rfl)).bumpBy _ _
theorem Ended.search (l) {a b : State} (h : Ended a b) : Ended a (searchQueues l b).2 := by
  induction l generalizing b with
  | nil => exact h
  | cons q l ih =>
    unfold searchQueues; dsimp only
    split
    · exact h.dropU q
    · exact ih (h.dropU q)
theorem Ended.find {a b : State} (h : Ended a b) : Ended a (findCandidate b).2 := by
  unfold findCandidate; split
  · exact h
  · have k := h.search b.settings.queueOrder
    rcases hx : searchQueues b.settings.queueOrder b with ⟨_ | c, s'⟩ <;> rw [hx] at k <;> exact k
theorem Ended.request {a b : State} (h : Ended a b) : Ended a (candidateRequest b).2 := by
  unfold candidateRequest; exact h.find.trans rfl
theorem Ended.beginPeriod {a b : State} (h : Ended a b) : Ended a (beginPeriod b) := by
  unfold Machine.beginPeriod; dsimp only
  split
  · unfold askCandidate
    generalize hb : Machine.modMac _ b = c
    have k : Ended a c := hb ▸ h.modMac _
    have r := k.request
    rcases hx : candidateRequest c with ⟨_ | x, s'⟩ <;> rw [hx] at r <;> dsimp only
    · exact r.modMac _
    · split
      · exact r.modMac _
      · exact ((r.modMac _).bump _).modMac _
  · exact (h.modMac _).modMac _
theorem Ended.eval {a b : State} (h : Ended a b) : Ended a (evaluateIfDue b) := by
  unfold evaluateIfDue; split
  · have : Ended b { b with evalDue := false } := rfl
    have k : Ended a (evaluate { b with evalDue := false }) := by
      unfold evaluate; dsimp only
      have k := (h.trans this).request
      split
      · unfold candidateNotice; split
        · exact k.beginPeriod
        · exact k
      · exact k
    exact k.trans rfl
  · exact h
theorem Ended.pause (n) {a b : State} (h : Ended a b) : Ended a (pauseTestAfter n b) := by
  unfold pauseTestAfter pauseTest; repeat' split
  all_goals first | exact h | exact h.trans rfl
theorem Ended.choose {a b : State} (h : Ended a b) : Ended a (chooseTx b) := by
  unfold chooseTx; repeat' split
  all_goals first | exact h | exact h.trans rfl
theorem Ended.settle (n) {a b : State} (h : Ended a b) : Ended a (settle n b) := (h.eval.pause n).choose

theorem settle_eval (n) (b : State) : (settle n b).evalDue = false := (settle_rested n b).1


theorem cnt_bump {c d : Counter} (h : d.index ≠ c.index) (s : State) : (bump d s).count c = s.count c := by
  unfold State.count; simp [bump]
  rw [Vector.getElem_set_ne]; intro e; exact h (Fin.ext e)
theorem cnt_self (c : Counter) (s : State) : (bump c s).count c = satInc (s.count c) := by
  unfold State.count; simp [bump]
theorem cnt_bumpBy {c d : Counter} (h : d.index ≠ c.index) (n) (s : State) : (bumpBy d n s).count c = s.count c := by
  induction n generalizing s with
  | zero => rfl
  | succ n ih => exact (ih _).trans (cnt_bump h s)
section
variable {c : Counter} (h1 : Counter.unreachableDrops.index ≠ c.index) (h2 : Counter.thermalDeferral.index ≠ c.index)
include h1
theorem cnt_drop (q) (b : State) : (dropUnreachable q b).count c = b.count c := by
  unfold dropUnreachable; dsimp only; split
  · rfl
  · rw [cnt_bumpBy h1]; rfl
theorem cnt_search (l) (b : State) : (searchQueues l b).2.count c = b.count c := by
  induction l generalizing b with
  | nil => rfl
  | cons q l ih =>
    unfold searchQueues; dsimp only; split
    · exact cnt_drop h1 q b
    · exact (ih _).trans (cnt_drop h1 q b)
theorem cnt_request (b : State) : (candidateRequest b).2.count c = b.count c := by
  show (findCandidate b).2.count c = _
  unfold findCandidate; split
  · rfl
  · have k := cnt_search h1 b.settings.queueOrder b
    rcases hx : searchQueues b.settings.queueOrder b with ⟨_ | c, s'⟩ <;> rw [hx] at k <;> exact k
include h2
theorem cnt_begin (b : State) : (beginPeriod b).count c = b.count c := by
  unfold Machine.beginPeriod; dsimp only
  split
  · unfold askCandidate
    generalize hb : Machine.modMac _ b = d
    have k : d.count c = b.count c := hb ▸ rfl
    have r := (cnt_request h1 d).trans k
    rcases hx : candidateRequest d with ⟨_ | x, s'⟩ <;> rw [hx] at r <;> dsimp only
    · exact r
    · split
      · exact r
      · show (setThermalWait s').count c = _
        unfold setThermalWait; rw [cnt_bump h2]; exact r
  · rfl
theorem cnt_settle (n) (b : State) : (settle n b).count c = b.count c := by
  have e : (evaluateIfDue b).count c = b.count c := by
    unfold evaluateIfDue; split
    · show (evaluate { b with evalDue := false }).count c = _
      unfold evaluate; dsimp only
      have k := cnt_request h1 { b with evalDue := false }
      split
      · unfold candidateNotice; split
        · exact (cnt_begin h1 h2 _).trans k
        · exact k
      · exact k
    · rfl
  unfold settle
  have p : ∀ x : State, (pauseTestAfter n x).count c = x.count c := by
    intro x; unfold pauseTestAfter pauseTest; repeat' split
    all_goals rfl
  have q : ∀ x : State, (chooseTx x).count c = x.count c := by
    intro x; unfold chooseTx; repeat' split
    all_goals rfl
  rw [q, p, e]
end
theorem ended_entry {u t : State} (h : Ended u t) (i) : t.entry i = u.entry i := by
  unfold Ended at h; rw [h]; rfl
theorem settle_table (n u) : (settle n u).table = u.table := by
  have h := (Ended.refl u).settle n; unfold Ended at h; rw [h]; rfl
theorem bumpBy_eq (c n) (s : State) : bumpBy c n s = { s with counters := (bumpBy c n s).counters } := by
  induction n generalizing s with
  | zero => rfl
  | succ n ih => show bumpBy c n (bump c s) = _; rw [ih]; rfl

theorem recompute_eq (s : State) : recompute s = { s with table := Vector.ofFn s.rerouted, counters := (recompute s).counters, evalDue := (recompute s).evalDue } := by
  unfold recompute; dsimp only
  generalize (List.countP _ _) = n
  rw [bumpBy_eq]; split <;> rfl

theorem recompute_entry (s : State) (i) : (recompute s).entry i = s.rerouted i := by
  rw [recompute_eq]; show (Vector.ofFn s.rerouted)[i] = _; simp
theorem recompute_addr (s : State) (i) : ((recompute s).entry i).map (·.addr) = (s.entry i).map (·.addr) := by
  rw [recompute_entry]; unfold State.rerouted; rw [Option.map_map]; rfl
theorem recompute_state (s : State) (i) : ((recompute s).entry i).map (·.state) = (s.entry i).map (·.state) := by
  rw [recompute_entry]; unfold State.rerouted; rw [Option.map_map]; rfl
theorem cnt_recompute {c : Counter} (h : Counter.routeChanges.index ≠ c.index) (s : State) : (recompute s).count c = s.count c := by
  unfold recompute; dsimp only
  generalize (List.countP _ _) = n
  have h2 : ∀ tb, (bumpBy .routeChanges n { s with table := tb}).count c = s.count c := fun tb => (cnt_bumpBy h n _).trans rfl
  have h2 := h2 (Vector.ofFn s.rerouted)
  generalize bumpBy _ n _ = x at *
  split
  · exact h2
  · exact h2

theorem entry_setEntry_self (i) (e) (s : State) : (setEntry i e s).entry i = e := by unfold State.entry; simp [setEntry]
theorem entry_setEntry_ne {i j : EntryIx} (h : j ≠ i) (e) (s : State) : (setEntry i e s).entry j = s.entry j := by
  unfold State.entry; simp [setEntry]; rw [Vector.getElem_set_ne]; intro k; exact h (Fin.ext k).symm

theorem table_frame {s u : State} {n : Nat} (h : u = { s with table := u.table, counters := u.counters, evalDue := u.evalDue }) (hs : s.evalDue = false) :
    settle n u = { s with table := (settle n u).table }.endedAs (settle n u) := by
  have k := (Ended.refl u).settle n
  unfold Ended at k
  have ht := settle_table n u
  have he := settle_eval n u
  generalize settle n u = t at *
  rw [k, h]; 
  unfold State.endedAs; simp [he, hs]

def TableFrame (s x : State) : Prop := x = { s with table := x.table, counters := x.counters, evalDue := x.evalDue }
theorem TableFrame.refl (s : State) : TableFrame s s := rfl
theorem TableFrame.set {s x : State} (h : TableFrame s x) (i e) : TableFrame s (setEntry i e x) := by
  unfold TableFrame at h; rw [h]; rfl
theorem TableFrame.bump {s x : State} (h : TableFrame s x) (c) : TableFrame s (bump c x) := by
  unfold TableFrame at h; rw [h]; rfl
theorem TableFrame.mark {s x : State} (h : TableFrame s x) : TableFrame s (markEval x) := by
  unfold TableFrame at h; rw [h]; rfl
theorem TableFrame.rec {s x : State} (h : TableFrame s x) : TableFrame s (recompute x) := by
  unfold TableFrame at *
  have k := recompute_eq x
  generalize recompute x = y at *
  rw [k, h]

theorem chooseRoute_absent (tb rates d) (e : Entry) (h : e.state.present = false) : chooseRoute tb rates d e ≠ .direct := by
  unfold chooseRoute; dsimp only
  rw [h]; simp
  repeat' split
  all_goals simp_all


theorem settled_at_rest {f : State → State} {s t : State} (h : f s = t) (hr : t.Rested) (hq : t.queues = s.queues) (ht : t.table = s.table) : settled f s = t :=
  settled_eq h hr (txCharge_congr hq ht)

theorem settle_port {t : State} (n : Nat) (h1 : t.evalDue = false) (h2 : t.txCharge = n) : settle n t = chooseTx t := by
  unfold settle; rw [evaluateIfDue_of_not_due h1]; unfold pauseTestAfter; rw [if_pos h2]
theorem settled_port {f : State → State} {s : State} (h1 : (f s).evalDue = false) (hq : (f s).queues = s.queues) (ht : (f s).table = s.table) : settled f s = chooseTx (f s) :=
  settle_port _ h1 (txCharge_congr hq ht)

theorem serve_tx (s : State) (a) : (serve a s).txCharge = s.txCharge := by
  unfold serve; cases s.port.requests <;> exact txCharge_congr rfl rfl

theorem chooseTx_served (s : State) (hs : s.port.pausePending = none) (hx : s.port.response ≠ none) :
    chooseTx s = { s with port := { s.port with sending := (if s.port.sending = none ∧ s.port.hold = none then some .response else s.port.sending) } } := by
  obtain ⟨x, hx⟩ := Option.ne_none_iff_exists'.1 hx
  unfold chooseTx modPort
  rcases hsn : s.port.sending with _ | a <;> rcases hh : s.port.hold with _ | b <;> simp [hs, hx]
  all_goals (obtain ⟨_, _, _, _, _, _, _, _, _, _, _, _, _, _, _, _, _, p, _, _, _, _, _, _, _, _, _⟩ := s; obtain ⟨_, _, _, _, _, _, _, _, _⟩ := p; simp_all)

theorem served {f : State → State} {s t : State} (h : f s = t) (h1 : s.Rested) (he : t.evalDue = s.evalDue) (hq : t.queues = s.queues) (ht : t.table = s.table)
    (hs : t.port.pausePending = none) (hx : t.port.response ≠ none) :
    settled f s = { t with port := { t.port with sending := if t.port.sending = none ∧ t.port.hold = none then some .response else t.port.sending } } := by
  unfold settled; rw [h, settle_port _ (he.trans h1.1) (txCharge_congr hq ht), chooseTx_served _ hs hx]



/-- `x` differs from `s` only in the station table and what hangs on it: pool, in-flight record, control list, address map -/
def EntryFrame (s x : State) : Prop :=
  x = { s with table := x.table, pool := x.pool, inFlight := x.inFlight, control := x.control, addressMap := x.addressMap,
               counters := x.counters, evalDue := x.evalDue }

namespace EntryFrame
variable {s x : State}
theorem refl (s : State) : EntryFrame s s := rfl
theorem of (h : EntryFrame s x) {y : State} (k : EntryFrame x y) : EntryFrame s y := by
  unfold EntryFrame at *; rw [k, h]
theorem bumpBy (h : EntryFrame s x) (c n) : EntryFrame s (bumpBy c n x) := by
  induction n generalizing x with
  | zero => exact h
  | succ n ih => exact ih (h.of rfl)
theorem recompute (h : EntryFrame s x) : EntryFrame s (recompute x) := by
  refine h.of ?_
  unfold EntryFrame
  have k := recompute_eq x
  generalize Machine.recompute x = y at *
  rw [k]
theorem modEntry (h : EntryFrame s x) (i f) : EntryFrame s (modEntry i f x) := by
  unfold Machine.modEntry; split
  · exact h
  · exact h.of rfl
theorem offerLowest (h : EntryFrame s x) (e) : EntryFrame s (offerLowest e x) := by
  unfold Machine.offerLowest; split
  · dsimp only; split
    · exact (h.modEntry _ _).of rfl
    · exact h
  · exact h
theorem foldl {α : Type} (f : State → α → State) (hf : ∀ s a, EntryFrame s (f s a)) (l : List α) (h : EntryFrame s x) :
    EntryFrame s (l.foldl f x) := by
  induction l generalizing x with
  | nil => exact h
  | cons a l ih => exact ih (h.of (hf _ _))
theorem leaveControl (h : EntryFrame s x) (g) : EntryFrame s (leaveControl g x) := by
  unfold Machine.leaveControl; dsimp only; split
  · exact h
  · split
    · exact foldl _ (fun u _ => foldl _ (fun v e => (refl v).offerLowest e) _ (refl u)) _ (h.of rfl)
    · exact h.of rfl
theorem discardBuild (h : EntryFrame s x) (i) : EntryFrame s (discardBuild i x) := by
  unfold Machine.discardBuild; split
  · exact h.of rfl
  · exact h
theorem removeEntry (h : EntryFrame s x) (i) : EntryFrame s (removeEntry i x) := by
  unfold Machine.removeEntry; split
  · exact h
  · dsimp only
    have a : EntryFrame s (freeAllRoles i (setEntry i none (Machine.discardBuild i x))) := (h.discardBuild i).of rfl
    refine EntryFrame.recompute (EntryFrame.of (EntryFrame.leaveControl (EntryFrame.of a ?_) _) rfl)
    rfl
theorem createEntry (h : EntryFrame s x) (i e) : EntryFrame s (createEntry i e x) := by
  unfold Machine.createEntry formRoute
  have a : EntryFrame s (setEntry i (State.rerouted (setEntry i (some e) x) i) (setEntry i (some e) x)) := h.of rfl
  have b := a.recompute
  generalize Machine.recompute _ = y at *
  exact b.of rfl
end EntryFrame

theorem settle_entryFrame {s u t : State} {n : Nat} (h : EntryFrame s u) (hs : s.evalDue = false) (ht : settle n u = t) :
    t = { s with table := t.table, pool := t.pool, inFlight := t.inFlight, control := t.control, addressMap := t.addressMap }.endedAs t := by
  have k := (Ended.refl u).settle n
  have he := settle_eval n u
  unfold Ended at k
  rw [ht] at k he
  unfold EntryFrame at h
  rw [k, h]
  unfold State.endedAs; simp [he, hs]

theorem settle_pool (n u) : (settle n u).pool = u.pool := by
  have h := (Ended.refl u).settle n; unfold Ended at h; rw [h]; rfl
theorem settle_map (n u) : (settle n u).addressMap = u.addressMap := by
  have h := (Ended.refl u).settle n; unfold Ended at h; rw [h]; rfl
theorem settle_inFlight (n u) : (settle n u).inFlight = u.inFlight := by
  have h := (Ended.refl u).settle n; unfold Ended at h; rw [h]; rfl
theorem settle_control (n u) : (settle n u).control = u.control := by
  have h := (Ended.refl u).settle n; unfold Ended at h; rw [h]; rfl
theorem settle_entry (n u) (i) : (settle n u).entry i = u.entry i := by unfold State.entry; rw [settle_table]

theorem recompute_unrouted (s : State) (i) : ((recompute s).entry i).map Entry.unrouted = (s.entry i).map Entry.unrouted := by
  rw [recompute_entry]; unfold State.rerouted; rw [Option.map_map]; rfl

theorem leaveControl_short (g) (s : State) (h : s.control.length < 16) :
    (leaveControl g s).table = s.table ∧ (leaveControl g s).control = s.control.filter fun c => !g c := by
  unfold leaveControl; dsimp only; split
  · rename_i k
    refine ⟨rfl, ?_⟩
    have := List.filter_eq_self.2 (List.length_filter_eq_length_iff.1 k)
    rw [this]
  · rw [if_neg (by omega)]; exact ⟨rfl, rfl⟩

theorem offerLowest_addr (e) (s : State) (i) : ((offerLowest e s).entry i).map (·.addr) = (s.entry i).map (·.addr) := by
  unfold offerLowest; split
  · dsimp only; split
    · show ((modEntry e _ s).entry i).map _ = _
      unfold modEntry; split
      · rfl
      · rename_i x hx
        by_cases h : i = e
        · subst h; rw [entry_setEntry_self, hx]; rfl
        · rw [entry_setEntry_ne h]
    · rfl
  · rfl
theorem offerLowest_none (e) (s : State) (i) (h : s.entry i = none) : (offerLowest e s).entry i = none := by
  have := offerLowest_addr e s i; rw [h] at this; simpa using this
theorem foldl_addr {α : Type} (f : State → α → State) (i) (hf : ∀ s a, ((f s a).entry i).map (·.addr) = (s.entry i).map (·.addr)) (l : List α) (s) :
    ((l.foldl f s).entry i).map (·.addr) = (s.entry i).map (·.addr) := by
  induction l generalizing s with
  | nil => rfl
  | cons a l ih => exact (ih _).trans (hf _ _)
theorem leaveControl_addr (g) (s : State) (i) : ((leaveControl g s).entry i).map (·.addr) = (s.entry i).map (·.addr) := by
  unfold leaveControl; dsimp only; split
  · rfl
  · split
    · exact foldl_addr _ i (fun u _ => foldl_addr _ i (fun v e => offerLowest_addr e v i) _ u) _ _
    · rfl

theorem discardBuild_table (i) (s : State) : (discardBuild i s).table = s.table ∧ (discardBuild i s).pool = s.pool ∧
   (discardBuild i s).control = s.control ∧ (discardBuild i s).inFlight = s.inFlight ∧ (discardBuild i s).addressMap = s.addressMap := by
  unfold discardBuild; split
  · exact ⟨rfl, rfl, rfl, rfl, rfl⟩
  · exact ⟨rfl, rfl, rfl, rfl, rfl⟩

theorem leaveControl_pool' (g) (s : State) : (leaveControl g s).inFlight = s.inFlight ∧ (leaveControl g s).addressMap = s.addressMap := by
  have hf : ∀ {α : Type} (f : State → α → State) (hf : ∀ s a, (f s a).inFlight = s.inFlight ∧ (f s a).addressMap = s.addressMap) (l : List α) (s : State),
     (l.foldl f s).inFlight = s.inFlight ∧ (l.foldl f s).addressMap = s.addressMap := by
    intro α f hf l
    induction l with
    | nil => intro s; exact ⟨rfl, rfl⟩
    | cons a l ih => intro s; exact ⟨(ih _).1.trans (hf _ _).1, (ih _).2.trans (hf _ _).2⟩
  have ho : ∀ e s, (offerLowest e s).inFlight = s.inFlight ∧ (offerLowest e s).addressMap = s.addressMap := by
    intro e s; unfold offerLowest; split
    · dsimp only; split
      · unfold modEntry; split <;> exact ⟨rfl, rfl⟩
      · exact ⟨rfl, rfl⟩
    · exact ⟨rfl, rfl⟩
  unfold leaveControl; dsimp only; split
  · exact ⟨rfl, rfl⟩
  · split
    · exact hf _ (fun u _ => hf _ (fun v e => ho e v) _ u) _ _
    · exact ⟨rfl, rfl⟩

/-- R132: what a removal does. -/
theorem removeEntry_spec {s : State} {i : EntryIx} {e : Entry} (he : s.entry i = some e) :
    (removeEntry i s).entry i = none ∧
    (∀ j, j ≠ i → ((removeEntry i s).entry j).map (·.addr) = (s.entry j).map (·.addr)) ∧
    (s.control.length < 16 → s.OthersKept (removeEntry i s) i) ∧
    (∀ k : SlotIx, (removeEntry i s).pool[k] = (s.pool[k]).filter fun g => g.entry != i) ∧
    (∀ k : MapIx, (removeEntry i s).addressMap[k] = (s.addressMap[k]).filter fun m => m.target != .station e.addr) ∧
    (removeEntry i s).inFlight = s.inFlight.filter (fun x => x.entry != i) ∧
    (s.control.length < 16 → (removeEntry i s).control = s.control.filter fun c => !c.partOf i) := by
  obtain ⟨d1, d2, d3, d4, d5⟩ := discardBuild_table i s
  have eq : removeEntry i s = recompute (markEval (forgetStation e.addr (leaveControl (ControlEntry.partOf i)
      { freeAllRoles i (setEntry i none (discardBuild i s)) with
        inFlight := (freeAllRoles i (setEntry i none (discardBuild i s))).inFlight.filter fun r => r.entry != i }))) := by
    unfold removeEntry; rw [he]
  generalize hu : ({ freeAllRoles i (setEntry i none (discardBuild i s)) with
        inFlight := (freeAllRoles i (setEntry i none (discardBuild i s))).inFlight.filter fun r => r.entry != i } : State) = u at eq
  have ui : u.entry i = none := by subst hu; exact entry_setEntry_self i none _
  have uj : ∀ j, j ≠ i → u.entry j = s.entry j := by
    intro j hj; subst hu
    refine (entry_setEntry_ne hj none _).trans ?_
    unfold State.entry; rw [d1]
  have uc : u.control = s.control := by subst hu; exact d3
  have uf : u.inFlight = s.inFlight.filter fun x => x.entry != i := by subst hu; show Option.filter _ (discardBuild i s).inFlight = _; rw [d4]
  have um : u.addressMap = s.addressMap := by subst hu; exact d5
  have up : ∀ k : SlotIx, u.pool[k] = (s.pool[k]).filter fun g => g.entry != i := by
    intro k; subst hu
    show ((discardBuild i s).pool.map _)[k] = _
    rw [d2]; simp only [Fin.getElem_fin, Vector.getElem_map]
    cases s.pool[k.val] with
    | none => rfl
    | some g => simp only [Option.filter]; by_cases h : g.entry = i <;> simp [h]
  have la := leaveControl_addr (ControlEntry.partOf i) u
  have ls := leaveControl_short (ControlEntry.partOf i) u
  obtain ⟨lf, lm⟩ := leaveControl_pool' (ControlEntry.partOf i) u
  have lp := leaveControl_pool (ControlEntry.partOf i) u
  rw [eq]
  generalize leaveControl (ControlEntry.partOf i) u = v at *
  have ve : ∀ j, (markEval (forgetStation e.addr v)).entry j = v.entry j := fun j => rfl
  refine ⟨?_, ?_, ?_, ?_, ?_, ?_, ?_⟩
  · have h1 := recompute_addr (markEval (forgetStation e.addr v)) i
    rw [ve, la, ui] at h1
    simpa using h1
  · intro j hj; rw [recompute_addr, ve, la, uj j hj]
  · intro h j hj
    rw [recompute_unrouted, ve]; unfold State.entry; rw [(ls (by rw [uc]; exact h)).1]; 
    show (u.entry j).map _ = _; rw [uj j hj]; rfl
  · intro k; rw [recompute_pool]; show v.pool[k] = _; rw [lp]; exact up k
  · intro k; rw [recompute_eq]
    show (v.addressMap.map _)[k] = _
    rw [lm, um]; simp only [Fin.getElem_fin, Vector.getElem_map]
    cases s.addressMap[k.val] with
    | none => rfl
    | some g => simp only [Option.filter]; by_cases h : g.target = .station e.addr <;> simp [h]
  · rw [recompute_eq]; show v.inFlight = _; rw [lf, uf]
  · intro h; rw [recompute_eq]; show v.control = _; rw [(ls (by rw [uc]; exact h)).2, uc]
theorem txCharge_set {s t : State} {i : EntryIx} {e x : Entry} (he : s.entry i = some e) (hx : x.tx = e.tx) (hq : t.queues = s.queues) (ht : t.table = s.table.set i (some x)) :
   t.txCharge = s.txCharge := by
  unfold State.txCharge; rw [hq, ht]; congr 2
  have e1 : x.txCharge = e.txCharge := by unfold Entry.txCharge; rw [hx]
  have he : s.table.toList[i.val]'(by simp) = some e := by rw [Vector.getElem_toList]; exact he
  rw [Vector.toList_set, List.map_set]
  apply List.ext_getElem (by simp)
  intro n h1 h2
  rw [List.getElem_set]; split
  · subst_vars; simp only [List.getElem_map, he]; simp [e1]
  · rfl

theorem learned_known {s : State} {i : EntryIx} {e : Entry} (a) (b) (h : s.findEntry a = some i) (he : s.entry i = some e) (hp : e.state = .heard ∨ e.state = .linked) :
   learn a b s = { s with table := s.table.set i (some { e with lastHeard := some s.lineTime, peerTrusted := b }) } := by
  unfold learn; rw [h]; dsimp only; unfold hearAgain; rw [he]; dsimp only
  rcases hp with hp | hp <;> simp [hp, State.learnedState, setEntry] <;> (obtain ⟨_⟩ := e; simp_all)

theorem findEntry_set {s : State} {i : EntryIx} {e x : Entry} {a} (he : s.entry i = some e) (hx : x.addr = e.addr) :
   ({ s with table := s.table.set i (some x) } : State).findEntry a = s.findEntry a := by
  unfold State.findEntry
  refine congrArg (fun f => List.find? f (List.finRange 24)) (funext fun j => ?_)
  have : ({ s with table := s.table.set i (some x) } : State).entry j = if j = i then some x else s.entry j := entry_setEntry i j _ s
  rw [this]; by_cases k : j = i
  · subst k; simp [he, hx]
  · simp [k]

theorem settle_one {s t : State} {i : EntryIx} {e : Entry} (x : Entry) (hr : s.Rested) (he : s.entry i = some e) (hx : x.tx = e.tx)
   (ht : t.table = s.table.set i (some x)) (hq : t.queues = s.queues) (hp : t.port = s.port) (hv : t.evalDue = s.evalDue) : settle s.txCharge t = t :=
  settle_of_rested (by unfold State.Rested at *; rw [hp, hv]; exact hr) (txCharge_set he hx hq ht)

def obStep (age : EntryIx → Option Nat) (best : Option (EntryIx × Nat)) (i : EntryIx) : Option (EntryIx × Nat) :=
    match age i, best with
    | none, _ => best
    | some a, none => some (i, a)
    | some a, some b => if a > b.2 then some (i, a) else best

theorem ob_inv (age) (i : EntryIx) (a : Nat) (ha : age i = some a) (hm : ∀ j b, age j = some b → b ≤ a ∧ (j < i → b < a)) :
   ∀ (l : List EntryIx), l.Pairwise (· < ·) → ∀ best : Option (EntryIx × Nat),
     ((best = some (i, a) ∧ ∀ j ∈ l, i < j) ∨ (i ∈ l ∧ ∀ b, best = some b → b.2 < a)) → l.foldl (obStep age) best = some (i, a) := by
  intro l
  induction l with
  | nil => intro _ best h; rcases h with h | h
           · exact h.1
           · cases h.1
  | cons k l ih =>
    intro hp best h
    rw [List.pairwise_cons] at hp
    rw [List.foldl_cons]
    apply ih hp.2
    rcases h with ⟨h1, h2⟩ | ⟨h1, h2⟩
    · left
      refine ⟨?_, fun j hj => h2 j (List.mem_cons_of_mem _ hj)⟩
      unfold obStep
      rcases hk : age k with _ | b
      · simpa using h1
      · rw [h1]; dsimp only
        have := (hm k b hk).1
        rw [if_neg (by omega)]
    · by_cases hk : k = i
      · subst hk; left
        refine ⟨?_, hp.1⟩
        unfold obStep; rw [ha]
        rcases best with _ | b
        · rfl
        · dsimp only; rw [if_pos (h2 b rfl)]
      · right
        have hi : i ∈ l := by rcases List.mem_cons.1 h1 with h | h; exact absurd h.symm hk; exact h
        refine ⟨hi, ?_⟩
        have hlt := hp.1 i hi
        unfold obStep
        rcases hk : age k with _ | b
        · exact h2
        · have hb := (hm k b hk).2 hlt
          rcases best with _ | b2
          · intro c hc; cases hc; exact hb
          · dsimp only; split
            · intro c hc; cases hc; exact hb
            · exact h2

theorem finRange_sorted (n : Nat) : (List.finRange n).Pairwise (· < ·) := by
  rw [List.pairwise_iff_getElem]; intro i j hi hj h; simpa using h

theorem oldestBy_some {age : EntryIx → Option Nat} {i : EntryIx} {a : Nat} (ha : age i = some a) (hm : ∀ j b, age j = some b → b ≤ a ∧ (j < i → b < a)) :
   oldestBy age = some i := by
  have : oldestBy age = ((List.finRange 24).foldl (obStep age) none).map (·.1) := rfl
  rw [this, ob_inv age i a ha hm _ (finRange_sorted _) none (.inr ⟨List.mem_finRange i, nofun⟩)]; rfl

theorem oldestBy_none {age : EntryIx → Option Nat} (h : ∀ i, age i = none) : oldestBy age = none := by
  have : oldestBy age = ((List.finRange 24).foldl (obStep age) none).map (·.1) := rfl
  rw [this]
  have : ∀ l : List EntryIx, l.foldl (obStep age) none = none := by
    intro l; induction l with
    | nil => rfl
    | cons k l ih => rw [List.foldl_cons]; have : obStep age none k = none := by unfold obStep; rw [h]
                     rw [this, ih]
  rw [this]; rfl

theorem cnt_discard {c : Counter} (h : Counter.buildsDiscarded.index ≠ c.index) (i s) : (discardBuild i s).count c = s.count c := by
  unfold discardBuild; split
  · exact cnt_bump h _
  · rfl

theorem cnt_leave {c : Counter} (g s) : (leaveControl g s).count c = s.count c := by
  have ho : ∀ e s, (offerLowest e s).count c = s.count c := by
    intro e s; unfold offerLowest; split
    · dsimp only; split
      · unfold modEntry; split <;> rfl
      · rfl
    · rfl
  have hf : ∀ {α : Type} (f : State → α → State) (hf : ∀ s a, (f s a).count c = s.count c) (l : List α) (s : State),
     (l.foldl f s).count c = s.count c := by
    intro α f hf l
    induction l with
    | nil => intro s; rfl
    | cons a l ih => intro s; exact (ih _).trans (hf _ _)
  unfold leaveControl; dsimp only; split
  · rfl
  · split
    · exact hf _ (fun u _ => hf _ (fun v e => ho e v) _ u) _ _
    · rfl

theorem cnt_mark (c : Counter) (s) : (markEval s).count c = s.count c := rfl
theorem cnt_forget (c : Counter) (a) (s) : (forgetStation a s).count c = s.count c := rfl
theorem cnt_free (c : Counter) (a) (s) : (freeAllRoles a s).count c = s.count c := rfl

theorem cnt_remove {c : Counter} (h : Counter.buildsDiscarded.index ≠ c.index) (h2 : Counter.routeChanges.index ≠ c.index) (i s) : (removeEntry i s).count c = s.count c := by
  unfold removeEntry; split
  · rfl
  · dsimp only
    rw [cnt_recompute h2, cnt_mark, cnt_forget, cnt_leave]
    exact (cnt_free c i _).trans (cnt_discard h i s)


theorem entry_mark (i) (s : State) : (markEval s).entry i = s.entry i := rfl

theorem entry_bump (i c) (s : State) : (bump c s).entry i = s.entry i := rfl

theorem cnt_setEntry (c : Counter) (i e) (s) : (setEntry i e s).count c = s.count c := rfl

theorem cnt_create {c : Counter} (h1 : Counter.entriesCreated.index ≠ c.index) (h2 : Counter.routeChanges.index ≠ c.index) (i e s) (he : e.state = .heard) : (createEntry i e s).count c = s.count c := by
  unfold createEntry; dsimp only
  rw [cnt_mark, if_neg (by rw [he]; decide), cnt_bump h1, cnt_recompute h2]; unfold formRoute; rw [cnt_setEntry, cnt_setEntry]

theorem cnt_create_self (i e s) (he : e.state = .heard) : (createEntry i e s).count .entriesCreated = satInc (s.count .entriesCreated) := by
  unfold createEntry; dsimp only
  rw [cnt_mark, if_neg (by rw [he]; decide), cnt_self, cnt_recompute (by decide)]; unfold formRoute; rw [cnt_setEntry, cnt_setEntry]

theorem create_entry (i e s) : ∃ r x, (createEntry i e s).entry i = some { e with route := r, txRate := x } := by
  unfold createEntry; dsimp only
  rw [entry_mark, entry_bump, recompute_entry]; unfold State.rerouted
  have : (formRoute i (setEntry i (some e) s)).entry i = (setEntry i (some e) s).rerouted i := entry_setEntry_self _ _ _
  rw [this]; unfold State.rerouted; rw [entry_setEntry_self]; exact ⟨_, _, rfl⟩

theorem create_others (i e) (s : State) : s.OthersKept (createEntry i e s) i := by
  intro j hj
  unfold createEntry; dsimp only
  rw [entry_mark, entry_bump, recompute_unrouted]; unfold formRoute
  rw [entry_setEntry_ne hj, entry_setEntry_ne hj]

theorem recompute_inFlight (s : State) : (recompute s).inFlight = s.inFlight := by rw [recompute_eq]

theorem recompute_addressMap (s : State) : (recompute s).addressMap = s.addressMap := by rw [recompute_eq]

theorem recompute_control (s : State) : (recompute s).control = s.control := by rw [recompute_eq]

theorem create_fields (i e) (s : State) : (createEntry i e s).pool = s.pool ∧ (createEntry i e s).addressMap = s.addressMap ∧
    (createEntry i e s).inFlight = s.inFlight ∧ (createEntry i e s).control = s.control := by
  unfold createEntry; dsimp only
  generalize hx : formRoute i (setEntry i (some e) s) = x
  have a := recompute_pool x
  have b := recompute_addressMap x
  have c := recompute_inFlight x
  have d := recompute_control x
  generalize recompute x = y at *
  subst hx
  exact ⟨a, b, c, d⟩

theorem setEntry_same {s : State} {i e} (h : s.entry i = some e) : setEntry i (some e) s = s := by
  have : s.table.set i (some e) = s.table := by
    have h' : s.table[i] = some e := h
    rw [← h']; simp
  unfold setEntry; rw [this]

theorem settled_one {f : State → State} {s : State} (t : State) {i : EntryIx} {e : Entry} (x : Entry) (hr : s.Rested) (he : s.entry i = some e) (h : f s = t) (hx : x.tx = e.tx)
   (ht : t.table = s.table.set i (some x)) (hq : t.queues = s.queues) (hp : t.port = s.port) (hv : t.evalDue = s.evalDue) : settled f s = t := by
  unfold settled; rw [h]; exact settle_one x hr he hx ht hq hp hv

/-- The counters of the responses themselves, which the outcome of a wait writes apart. -/
abbrev RespCounter (c : Counter) : Prop := c = .noResponse ∨ c = .failedResponses ∨ c = .strayResponses

/-- `x` differs from `s` in the station table and what hangs on it, and in counters other than those of responses. -/
structure OutcomeFrame (s x : State) : Prop where
  rest : x = { s with table := x.table, pool := x.pool, inFlight := x.inFlight, control := x.control, counters := x.counters, evalDue := x.evalDue }
  count : ∀ c, RespCounter c → x.count c = s.count c

namespace OutcomeFrame
variable {s x : State}
theorem refl (s : State) : OutcomeFrame s s := ⟨rfl, fun _ _ => rfl⟩
theorem trans (h : OutcomeFrame s x) {y : State} (k : OutcomeFrame x y) : OutcomeFrame s y :=
  ⟨by have := k.rest; rw [this, h.rest], fun c hc => (k.count c hc).trans (h.count c hc)⟩
theorem bump {c : Counter} (h : OutcomeFrame s x) (hc : ∀ d, RespCounter d → c.index ≠ d.index) : OutcomeFrame s (bump c x) :=
  h.trans ⟨rfl, fun d hd => cnt_bump (hc d hd) x⟩
theorem bumpBy {c : Counter} (h : OutcomeFrame s x) (hc : ∀ d, RespCounter d → c.index ≠ d.index) (n) : OutcomeFrame s (bumpBy c n x) := by
  induction n generalizing x with
  | zero => exact h
  | succ n ih => exact ih (h.bump hc)
theorem setEntry (h : OutcomeFrame s x) (i e) : OutcomeFrame s (setEntry i e x) := h.trans ⟨rfl, fun _ _ => rfl⟩
theorem setSlot (h : OutcomeFrame s x) (i e) : OutcomeFrame s (setSlot i e x) := h.trans ⟨rfl, fun _ _ => rfl⟩
theorem mark (h : OutcomeFrame s x) : OutcomeFrame s (markEval x) := h.trans ⟨rfl, fun _ _ => rfl⟩
theorem ctl (h : OutcomeFrame s x) (l) : OutcomeFrame s { x with control := l } := h.trans ⟨rfl, fun _ _ => rfl⟩
theorem flight (h : OutcomeFrame s x) (l) : OutcomeFrame s { x with inFlight := l } := h.trans ⟨rfl, fun _ _ => rfl⟩
theorem modEntry (h : OutcomeFrame s x) (i f) : OutcomeFrame s (modEntry i f x) := by
  unfold Machine.modEntry; split
  · exact h
  · exact h.setEntry _ _
theorem recompute (h : OutcomeFrame s x) : OutcomeFrame s (recompute x) := by
  refine h.trans ⟨?_, fun c hc => cnt_recompute (by rcases hc with rfl | rfl | rfl <;> decide) x⟩
  have k := recompute_eq x
  generalize Machine.recompute x = y at *
  rw [k]
theorem freeRole (h : OutcomeFrame s x) (e r) : OutcomeFrame s (freeRole e r x) := by
  unfold Machine.freeRole; split
  · exact h.setSlot _ _
  · exact h
theorem gridNotice (h : OutcomeFrame s x) (i) : OutcomeFrame s (gridNotice i x) := by
  unfold Machine.gridNotice; split
  · exact h
  · dsimp only; split
    · exact (h.setEntry _ _).mark
    · exact h
theorem activeNotice (h : OutcomeFrame s x) (i) : OutcomeFrame s (activeNotice i x) := (h.gridNotice i).recompute
theorem offerLowest (h : OutcomeFrame s x) (e) : OutcomeFrame s (offerLowest e x) := by
  unfold Machine.offerLowest; split
  · dsimp only; split
    · exact ((h.modEntry _ _).ctl _).mark
    · exact h
  · exact h
theorem foldl {α : Type} (f : State → α → State) (hf : ∀ s a, OutcomeFrame s (f s a)) (l : List α) (h : OutcomeFrame s x) :
    OutcomeFrame s (l.foldl f x) := by
  induction l generalizing x with
  | nil => exact h
  | cons a l ih => exact ih (h.trans (hf _ _))
theorem leaveControl (h : OutcomeFrame s x) (g) : OutcomeFrame s (leaveControl g x) := by
  unfold Machine.leaveControl; dsimp only; split
  · exact h
  · split
    · exact foldl _ (fun u _ => foldl _ (fun v e => (refl v).offerLowest e) _ (refl u)) _ ((h.ctl _).mark)
    · exact (h.ctl _).mark
theorem endIssue (h : OutcomeFrame s x) (e st) : OutcomeFrame s (endIssue e st x) := (h.modEntry _ _).leaveControl _

theorem ageEntry (h : OutcomeFrame s x) (i) : OutcomeFrame s (ageEntry i x) := by
  unfold Machine.ageEntry ageCells; split
  · exact h
  · exact (h.setEntry _ _).bumpBy (by rintro d (rfl | rfl | rfl) <;> decide) _
theorem startBuild (h : OutcomeFrame s x) (i c) : OutcomeFrame s (startBuild i c x) := by
  unfold Machine.startBuild; dsimp only
  split
  · exact h.ageEntry i
  · have k := ((h.ageEntry i).setEntry i)
    split
    · exact ((k _).bump (by rintro d (rfl | rfl | rfl) <;> decide)).bump (by rintro d (rfl | rfl | rfl) <;> decide)
    · exact (k _).bump (by rintro d (rfl | rfl | rfl) <;> decide)
theorem boostUp (h : OutcomeFrame s x) (i) : OutcomeFrame s (boostUp i x) := (h.modEntry _ _).bump (by rintro d (rfl | rfl | rfl) <;> decide)
theorem trigger (h : OutcomeFrame s x) (i c) : OutcomeFrame s (trigger i c x) := by
  unfold Machine.trigger; split
  · dsimp only
    have k : OutcomeFrame s (Machine.ageEntry i (if c.error then Machine.boostUp i x else x)) := by
      split
      · exact (h.boostUp i).ageEntry i
      · exact h.ageEntry i
    split
    · exact k.startBuild _ _
    · exact (k.modEntry _ _).bump (by rintro d (rfl | rfl | rfl) <;> decide)
    · exact k
  · exact h.bump (by rintro d (rfl | rfl | rfl) <;> decide)
theorem modTx (h : OutcomeFrame s x) (i f) : OutcomeFrame s (modTx i f x) := by
  unfold Machine.modTx; split
  · exact h
  · dsimp only; split
    · exact (h.setEntry _ _).mark
    · exact h.setEntry _ _
theorem applyEntry (h : OutcomeFrame s x) (i q g) : OutcomeFrame s (applyEntry i q g x) := by
  unfold Machine.applyEntry; split
  · exact h.bump (by rintro d (rfl | rfl | rfl) <;> decide)
  · dsimp only; repeat' split
    all_goals first | exact (h.modTx _ _).bump (by rintro d (rfl | rfl | rfl) <;> decide) | exact h.modTx _ _
theorem applyEntries (h : OutcomeFrame s x) (i l) : OutcomeFrame s (applyEntries i l x) := by
  induction l generalizing x with
  | nil => exact h
  | cons a l ih => exact ih (h.applyEntry _ _ _)
theorem applyNoAnswers (h : OutcomeFrame s x) (i l) : OutcomeFrame s (applyNoAnswers i l x) := by
  induction l generalizing x with
  | nil => exact h
  | cons a l ih =>
    unfold Machine.applyNoAnswers
    refine ih ?_
    unfold applyNoAnswer; split
    · exact h
    · exact h.applyEntry _ _ _
theorem segmentResponse (h : OutcomeFrame s x) (l) : OutcomeFrame s (segmentResponse l x) := by
  unfold Machine.segmentResponse; split
  · exact h.bumpBy (by rintro d (rfl | rfl | rfl) <;> decide) _
  · exact (h.applyEntries _ _).flight _
theorem segmentNoResponse (h : OutcomeFrame s x) : OutcomeFrame s (segmentNoResponse x) := by
  unfold Machine.segmentNoResponse; split
  · exact h
  · exact (h.applyNoAnswers _ _).flight _
theorem setHold (h : OutcomeFrame s x) (i) : OutcomeFrame s (setHold i x) := by
  unfold Machine.setHold; split
  · exact h
  · dsimp only; split
    · exact h.setEntry _ _
    · exact ((h.setEntry _ _).bump (by rintro d (rfl | rfl | rfl) <;> decide)).recompute
theorem clearHold (h : OutcomeFrame s x) (i) : OutcomeFrame s (clearHold i x) := by
  unfold Machine.clearHold; split
  · exact h
  · split
    · exact (h.setEntry _ _).recompute
    · exact h
theorem noResponseSend (h : OutcomeFrame s x) (i) : OutcomeFrame s (noResponseSend i x) := by
  unfold Machine.noResponseSend; split
  · exact h
  · dsimp only; split
    · exact (h.setEntry _ _).setHold _
    · exact h.setEntry _ _
theorem receiverSilent (h : OutcomeFrame s x) (w) : OutcomeFrame s (receiverSilent w x) := by
  unfold Machine.receiverSilent; split
  · exact h.noResponseSend _
  · exact h
theorem abandonIssue (h : OutcomeFrame s x) (e) : OutcomeFrame s (abandonIssue e x) := by
  unfold Machine.abandonIssue abandonmentTrigger
  have k : OutcomeFrame s (Machine.bump .issuesAbandoned (Machine.endIssue e .noIssue (Machine.freeRole e .rxPending x))) :=
    ((h.freeRole _ _).endIssue _ _).bump (by rintro d (rfl | rfl | rfl) <;> decide)
  split
  · exact k
  · split
    · exact k.bump (by rintro d (rfl | rfl | rfl) <;> decide)
    · exact k.trigger _ _
theorem withdrawIssue (h : OutcomeFrame s x) (e) : OutcomeFrame s (withdrawIssue e x) :=
    ((h.freeRole _ _).endIssue _ _).bump (by rintro d (rfl | rfl | rfl) <;> decide)
theorem promote (h : OutcomeFrame s x) (e b) : OutcomeFrame s (promote e b x) := by
  unfold Machine.promote; split
  · exact h
  · dsimp only
    have k := fun y (hy : OutcomeFrame s y) => ((hy.endIssue e .delivered).bump (c := .gridsPromoted) (by rintro d (rfl | rfl | rfl) <;> decide))
    split
    · exact ((k _ ((h.freeRole _ _).setSlot _ _)).bump (by rintro d (rfl | rfl | rfl) <;> decide)).gridNotice _
    · exact (k _ ((h.freeRole _ _).setSlot _ _)).gridNotice _
theorem partNotTaken (h : OutcomeFrame s x) (e p) : OutcomeFrame s (partNotTaken e p x) := by
  unfold Machine.partNotTaken; dsimp only; split
  · exact (h.modEntry _ _).abandonIssue _
  · exact h.modEntry _ _
theorem partAccepted (h : OutcomeFrame s x) (e t p) : OutcomeFrame s (partAccepted e t p x) := by
  unfold Machine.partAccepted; dsimp only; split
  · exact ((h.modEntry _ _).leaveControl _).promote _ _
  · exact (h.modEntry _ _).leaveControl _
theorem partAnswered (h : OutcomeFrame s x) (c st) : OutcomeFrame s (partAnswered c st x) := by
  unfold Machine.partAnswered; split
  · split
    · exact h
    · split
      · exact h.partAccepted _ _ _
      · exact h.partNotTaken _ _
      · exact (h.bump (by rintro d (rfl | rfl | rfl) <;> decide)).partNotTaken _ _
      · exact h.withdrawIssue _
  · exact h
theorem partNoResponse (h : OutcomeFrame s x) (c) : OutcomeFrame s (partNoResponse c x) := by
  unfold Machine.partNoResponse; split
  · split
    · exact h
    · exact (h.bump (by rintro d (rfl | rfl | rfl) <;> decide)).partNotTaken _ _
  · exact h
theorem gridUnknownReceived (h : OutcomeFrame s x) (e t) : OutcomeFrame s (gridUnknownReceived e t x) := by
  unfold Machine.gridUnknownReceived; split
  · split
    · exact ((h.freeRole _ _).bump (by rintro d (rfl | rfl | rfl) <;> decide)).activeNotice _
    · exact h
  · exact h
theorem receiverOutcome (h : OutcomeFrame s x) (w r) : OutcomeFrame s (receiverOutcome w r x) := by
  unfold Machine.receiverOutcome; split
  · split
    · exact h.bump (by rintro d (rfl | rfl | rfl) <;> decide)
    · exact h
  · dsimp only
    have k : ∀ i, OutcomeFrame s (holdByStatus i w.kind r.status (clearStreak i x)) := by
      intro i; unfold holdByStatus clearStreak
      have := h.modEntry i (fun e => { e with streak := 0 })
      split
      · exact this.clearHold _
      · split
        · exact this.setHold _
        · exact this
      · exact this
      · exact this
    split
    · unfold capConflictReceived; dsimp only; split
      · exact ((k _).modEntry _ _).trigger _ _
      · exact (k _).modEntry _ _
    · exact k _
theorem dataAnswered (h : OutcomeFrame s x) (r) : OutcomeFrame s (dataAnswered r x) := by
  unfold Machine.dataAnswered; dsimp only; split
  · exact (h.gridUnknownReceived _ _).segmentResponse _
  · exact h.segmentResponse _
end OutcomeFrame

theorem noResponseOutcome_spec {s : State} {w : ResponseWait} (hw : s.mac.wait = some w) :
    OutcomeFrame (bump .noResponse { s with mac := { s.mac with wait := none, stage := min 5 (s.mac.stage + 1), backoff := none, deferral := 0 } }) (noResponseOutcome s) := by
  unfold noResponseOutcome; rw [hw]; dsimp only
  have k := (OutcomeFrame.refl (bump .noResponse { s with mac := { s.mac with wait := none, stage := min 5 (s.mac.stage + 1), backoff := none, deferral := 0 } })).receiverSilent w
  cases w.kind
  · exact k.segmentNoResponse
  · exact k.partNoResponse _
  all_goals exact k

theorem receivedOutcome_spec {s : State} {w : ResponseWait} (b : RespBody) (hw : s.mac.wait = some w) :
    OutcomeFrame { s with mac := { s.mac with wait := none, stage := 0, backoff := none, deferral := 0 } } (receivedOutcome b s) := by
  unfold receivedOutcome; rw [hw]; dsimp only
  have k := (OutcomeFrame.refl { s with mac := { s.mac with wait := none, stage := 0, backoff := none, deferral := 0 } }).receiverOutcome w b
  cases w.kind
  · exact k.dataAnswered _
  · exact k.partAnswered _ _
  all_goals exact k

theorem mac_drop (q) (b : State) : (dropUnreachable q b).mac = b.mac := by
  unfold dropUnreachable; dsimp only; split
  · rfl
  · rw [bumpBy_eq]; rfl
theorem mac_search (l) (b : State) : (searchQueues l b).2.mac = b.mac := by
  induction l generalizing b with
  | nil => rfl
  | cons q l ih =>
    unfold searchQueues; dsimp only
    split
    · exact mac_drop q b
    · exact (ih _).trans (mac_drop q b)
theorem mac_request (b : State) : (candidateRequest b).2.mac = b.mac := by
  unfold candidateRequest findCandidate; split
  · rfl
  · rcases hx : searchQueues b.settings.queueOrder b with ⟨_ | c, s'⟩ <;> (have k := mac_search b.settings.queueOrder b; rw [hx] at k; exact k)
theorem lineTime_request (b : State) : (candidateRequest b).2.lineTime = b.lineTime := by
  have := Ended.request (Ended.refl b); rw [this]; rfl

/-- The MAC record when a contention period has begun: it is IDLE or in SIGNAL, and the period starts now. -/
theorem beginPeriod_mac (b : State) : ∃ st c tw, (st = MacState.idle ∨ st = .signal) ∧
    (beginPeriod b).mac = { b.mac with state := st, candidate := c, thermalWait := tw, periodStart := b.lineTime, gap := none, toneHeard := false } := by
  unfold beginPeriod; dsimp only
  split
  · unfold askCandidate
    generalize hb : modMac _ b = c
    have hm : c.mac = { b.mac with periodStart := b.lineTime, gap := none, candidate := none, toneHeard := false } := by rw [← hb]; rfl
    have k := mac_request c
    rcases hx : candidateRequest c with ⟨_ | x, s'⟩ <;> rw [hx] at k <;> dsimp only at k ⊢
    · exact ⟨.idle, none, b.mac.thermalWait, .inl rfl, by unfold toIdle modMac; dsimp only; rw [k, hm]⟩
    · split
      · exact ⟨.signal, some x, b.mac.thermalWait, .inr rfl, by unfold modMac; dsimp only; rw [k, hm]⟩
      · exact ⟨.idle, none, true, .inl rfl, by unfold toIdle setThermalWait modMac bump; dsimp only; rw [k, hm]⟩
  · exact ⟨.idle, none, b.mac.thermalWait, .inl rfl, rfl⟩

/-- What ends a command leaves the MAC record, unless the unit tells an IDLE station that it has come to hold a candidate. -/
theorem settle_mac (n) (u : State) : (settle n u).mac = u.mac ∨ (u.mac.state = .idle ∧ ∃ st c tw, (st = MacState.idle ∨ st = .signal) ∧
    (settle n u).mac = { u.mac with state := st, candidate := c, thermalWait := tw, periodStart := u.lineTime, gap := none, toneHeard := false }) := by
  have hp : ∀ v : State, (chooseTx (pauseTestAfter n v)).mac = v.mac := by
    intro v
    have h1 : ∀ w : State, (chooseTx w).mac = w.mac := by
      intro w; unfold chooseTx modPort; repeat' split
      all_goals rfl
    rw [h1]; unfold pauseTestAfter pauseTest; repeat' split
    all_goals rfl
  unfold settle; rw [hp]
  unfold evaluateIfDue; split
  · unfold evaluate; dsimp only
    have k := mac_request { u with evalDue := false }
    have kl := lineTime_request { u with evalDue := false }
    split
    · unfold candidateNotice; split
      · rename_i h; rw [k] at h
        obtain ⟨st, c, tw, h1, h2⟩ := beginPeriod_mac (candidateRequest { u with evalDue := false }).2
        exact .inr ⟨h.1, st, c, tw, h1, by rw [h2, k, kl]⟩
      · exact .inl k
    · exact .inl k
  · exact .inl rfl

theorem settle_mac_busy {n} {u : State} (h : u.mac.state ≠ .idle) : (settle n u).mac = u.mac := by
  rcases settle_mac n u with k | ⟨k, _⟩
  · exact k
  · exact absurd k h

/-- A period that begins, and what ends the command: the record but for its period is as it was. -/
theorem begun_mac (n) (b : State) : ∃ st c tw, (st = MacState.idle ∨ st = .signal) ∧
    (settle n (beginPeriod b)).mac = { b.mac with state := st, candidate := c, thermalWait := tw, periodStart := b.lineTime, gap := none, toneHeard := false } := by
  obtain ⟨st, c, tw, h1, h2⟩ := beginPeriod_mac b
  have hl : (beginPeriod b).lineTime = b.lineTime := by
    have := Ended.beginPeriod (Ended.refl b); rw [this]; rfl
  rcases settle_mac n (beginPeriod b) with k | ⟨_, st', c', tw', k1, k2⟩
  · exact ⟨st, c, tw, h1, k.trans h2⟩
  · exact ⟨st', c', tw', k1, by rw [k2, h2, hl]⟩

theorem outcome_ended {s b y t : State} (hb : b = { s with mac := b.mac, counters := b.counters, line := b.line }) (hy : OutcomeFrame b y) (ht : Ended y t) (he : s.evalDue = false) (hte : t.evalDue = false) :
    t = { s with line := b.line, table := t.table, pool := t.pool, control := t.control, inFlight := t.inFlight }.endedAs t := by
  have h1 := hy.rest
  unfold Ended at ht
  have h2 : t.table = y.table := by rw [ht]; rfl
  have h3 : t.pool = y.pool := by rw [ht]; rfl
  have h4 : t.control = y.control := by rw [ht]; rfl
  have h5 : t.inFlight = y.inFlight := by rw [ht]; rfl
  rw [h2, h3, h4, h5]
  rw [hte] at ht
  rw [ht]
  generalize hm : t.mac = tm
  clear ht
  rw [h1]
  unfold State.endedAs
  rw [hb]
  simp [he]

/-- A processed payload handed on leaves the MAC record but for the responder duty. -/
theorem handOn_mac (r : Reception) (h : Header) (x : Resolution) (b : List Byte) (l : List (List Int)) (s : State) :
    ∃ d, (handOn r h x b l s).mac = { s.mac with duty := d } := by
  have sr : ∀ (o : Option RespBody) (u : State), u.mac = s.mac → ∃ d, (setResp o u).mac = { s.mac with duty := d } := by
    intro o u hu; unfold setResp modMac; dsimp only; rw [hu]; exact ⟨_, rfl⟩
  unfold handOn; split
  · unfold dataEnd; dsimp only; split
    · exact sr _ _ rfl
    · split
      · exact sr _ _ rfl
      all_goals exact sr _ _ (((Inner.refl s).promoteByData _ _).takeData _ _ _).mac
  · unfold gridEnd; split
    · exact sr _ _ rfl
    · split
      · exact sr _ _ rfl
      · exact sr _ _ ((Inner.refl s).takePart _ _).mac
  · exact ⟨s.mac.duty, ((Inner.refl s).soundEnd _ _ _).mac⟩
  · exact ⟨s.mac.duty, ((Inner.refl s).noteEnd _ _).mac⟩
  · exact ⟨s.mac.duty, rfl⟩

theorem ageCells_young {s : State} {i : EntryIx} {e : Entry} (w : Pair → MainsSlot → Bool) (he : s.entry i = some e) (h : ∀ (p : Pair) (m : MainsSlot), Cell.old s.lineTime e.snr[p][m] = false) :
    ageCells i w s = s := by
  unfold ageCells; rw [he]; dsimp only
  have h1 : e.snr.age s.lineTime w = e.snr := by
    unfold SnrSet.age
    refine Vector.ext fun p hp => Vector.ext fun m hm => ?_
    have hg : (e.snr[p][m]).age s.lineTime = e.snr[p][m] := by
      have h0 : Cell.old s.lineTime e.snr[p][m] = false := h ⟨p, hp⟩ ⟨m, hm⟩
      unfold Cell.age; rw [h0]; rfl
    rw [Vector.getElem_ofFn, Vector.getElem_ofFn]
    show (if w ⟨p, hp⟩ ⟨m, hm⟩ = true then Cell.age s.lineTime e.snr[p][m] else e.snr[p][m]) = _
    rw [hg]; exact ite_self _
  have h2 : e.snr.oldCount s.lineTime w = 0 := by
    unfold SnrSet.oldCount
    have : ∀ p : Fin 3, (List.finRange 6).countP (fun m => w p m && e.snr[p][m].old s.lineTime) = 0 := by
      intro p; rw [List.countP_eq_zero]; intro m _; simp only [h p m, Bool.and_false]; simp
    simp only [this]; rfl
  rw [h1, h2, setEntry_same he]; rfl

theorem ageEntry_young {s : State} {i : EntryIx} {e : Entry} (he : s.entry i = some e) (h : ∀ (p : Pair) (m : MainsSlot), Cell.old s.lineTime e.snr[p][m] = false) :
    ageEntry i s = s := ageCells_young _ he h

/-- R78, R83: a trigger without an error cause that finds the record IDLE and no cell aged. -/
theorem trigger_idle {s : State} {i : EntryIx} {e : Entry} {c : Causes} (he : s.entry i = some e) (hp : e.state.present = true)
    (hy : ∀ (p : Pair) (m : MainsSlot), Cell.old s.lineTime e.snr[p][m] = false) (hc : c.error = false) (hi : e.build.state = .idle) :
    trigger i c s =
      (let boost := if badCount e.rx.window ≤ 1 then e.build.boost - 2 else e.build.boost
       let t := bump .buildsStarted (setEntry i (some { e with build := { e.build with
        state := .building s.lineTime c { cells := e.snr, margin := s.settings.margin, boost := boost, localBands := s.settings.bands, peerBands := e.peerBands, pairs := s.settings.pairs },
        boost := boost, retrySpent := c.abandonmentAlone } }) s)
       if c.forced then bump .buildsForced t else t) := by
  unfold trigger; rw [if_pos (by unfold State.present; rw [he]; exact hp)]
  have ha : ageEntry i s = s := ageCells_young _ he hy
  simp only [hc, Bool.false_eq_true, if_false, ha]
  rw [he]; simp only [Option.map_some, hi]
  unfold startBuild; rw [ha]; dsimp only; rw [he]; dsimp only
  simp only [hc, Bool.false_eq_true, if_false, decayBoost]

/-- R78: a trigger without an error cause that finds a build running and no cell aged. -/
theorem trigger_building {s : State} {i : EntryIx} {e : Entry} {c : Causes} {a b d} (he : s.entry i = some e) (hp : e.state.present = true)
    (hy : ∀ (p : Pair) (m : MainsSlot), Cell.old s.lineTime e.snr[p][m] = false) (hc : c.error = false) (hi : e.build.state = .building a b d) :
    trigger i c s = bump .rememberedTriggers (setEntry i (some { e with build := { e.build with
        remembered := some ((e.build.remembered.getD Causes.empty).union c) } }) s) := by
  unfold trigger; rw [if_pos (by unfold State.present; rw [he]; exact hp)]
  have ha : ageEntry i s = s := ageCells_young _ he hy
  simp only [hc, Bool.false_eq_true, if_false, ha]
  rw [he]; simp only [Option.map_some, hi]
  unfold modEntry; rw [he]; dsimp only; rw [hi]

/-- R172: no head is dropped at a queue whose head's final station has an entry. -/
theorem dropUnreachable_known {s : State} {q : QueueIx} {f : HostFrame} {rest : List HostFrame} (hq : s.queues[q] = f :: rest)
    (h : s.findEntry f.final ≠ none) : dropUnreachable q s = s := by
  obtain ⟨d, hd⟩ := Option.ne_none_iff_exists'.1 h
  unfold dropUnreachable; simp [hq, hd]

/-- R172: nothing is dropped at an empty queue. -/
theorem dropUnreachable_empty {s : State} {q : QueueIx} (hq : s.queues[q] = []) : dropUnreachable q s = s := by
  unfold dropUnreachable; simp [hq]

/-- R63: aging with no old cell changes nothing. -/
theorem ageAll_young {s : State} (h : ∀ (i : EntryIx) (e : Entry) (p : Pair) (m : MainsSlot), s.entry i = some e → Cell.old s.lineTime e.snr[p][m] = false) :
    ageAll s = s := by
  unfold ageAll
  have : ∀ l : List EntryIx, l.foldl (fun s i => ageEntry i s) s = s := by
    intro l; induction l with
    | nil => rfl
    | cons i l ih =>
      rw [List.foldl_cons]
      have : ageEntry i s = s := by
        rcases he : s.entry i with _ | e
        · unfold ageEntry ageCells; rw [he]
        · exact ageEntry_young he (fun p m => h i e p m he)
      rw [this]; exact ih
  exact this _

/-- R30, R150: the segments taken of a run are its longest start that fits and keeps the frame within eight. -/
theorem takeSegments_spec (l : Loading) (cap : Nat) : ∀ (offered : List UnackedSegment) (taken bits : Nat), taken ≤ 8 → bits ≤ cap →
    ∃ rest, offered = (takeSegments l cap taken bits offered).taken ++ rest ∧ (takeSegments l cap taken bits offered).stopped = rest.head? ∧
      taken + (takeSegments l cap taken bits offered).taken.length ≤ 8 ∧
      (takeSegments l cap taken bits offered).bits = bits + ((takeSegments l cap taken bits offered).taken.map fun x => l.segmentBits x.len).sum ∧
      (takeSegments l cap taken bits offered).bits ≤ cap ∧
      (∀ x, rest.head? = some x → taken + (takeSegments l cap taken bits offered).taken.length = 8 ∨
        cap < (takeSegments l cap taken bits offered).bits + l.segmentBits x.len) := by
  intro offered; induction offered with
  | nil => intro n b h1 h2; exact ⟨[], rfl, rfl, h1, rfl, h2, nofun⟩
  | cons x xs ih =>
    intro n b h1 h2
    unfold takeSegments
    split
    · rename_i h
      obtain ⟨rest, a1, a2, a3, a4, a5, a6⟩ := ih (n + 1) (b + l.segmentBits x.len) h.1 h.2
      generalize takeSegments l cap (n + 1) (b + l.segmentBits x.len) xs = t at *
      refine ⟨rest, by simp [← a1], a2, by simp; omega, by simp [a4]; omega, a5, fun y hy => ?_⟩
      rcases a6 y hy with h | h
      · left; simp; omega
      · right; exact h
    · rename_i h
      refine ⟨x :: xs, rfl, rfl, by simpa using h1, rfl, h2, fun y hy => ?_⟩
      simp at hy; subst hy
      simp [Config.maxSegments] at h ⊢; omega

/-- R149: the segments that numbering a frame adds to an unacked list. -/
theorem number_added (t : TxState) (f : HostFrame) : (t.number f).unacked.drop t.unacked.length =
    (List.range f.pieces).map fun i => { seq := t.next + BitVec.ofNat 12 i, frameId := f.id, piece := i, len := (f.piece i).length, attempts := 0, marked := true } := by
  unfold TxState.number; simp

/-- R20, R21: a robust payload is filled to 24 bytes a symbol. -/
theorem robust_fill (n : Nat) (b : List Byte) : Loading.robust.fill n b = b ++ List.replicate (24 * n - b.length) 0#8 := by
  unfold Loading.fill
  have : Loading.robust.infoBytes n = 24 * n := by
    unfold Loading.infoBytes Loading.capacity Loading.symbolBits; simp [Config.robustBits]; omega
  rw [this]

/-- R30, R150: without a segment taken no DATA frame is composed. -/
theorem composeData_none {s : State} {n : EntryIx} {source : Option QueueIx} {prio : Fin 4} {limit len : Nat} {e : Entry} (he : s.entry n = some e)
    {r : Taking × State}
    (hr : takeOffered ((chooseLoading s n s.lineTime).fallback len) (((chooseLoading s n s.lineTime).fallback len).capacity limit) n source e.tx.marked s = r)
    (h : r.1.taken = []) : composeData n source prio limit len s = none := by
  unfold composeData; dsimp only; rw [he]; dsimp only; unfold State.loadingFor; rw [hr, if_pos (by rw [h]; rfl)]

/-- R24, R28, R151: a DATA frame composed from the segments taken, and what it leaves. -/
theorem composeData_some {s : State} {n : EntryIx} {source : Option QueueIx} {prio : Fin 4} {limit len : Nat} {e e' : Entry} (he : s.entry n = some e)
    {r : Taking × State} {l : Loading} (hr : takeOffered l (l.capacity limit) n source e.tx.marked s = r)
    (hl : l = (chooseLoading s n s.lineTime).fallback len) (h : r.1.taken ≠ []) (h2 : r.2.entry n = some e') :
    let seqs := r.1.taken.map fun x => x.seq
    let tx := { e'.tx with unacked := e'.tx.unacked.map fun x => if x.seq ∈ seqs then { x with marked := false } else x }
    ∃ f t, composeData n source prio limit len s = some (f, t) ∧
      t = { r.2 with
        table := r.2.table.set n (some { e' with tx := tx }), counters := t.counters, evalDue := t.evalDue
        inFlight := some { entry := n, seqs := seqs, tag := l.tag } } ∧
      f.start = s.lineTime ∧ f.stop = s.lineTime.plus (192 + 32 * f.header.symbols) ∧ f.control = none ∧
      f.header.symbols = leastSymbols r.1.bits (l.symbolBits limit) ∧ f.loading = l.cut f.header.symbols ∧
      f.payload = l.fill f.header.symbols (r.1.taken.map tx.segmentWire).flatten ∧
      f.header =
        { kind := .data, house := s.settings.house, tx := s.settings.station, rx := e'.addr
          pair := l.pair s.settings.homePair, priority := prio, trusted := s.trusted, floor := l.isFloor
          phase := BitVec.ofNat 10 s.phase, tag := l.tag, symbols := f.header.symbols, segments := r.1.taken.length
          floorSeq := (e'.tx.unacked.head?.map fun x => x.seq).getD 0#12 } := by
  intro seqs tx
  unfold composeData; dsimp only; rw [he]; dsimp only; unfold State.loadingFor; rw [← hl, hr, if_neg (by simpa using h)]
  have hm : modTx n (fun x => x.unmark (r.1.taken.map (·.seq))) r.2 = { r.2 with table := r.2.table.set n (some { e' with tx := tx }), evalDue := (modTx n (fun x => x.unmark (r.1.taken.map (·.seq))) r.2).evalDue } := by
    unfold modTx; rw [h2]; dsimp only
    have hu : e'.tx.unmark (r.1.taken.map (·.seq)) = tx := by
      unfold TxState.unmark; show _ = ({ e'.tx with unacked := _ } : TxState); congr 1; apply List.map_congr_left; intro x _
      by_cases hx : x.seq ∈ r.1.taken.map (·.seq)
      · rw [if_pos (by simpa using hx), if_pos hx]
      · rw [if_neg (by simpa using hx), if_neg hx]
    rw [hu]; split <;> rfl
  have hent : (modTx n (fun x => x.unmark (r.1.taken.map (·.seq))) r.2).entry n = some { e' with tx := tx } := by
    rw [hm]; unfold State.entry; simp
  rw [hent]; dsimp only
  refine ⟨_, _, rfl, ?_, rfl, rfl, rfl, rfl, rfl, rfl, ?_⟩
  · have hc : ∀ (s0 : State) (st : LineTime) (cap : Nat) (x : State), countComposition s0 n st l cap r.1 x = { x with counters := (countComposition s0 n st l cap r.1 x).counters } := by
      intro s0 st cap x
      unfold countComposition; dsimp only
      rw [bumpBy_eq .segmentsSent, bumpBy_eq .segmentsResent]
      repeat' split
      all_goals rfl
    rw [hc]
    rw [hm]
  · simp only [State.frame, State.header, TxState.oldest, Header.mk.injEq, true_and]
    rcases hx : e'.tx.unacked with _ | ⟨x, xs⟩
    · simp [tx, hx]
    · simp [tx, hx]; split <;> rfl

/-- R119: the running minimum of columns is at each carrier the lowest of their levels. -/
theorem columnMin_foldl (k : Nat) : ∀ (rest : List Column) (x : Column), k < x.length → (∀ d ∈ rest, k < d.length) →
    ∃ v, (rest.foldl columnMin x)[k]? = some v ∧ (∃ d, d ∈ x :: rest ∧ d[k]? = some v) ∧
      ∀ d ∈ x :: rest, ∀ w, d[k]? = some w → v.val ≤ w.val := by
  intro rest; induction rest with
  | nil =>
    intro a0 hc _
    refine ⟨a0[k], by simp [hc], ⟨a0, by simp, by simp [hc]⟩, fun d hd w hw => ?_⟩
    simp at hd; subst hd; simp [hc] at hw; exact Nat.le_of_eq (congrArg Fin.val hw)
  | cons d rest ih =>
    intro a0 hc h
    have hd : k < d.length := h d (by simp)
    obtain ⟨v, a1, ⟨x, hx, hxv⟩, a3⟩ := ih (columnMin a0 d) (by unfold columnMin; simp; omega) (fun y hy => h y (by simp [hy]))
    have hm : (columnMin a0 d)[k]? = some (lowerLevel a0[k] d[k]) := by unfold columnMin; simp [List.getElem?_zipWith, hc, hd]
    refine ⟨v, a1, ?_, fun y hy w hw => ?_⟩
    · rcases List.mem_cons.1 hx with rfl | hx
      · rw [hm] at hxv; simp at hxv; subst hxv
        unfold lowerLevel; split
        · exact ⟨a0, by simp, by simp [hc]⟩
        · exact ⟨d, by simp, by simp [hd]⟩
      · exact ⟨x, by simp [hx], hxv⟩
    · have hv := a3 _ (List.mem_cons_self) _ hm
      have hl : (lowerLevel a0[k] d[k]).val ≤ a0[k].val ∧ (lowerLevel a0[k] d[k]).val ≤ d[k].val := by
        unfold lowerLevel; split <;> constructor <;> omega
      simp only [List.mem_cons] at hy
      rcases hy with rfl | rfl | hy
      · simp [hc] at hw; subst hw; omega
      · simp [hd] at hw; subst hw; omega
      · exact a3 y (by simp [hy]) w hw

/-- R30: the payload symbol count is the least whose capacity covers the bits. -/
theorem leastSymbols_spec : ∀ (symbols : List Nat) (bits : Nat), bits ≤ symbols.sum →
    bits ≤ (symbols.take (leastSymbols bits symbols)).sum ∧ ∀ m, m < leastSymbols bits symbols → (symbols.take m).sum < bits := by
  intro symbols; induction symbols with
  | nil => intro b h; simp at h; subst h; exact ⟨Nat.zero_le _, fun m hm => absurd hm (by simp [leastSymbols])⟩
  | cons x xs ih =>
    intro b h
    unfold leastSymbols; split
    · rename_i hb; subst hb; exact ⟨Nat.zero_le _, fun m hm => absurd hm (by omega)⟩
    · rename_i hb
      obtain ⟨a1, a2⟩ := ih (b - x) (by simp at h; omega)
      refine ⟨by rw [Nat.add_comm, List.take_succ_cons, List.sum_cons]; omega, fun m hm => ?_⟩
      rcases m with _ | m
      · simp; omega
      · rw [List.take_succ_cons, List.sum_cons]; have := a2 m (by omega); omega

/-- R178: entries that leave a list that was not full. -/
theorem leaveControl_eq (g) (s : State) (h : s.control.length < 16) :
    leaveControl g s = { s with control := s.control.filter fun c => !g c, evalDue := (leaveControl g s).evalDue } := by
  unfold leaveControl; dsimp only; split
  · rename_i k
    rw [List.filter_eq_self.2 (List.length_filter_eq_length_iff.1 k)]
  · rw [if_neg (by omega)]; rfl

/-- The slot an entry holds in a role is read from the pool alone. -/
theorem roleSlot_congr {u v : State} (h : u.pool = v.pool) (e : EntryIx) (r : Role) : u.roleSlot e r = v.roleSlot e r := by
  unfold State.roleSlot; rw [h]

/-- R105: the end of an issue. -/
theorem endIssue_eq {s : State} {i : EntryIx} {e : Entry} (st : IssueState) (he : s.entry i = some e) (h : s.control.length < 16) :
    endIssue i st s = { s with table := s.table.set i (some { e with store := { e.store with issue := st, parts := [] } })
                               control := s.control.filter (fun c => !c.partOf i), evalDue := (endIssue i st s).evalDue } := by
  unfold endIssue
  have : modEntry i (fun x => { x with store := { x.store with issue := st, parts := [] } }) s = { s with table := s.table.set i (some { e with store := { e.store with issue := st, parts := [] } }) } := by
    unfold modEntry; rw [he]; rfl
  rw [this, leaveControl_eq _ _ (by exact h)]

/-- R107: the part in flight that an issue still holds. -/
theorem partInFlight_some {s : State} {i : EntryIx} {e : Entry} {tag : Byte} {k : Fin 4} {p : PartRecord} {x : SlotIx} {h : HeldGrid}
    (he : s.entry i = some e) (h1 : s.roleSlot i .rxPending = some x) (h2 : s.pool[x] = some h) (h3 : h.grid.tag = tag)
    (h4 : e.store.parts.find? (fun y => y.index == k && y.inFlight) = some p) : s.partInFlight i tag k = some p := by
  unfold State.partInFlight State.roleGrid; rw [he, h1]; simp [h2, h3, h4]

/-- R126: the state that an entry's grids give it. -/
theorem gridNotice_eq {s : State} {i : EntryIx} {e : Entry} (he : s.entry i = some e) :
    gridNotice i s = { s with table := s.table.set i (some { e with state := if e.state.present then s.heardState i else e.state }), evalDue := (gridNotice i s).evalDue } := by
  unfold gridNotice; rw [he]; dsimp only
  by_cases hp : e.state.present = true
  · rw [if_pos hp]
    by_cases hs : e.state = s.heardState i
    · rw [if_neg (by simp [hs]), ← hs]
      rw [show (some { e with state := e.state } : Option Entry) = s.entry i by rw [he]]
      rw [he]; exact (setEntry_same he).symm
    · rw [if_pos (by simp [hp, hs])]; rfl
  · rw [if_neg hp, if_neg (by simp [hp])]
    rw [show (some { e with state := e.state } : Option Entry) = s.entry i by rw [he]]
    rw [he]; exact (setEntry_same he).symm

/-- R100: what an entry holds in one role does not depend on the slot that another role frees. -/
theorem roleSlot_freed_ne {s : State} {i : EntryIx} {r q : Role} {x : SlotIx} (h : s.roleSlot i r = some x) (hq : q ≠ r) :
    ({ s with pool := s.pool.set x none } : State).roleSlot i q = s.roleSlot i q := by
  obtain ⟨g, hg, -, hr⟩ := roleSlot_some h
  unfold State.roleSlot
  refine congrArg (fun f => List.find? f (List.finRange 48)) (funext fun j => ?_)
  show (match (s.pool.set x none)[j] with | some g => g.entry == i && g.role == q | none => false) = _
  by_cases hj : j = x
  · subst hj; rw [pool_set_self, hg]; simp [hr, hq.symm]
  · rw [pool_set_ne _ _ hj] <;> rfl

/-- R100: the role that is freed is held no more. -/
theorem roleSlot_freed {s : State} (hp : PoolLawful s.pool) {i : EntryIx} {r : Role} {x : SlotIx} (h : s.roleSlot i r = some x) :
    ({ s with pool := s.pool.set x none } : State).roleSlot i r = none := by
  obtain ⟨g2, hg2, e2, r2⟩ := roleSlot_some h
  rcases hq : ({ s with pool := s.pool.set x none } : State).roleSlot i r with _ | y
  · rfl
  · exfalso
    obtain ⟨g, hg, hge, hgr⟩ := roleSlot_some hq
    have hg' : (s.pool.set x none)[y] = some g := hg
    by_cases hxy : y = x
    · subst hxy; rw [pool_set_self] at hg'; cases hg'
    · rw [pool_set_ne _ _ hxy] at hg'
      exact hxy ((hp y x g g2 hg' hg2 (by rw [hge, e2])).1 (by rw [hgr, r2]))

/-- R100: a slot rewritten with its entry and role kept. -/
theorem roleSlot_kept {s : State} {x : SlotIx} {h h' : HeldGrid} (hx : s.pool[x] = some h) (he : h'.entry = h.entry) (hr : h'.role = h.role)
    (i : EntryIx) (q : Role) : ({ s with pool := s.pool.set x (some h') } : State).roleSlot i q = s.roleSlot i q := by
  unfold State.roleSlot
  refine congrArg (fun f => List.find? f (List.finRange 48)) (funext fun j => ?_)
  show (match (s.pool.set x (some h'))[j] with | some g => g.entry == i && g.role == q | none => false) = _
  by_cases hj : j = x
  · subst hj; rw [pool_set_self, hx]; simp [he, hr]
  · rw [pool_set_ne _ _ hj] <;> rfl

/-- R138: what a notice of the TX-ACTIVE grid writes. -/
theorem activeNotice_eq (i : EntryIx) (s : State) :
    activeNotice i s = { s with table := (activeNotice i s).table, counters := (activeNotice i s).counters, evalDue := (activeNotice i s).evalDue } := by
  have h1 : gridNotice i s = { s with table := (gridNotice i s).table, evalDue := (gridNotice i s).evalDue } := by
    unfold gridNotice; split
    · rfl
    · dsimp only; split <;> rfl
  unfold activeNotice
  have h2 := recompute_eq (gridNotice i s)
  generalize recompute (gridNotice i s) = t at *
  rw [h2, h1]

/-- R126, R138: the entry that a notice is of, and the others. -/
theorem activeNotice_entry {s : State} {i : EntryIx} {e : Entry} (he : s.entry i = some e) (ha : s.roleSlot i .txActive ≠ none) :
    (∃ e', (activeNotice i s).entry i = some e' ∧
      e' = { e with state := if e.state = .heard then .linked else e.state, txRate := e'.txRate, route := e'.route }) ∧
    s.OthersKept (activeNotice i s) i := by
  have hgn := gridNotice_eq he
  have hh : s.heardState i = .linked := by unfold State.heardState; rw [Option.isSome_iff_ne_none.2 ha]; rfl
  have hst : (if e.state.present then EntryState.linked else e.state) = if e.state = .heard then .linked else e.state := by rcases e.state <;> rfl
  rw [hh, hst] at hgn
  have hgi : (gridNotice i s).entry i = some { e with state := if e.state = .heard then .linked else e.state } := by
    rw [hgn]; unfold State.entry; simp
  have hgj : ∀ j, j ≠ i → (gridNotice i s).entry j = s.entry j := by
    intro j hj; rw [hgn]; exact entry_setEntry_ne hj _ s
  unfold activeNotice
  have hre := recompute_entry (gridNotice i s) i
  unfold State.rerouted at hre; rw [hgi, Option.map_some] at hre
  exact ⟨⟨_, hre, rfl⟩, fun j hj => by rw [recompute_unrouted, hgj j hj]⟩

/-- A notice of the TX-ACTIVE grid counts route changes alone. -/
theorem cnt_activeNotice {c : Counter} (h : Counter.routeChanges.index ≠ c.index) (i s) : (activeNotice i s).count c = s.count c := by
  unfold activeNotice; rw [cnt_recompute h]
  unfold gridNotice; split
  · rfl
  · dsimp only; split <;> rfl

/-- R27: the frame end of a reception with a used header. -/
theorem exec_frameEnd {s : State} {r : Reception} {h f x} (p l) (hl : s.Live) (h1 : s.line.reception = some r) (h2 : r.header = .used h f x)
    (h3 : s.lineTime = r.frameStart.plus (192 + 32 * h.payloadSymbols)) :
    exec (.frameEnd p l) s = .next (settle s.txCharge (endReception (r.payloadBytes p) l s)) := by
  show execFrameEnd p l s = _; unfold execFrameEnd
  rw [live_due hl (by unfold State.frameEndDue; simp [h1, h2, h3, Header.duration])]
  unfold settled; simp only [State.payloadBytes, h1]

/-- R23 to R27: the header event of a reception. -/
theorem exec_headerEvent {s : State} {r : Reception} (c) (hl : s.Live) (h1 : s.line.reception = some r) (h2 : r.header = .awaited)
    (h3 : s.lineTime = r.frameStart.plus 192) :
    exec (.headerEvent c) s = .next (settle s.txCharge (takeHeader (r.headerCopies c) s)) := by
  show execHeaderEvent c s = _; unfold execHeaderEvent
  rw [live_due hl (by unfold State.headerDue; simp [h1, h2, h3])]
  unfold settled; simp only [State.headerCopies, h1]

/-- R180: what learning a device address writes. -/
theorem learnMap_map (a : Addr) (t : MapTarget) (s : State) :
    (learnMap a t s) = { s with addressMap := (learnMap a t s).addressMap, counters := (learnMap a t s).counters } ∧
    (∀ k, s.findDevice a = some k → (learnMap a t s).addressMap = s.addressMap.set k (some { device := a, target := t, learned := s.lineTime })) ∧
    (∀ k : MapIx, s.findDevice a = none → s.addressMap[k] = none → (∀ j : MapIx, j < k → s.addressMap[j] ≠ none) →
      (learnMap a t s).addressMap = s.addressMap.set k (some { device := a, target := t, learned := s.lineTime })) := by
  refine ⟨?_, fun k h => ?_, fun k h h1 h2 => ?_⟩
  · unfold learnMap; dsimp only; split
    · split <;> rfl
    · split <;> rfl
  · unfold learnMap; rw [h]; dsimp only; split <;> rfl
  · have hf : ((List.finRange 128).find? fun i => s.addressMap[i].isNone) = some k := by
      rw [List.find?_eq_some_iff_getElem]
      refine ⟨by simp [h1], k.val, by simp, by simp, fun j hj => ?_⟩
      have := h2 ⟨j, by omega⟩ (by exact hj)
      simpa [Option.isSome_iff_ne_none] using this
    unfold learnMap; rw [h]; dsimp only; rw [hf]; rfl

/-- What is left open of an entry that agrees with another but for its direct rate and route. -/
theorem unrouted_eq {a b : Entry} (h : a.unrouted = b.unrouted) : a = { b with txRate := a.txRate, route := a.route } := by
  obtain ⟨⟩ := a; obtain ⟨⟩ := b; unfold Entry.unrouted at h; simp_all

/-- R141: a reach list taken item by item. -/
theorem dropDuplicates_append (l : List NoteItem) (x : NoteItem) :
    dropDuplicates (l ++ [x]) = if (dropDuplicates l).any fun y => y.addr == x.addr then dropDuplicates l else dropDuplicates l ++ [x] := by
  unfold dropDuplicates; rw [List.foldl_append]; rfl

/-- R141: the addresses that a reach list names without its duplicates. -/
theorem dropDuplicates_addr (a : Addr) (l : List NoteItem) : (∃ y ∈ dropDuplicates l, y.addr = a) ↔ ∃ y ∈ l, y.addr = a := by
  induction h : l.length generalizing l with
  | zero => have := List.length_eq_zero_iff.1 h; subst this; rfl
  | succ n ih =>
    rcases List.eq_nil_or_concat l with rfl | ⟨xs, x, rfl⟩
    · simp at h
    · rw [List.concat_eq_append] at *
      have k := ih xs (by simp at h; exact h)
      rw [dropDuplicates_append]
      split
      · rename_i hd; rw [k]
        constructor
        · rintro ⟨y, hy, e⟩; exact ⟨y, by simp [hy], e⟩
        · rintro ⟨y, hy, e⟩
          rcases List.mem_append.1 hy with hy | hy
          · exact ⟨y, hy, e⟩
          · simp at hy; subst hy
            rw [List.any_eq_true] at hd; obtain ⟨z, hz, hza⟩ := hd
            exact k.1 ⟨z, hz, by simpa [e] using hza⟩
      · constructor
        · rintro ⟨y, hy, e⟩
          rcases List.mem_append.1 hy with hy | hy
          · obtain ⟨z, hz, hza⟩ := k.1 ⟨y, hy, e⟩; exact ⟨z, by simp [hz], hza⟩
          · exact ⟨y, by simp at hy ⊢; exact .inr hy, e⟩
        · rintro ⟨y, hy, e⟩
          rcases List.mem_append.1 hy with hy | hy
          · obtain ⟨z, hz, hza⟩ := k.2 ⟨y, hy, e⟩; exact ⟨z, by simp [hz], hza⟩
          · exact ⟨y, by simp at hy ⊢; exact .inr hy, e⟩

/-- R125: the entry found has the address, and no lower one does. -/
theorem findEntry_some {s : State} {a : Addr} {i : EntryIx} (h : s.findEntry a = some i) : ∃ e, s.entry i = some e ∧ e.addr = a := by
  have := List.find?_some h
  split at this
  · rename_i e he; exact ⟨e, he, by simpa using this⟩
  · cases this

/-- R125: a table with the same addresses. -/
theorem findEntry_congr {s t : State} {a : Addr} (h : ∀ j, ((t.entry j).map (·.addr) == some a) = ((s.entry j).map (·.addr) == some a)) :
    t.findEntry a = s.findEntry a := by
  unfold State.findEntry
  refine congrArg (fun f => List.find? f (List.finRange 24)) (funext fun j => ?_)
  have := h j
  revert this
  rcases t.entry j with _ | x <;> rcases s.entry j with _ | y <;> simp

/-- R128: the direct rate and route apart, creation writes one index; nothing else of the part but counters changes. -/
theorem create_frame (i e) (s : State) : createEntry i e s = { s with table := (createEntry i e s).table, counters := (createEntry i e s).counters, evalDue := (createEntry i e s).evalDue } := by
  unfold createEntry formRoute; dsimp only
  exact ((((TableFrame.refl s).set _ _).set _ _).rec.bump _).mark

/-- R128: what the creation of a REMOTE entry counts. -/
theorem cnt_create_remote {c : Counter} (h1 : Counter.remoteCreated.index ≠ c.index) (h2 : Counter.routeChanges.index ≠ c.index) (i e s) (he : e.state = .remote) : (createEntry i e s).count c = s.count c := by
  unfold createEntry; dsimp only
  rw [cnt_mark, if_pos he, cnt_bump h1, cnt_recompute h2]; unfold formRoute; rw [cnt_setEntry, cnt_setEntry]

theorem cnt_create_remote_self (i e s) (he : e.state = .remote) : (createEntry i e s).count .remoteCreated = satInc (s.count .remoteCreated) := by
  unfold createEntry; dsimp only
  rw [cnt_mark, if_pos he, cnt_self, cnt_recompute (by decide)]; unfold formRoute; rw [cnt_setEntry, cnt_setEntry]

/-- R130: one named address: what it does to an entry that its own address finds. -/
theorem nameStation_spec (tx a : Addr) (s : State) :
    (nameStation tx a s = { s with table := (nameStation tx a s).table, counters := (nameStation tx a s).counters, evalDue := (nameStation tx a s).evalDue }) ∧
    (∀ c : Counter, Counter.remoteCreated.index ≠ c.index → Counter.routeChanges.index ≠ c.index → Counter.remoteNotCreated.index ≠ c.index →
      (nameStation tx a s).count c = s.count c) ∧
    ∀ (j : EntryIx) (y : Entry), s.entry j = some y → s.findEntry y.addr = some j →
      (nameStation tx a s).findEntry y.addr = some j ∧
      ((nameStation tx a s).entry j).map Entry.unrouted = some (Entry.unrouted
        (if y.state = .remote ∧ y.addr ≠ s.settings.station ∧ y.addr ≠ tx ∧ a = y.addr then { y with lastNamed := some s.lineTime } else y)) := by
  unfold nameStation
  by_cases h : a = s.settings.station ∨ a = tx
  · rw [if_pos h]
    refine ⟨rfl, fun _ _ _ _ => rfl, fun j y hy hf => ⟨hf, ?_⟩⟩
    rw [if_neg, hy]; rfl
    rintro ⟨_, h1, h2, h3⟩; rcases h with h | h
    · exact h1 (h3 ▸ h)
    · exact h2 (h3 ▸ h)
  · rw [if_neg h]
    split
    · rename_i i hi
      obtain ⟨e, he, hea⟩ := findEntry_some hi
      have hm : modEntry i (fun e => if e.state = .remote then { e with lastNamed := some s.lineTime } else e) s = setEntry i (some (if e.state = .remote then { e with lastNamed := some s.lineTime } else e)) s := by
        unfold modEntry; rw [he]
      rw [hm]
      refine ⟨rfl, fun _ _ _ _ => rfl, fun j y hy hf => ?_⟩
      have hfe : ∀ b, (setEntry i (some (if e.state = .remote then { e with lastNamed := some s.lineTime } else e)) s).findEntry b = s.findEntry b :=
        fun b => findEntry_set (x := if e.state = .remote then { e with lastNamed := some s.lineTime } else e) he (by split <;> rfl)
      refine ⟨(hfe _).trans hf, ?_⟩
      by_cases hj : j = i
      · subst hj; rw [he] at hy; cases hy
        rw [entry_setEntry_self]; simp only [Option.map_some]
        congr 2
        by_cases hr : e.state = .remote
        · rw [if_pos hr, if_pos ⟨hr, fun k => h (.inl (hea ▸ k)), fun k => h (.inr (hea ▸ k)), hea.symm⟩]
        · rw [if_neg hr, if_neg (fun k => hr k.1)]
      · rw [entry_setEntry_ne hj, hy, if_neg]; rfl
        rintro ⟨_, _, _, h4⟩; rw [← h4, hi] at hf; exact hj (Option.some.inj hf).symm
    · rename_i hno
      split
      · rename_i k hk
        have hkn : s.entry k = none := by have := List.find?_some hk; simpa using this
        obtain ⟨rt, xr, ce⟩ := create_entry k (Entry.fresh a .remote none (some s.lineTime) false) s
        have co := create_others k (Entry.fresh a .remote none (some s.lineTime) false) s
        refine ⟨create_frame _ _ _, fun c h1 h2 _ => ?_, fun j y hy hf => ?_⟩
        · exact cnt_create_remote h1 h2 _ _ _ rfl
        · have hjk : j ≠ k := by rintro rfl; rw [hkn] at hy; cases hy
          have hay : a ≠ y.addr := by rintro rfl; rw [hno] at hf; cases hf
          refine ⟨?_, ?_⟩
          · rw [findEntry_congr (s := s) ?_, hf]
            intro m; by_cases hm : m = k
            · subst hm; rw [ce, hkn]; simp [Entry.fresh, hay]
            · have := co m hm
              have e2 : ((createEntry k (Entry.fresh a .remote none (some s.lineTime) false) s).entry m).map (·.addr) = (s.entry m).map (·.addr) := by
                have e3 := congrArg (Option.map (·.addr)) this
                rw [Option.map_map, Option.map_map] at e3; exact e3
              rw [e2]
          · rw [co j hjk, hy, if_neg]; rfl
            rintro ⟨_, _, _, h4⟩; exact hay h4
      · refine ⟨rfl, fun c _ _ h3 => cnt_bump h3 _, fun j y hy hf => ⟨hf, ?_⟩⟩
        show (s.entry j).map _ = _
        rw [hy, if_neg]; rfl
        rintro ⟨_, _, _, h4⟩; rw [← h4, hno] at hf; cases hf

/-- R130: the addresses of a reach list, taken in order. -/
theorem nameAll_spec (tx : Addr) (l : List NoteItem) : ∀ s : State,
    let t := l.foldl (fun s x => nameStation tx x.addr s) s
    (t = { s with table := t.table, counters := t.counters, evalDue := t.evalDue }) ∧
    (∀ c : Counter, Counter.remoteCreated.index ≠ c.index → Counter.routeChanges.index ≠ c.index → Counter.remoteNotCreated.index ≠ c.index →
      t.count c = s.count c) ∧
    ∀ (j : EntryIx) (y : Entry), s.entry j = some y → s.findEntry y.addr = some j →
      (t.entry j).map Entry.unrouted = some (Entry.unrouted
        (if y.state = .remote ∧ y.addr ≠ s.settings.station ∧ y.addr ≠ tx ∧ ∃ z ∈ l, z.addr = y.addr then { y with lastNamed := some s.lineTime } else y)) := by
  induction l with
  | nil => intro s; refine ⟨rfl, fun _ _ _ _ => rfl, fun j y hy _ => ?_⟩; show (s.entry j).map _ = _; rw [hy, if_neg]; rfl; simp
  | cons x l ih =>
    intro s
    obtain ⟨a1, a2, a3⟩ := nameStation_spec tx x.addr s
    obtain ⟨b1, b2, b3⟩ := ih (nameStation tx x.addr s)
    dsimp only at b1 b2 b3 ⊢
    rw [List.foldl_cons]
    have hset : (nameStation tx x.addr s).settings = s.settings ∧ (nameStation tx x.addr s).lineTime = s.lineTime := by rw [a1]; exact ⟨rfl, rfl⟩
    generalize nameStation tx x.addr s = u at *
    generalize l.foldl (fun s x => nameStation tx x.addr s) u = t at *
    refine ⟨by rw [b1, a1], fun c h1 h2 h3 => (b2 c h1 h2 h3).trans (a2 c h1 h2 h3), fun j y hy hf => ?_⟩
    obtain ⟨k1, k2⟩ := a3 j y hy hf
    rcases hu : u.entry j with _ | y'
    · rw [hu] at k2; cases k2
    · rw [hu] at k2; simp only [Option.map_some, Option.some.injEq] at k2
      have ha : y'.addr = y.addr := by have := congrArg Entry.addr k2; simp only [Entry.unrouted] at this; rw [this]; split <;> rfl
      have hs : y'.state = y.state := by have := congrArg Entry.state k2; simp only [Entry.unrouted] at this; rw [this]; split <;> rfl
      rw [b3 j y' hu (by rw [ha]; exact k1), hset.1, hset.2]
      congr 1
      have hl := fun v => congrArg (fun w : Entry => ({ w with lastNamed := v } : Entry)) k2
      have hc : (y'.state = .remote ∧ y'.addr ≠ s.settings.station ∧ y'.addr ≠ tx ∧ ∃ z ∈ l, z.addr = y'.addr) ↔
          (y.state = .remote ∧ y.addr ≠ s.settings.station ∧ y.addr ≠ tx ∧ ∃ z ∈ l, z.addr = y.addr) := by rw [ha, hs]
      rw [ite_congr (propext hc) (fun _ => rfl) (fun _ => rfl)]
      by_cases c1 : y.state = .remote ∧ y.addr ≠ s.settings.station ∧ y.addr ≠ tx
      · by_cases c2 : ∃ z ∈ l, z.addr = y.addr
        · rw [if_pos ⟨c1.1, c1.2.1, c1.2.2, c2⟩, if_pos ⟨c1.1, c1.2.1, c1.2.2, by obtain ⟨z, hz, e⟩ := c2; exact ⟨z, by simp [hz], e⟩⟩]
          refine (hl (some s.lineTime)).trans ?_; split <;> rfl
        · rw [if_neg (fun h => c2 h.2.2.2), k2]
          by_cases c3 : x.addr = y.addr
          · rw [if_pos ⟨c1.1, c1.2.1, c1.2.2, c3⟩, if_pos ⟨c1.1, c1.2.1, c1.2.2, x, by simp, c3⟩]
          · rw [if_neg (fun h => c3 h.2.2.2), if_neg]
            rintro ⟨_, _, _, z, hz, e⟩; simp at hz; rcases hz with rfl | hz
            · exact c3 e
            · exact c2 ⟨z, hz, e⟩
      · rw [if_neg (fun h => c1 ⟨h.1, h.2.1, h.2.2.1⟩), k2, if_neg (fun h => c1 ⟨h.1, h.2.1, h.2.2.1⟩), if_neg (fun h => c1 ⟨h.1, h.2.1, h.2.2.1⟩)]

/-- R67, R69: what a sound request may write. -/
theorem soundRequested_frame (o : Option MainsSlot) (q : SoundRequest) (s : State) :
    (soundRequested o q s = { s with estimator := (soundRequested o q s).estimator, control := (soundRequested o q s).control, counters := (soundRequested o q s).counters, evalDue := (soundRequested o q s).evalDue }) ∧
    (soundRequested o q s).estimator.wants = raiseWants o q s.estimator.wants ∧
    (soundRequested o q s).count .soundRequests = satInc (s.count .soundRequests) ∧
    (∀ c : Counter, Counter.soundRequests.index ≠ c.index → Counter.placedSoundRefusal.index ≠ c.index → (soundRequested o q s).count c = s.count c) := by
  have hw : ∃ b, wantsRaised o q s = bump .soundRequests { s with estimator := { s.estimator with wants := raiseWants o q s.estimator.wants }, evalDue := b } := by
    unfold wantsRaised; dsimp only; split
    · exact ⟨true, rfl⟩
    · exact ⟨s.evalDue, rfl⟩
  obtain ⟨b, hw⟩ := hw
  unfold soundRequested; rw [hw]; unfold wantAttempt placementAttempt
  split
  · dsimp only; split
    · exact ⟨rfl, rfl, by show (bump _ _).count _ = _; rw [cnt_self]; rfl, fun c h1 h2 => by show (bump .soundRequests _).count c = _; rw [cnt_bump h1]; rfl⟩
    · exact ⟨rfl, rfl, by rw [cnt_bump (by decide)]; show (bump _ _).count _ = _; rw [cnt_self]; rfl, fun c h1 h2 => by rw [cnt_bump h2]; show (bump .soundRequests _).count c = _; rw [cnt_bump h1]; rfl⟩
  · exact ⟨rfl, rfl, by rw [cnt_self]; rfl, fun c h1 h2 => by rw [cnt_bump h1]; rfl⟩

/-- R51: the responder duty of a DATA or GRID frame. -/
theorem duty_unicast {h : Header} (hk : h.kind = .data ∨ h.kind = .grid) (r : Reception) : h.duty r.frameStart = { transmitter := h.tx, pair := h.pair, frameEnd := r.frameStart.plus (192 + 32 * h.symbols), resp := none } := by
  have : h.payloadSymbols = h.symbols := by unfold Header.payloadSymbols; rcases hk with hk | hk <;> rw [hk] <;> rfl
  unfold Header.duty Header.duration; rw [this]

/-- R16, R27, R51: what an addressed header does once its transmitter has been learned. -/
theorem addressed_after_learn {s y : State} {r : Reception} {h : Header} {i : EntryIx} {x : Entry} (hy : EntryFrame s y) (hf : y.findEntry h.tx = some i)
    (he : y.entry i = some x) :
    let z := if h.Addressed s then beginProcessed r h (sampleHeader r h y) else y
    z = { y with table := y.table.set i (some { x with offset := if h.Addressed s then r.offsetAfter h x.offset else x.offset }),
                 mac := { y.mac with duty := s.dutyAfter r h }, counters := z.counters } ∧
    (∀ c : Counter, (∀ p, (Counter.dataReceived p).index ≠ c.index) → Counter.misalignedOffsets.index ≠ c.index → z.count c = y.count c) ∧
    (∀ p, z.count (.dataReceived p) =
      if h.Addressed s ∧ h.kind = .data ∧ h.priority = p then satInc (y.count (.dataReceived p)) else y.count (.dataReceived p)) ∧
    z.count .misalignedOffsets =
      if h.Addressed s ∧ r.Samples h ∧ offsetSample r.stampPhase h.phase.toNat = none then satInc (y.count .misalignedOffsets)
      else y.count .misalignedOffsets := by
  have hset : ∀ o, o = x.offset → (y.table.set i (some { x with offset := o })) = y.table := by
    intro o ho; subst ho; have := setEntry_same he; unfold setEntry at this; exact congrArg State.table this
  have hm : y.mac = s.mac := by unfold EntryFrame at hy; rw [hy]
  dsimp only
  by_cases ha : h.Addressed s
  · simp only [if_pos ha]
    have hsamp : sampleHeader r h y = { y with table := y.table.set i (some { x with offset := r.offsetAfter h x.offset }), counters := (sampleHeader r h y).counters } ∧
        (∀ c : Counter, Counter.misalignedOffsets.index ≠ c.index → (sampleHeader r h y).count c = y.count c) ∧
        (sampleHeader r h y).count .misalignedOffsets = if r.Samples h ∧ offsetSample r.stampPhase h.phase.toNat = none then satInc (y.count .misalignedOffsets)
          else y.count .misalignedOffsets := by
      have key : ∀ (hk : h.kind = .sound ∨ h.kind = .note), sampleHeader r h y = takeOffsetSample i r.stampPhase r.stampTrusted h.phase.toNat h.trusted y := by
        intro hk; unfold sampleHeader; rw [hf]; rcases hk with hk | hk <;> rw [hk]
      by_cases hs : r.Samples h
      · rw [key hs.1]; unfold takeOffsetSample; simp only [show (r.stampTrusted && h.trusted) = true by rw [hs.2.1, hs.2.2]; rfl, if_true]
        unfold Reception.offsetAfter; rw [if_pos hs]
        rcases ho : offsetSample r.stampPhase h.phase.toNat with _ | k
        · refine ⟨?_, fun c hc => ?_, ?_⟩
          · simp only [Option.map_none, Option.getD_none]; rw [hset _ rfl]; rfl
          · exact cnt_bump hc _
          · rw [cnt_self]; simp [hs]
        · refine ⟨?_, fun c hc => ?_, ?_⟩
          · simp only [Option.map_some, Option.getD_some]; unfold modEntry; rw [he]; rfl
          · unfold modEntry; rw [he]; rfl
          · unfold modEntry; rw [he]; simp [cnt_setEntry]
      · have : sampleHeader r h y = y := by
          by_cases hk : h.kind = .sound ∨ h.kind = .note
          · rw [key hk]; unfold takeOffsetSample; rw [if_neg]; intro hc; simp at hc; exact hs ⟨hk, hc.1, hc.2⟩
          · unfold sampleHeader; revert hk; cases h.kind <;> simp
        rw [this]; unfold Reception.offsetAfter; rw [if_neg hs]
        refine ⟨by rw [hset _ rfl], fun c _ => rfl, ?_⟩
        rw [if_neg (fun hc => hs hc.1)]
    obtain ⟨a1, a2, a3⟩ := hsamp
    generalize sampleHeader r h y = w at *
    have hod : openDuty r h w = { w with mac := { y.mac with duty := s.dutyAfter r h } } := by
      unfold openDuty State.dutyAfter; rw [← hm]
      have hwm : w.mac = y.mac := by rw [a1]
      by_cases hk : h.kind = .data ∨ h.kind = .grid
      · rw [show (if h.Addressed s ∧ (h.kind = .data ∨ h.kind = .grid) then some _ else y.mac.duty) = _ from if_pos ⟨ha, hk⟩, if_pos (by rcases hk with hk | hk <;> rw [hk] <;> rfl), duty_unicast hk r]
        unfold modMac; rw [hwm]
      · rw [show (if h.Addressed s ∧ (h.kind = .data ∨ h.kind = .grid) then _ else y.mac.duty) = _ from if_neg (fun hc => hk hc.2), if_neg (by revert hk; cases h.kind <;> simp [FrameKind.unicast]), ← hwm]
    unfold beginProcessed; rw [hod]
    have e1 : ({ w with mac := { y.mac with duty := s.dutyAfter r h } } : State) = { y with table := y.table.set i (some { x with offset := r.offsetAfter h x.offset }), mac := { y.mac with duty := s.dutyAfter r h }, counters := w.counters } := by rw [a1]
    split
    · rename_i hk
      refine ⟨?_, fun c h1 h2 => ?_, fun p => ?_, ?_⟩
      · rw [e1]; rfl
      · rw [cnt_bump (h1 _)]; exact a2 c h2
      · by_cases hp : h.priority = p
        · subst hp; rw [cnt_self, if_pos ⟨ha, hk, rfl⟩]; congr 1; exact a2 _ (by generalize h.priority = q; revert q; decide)
        · rw [cnt_bump (by revert hp; generalize h.priority = q; revert p q; decide), if_neg (fun hc => hp hc.2.2)]; exact a2 _ (by clear hp; revert p; decide)
      · rw [cnt_bump (by generalize h.priority = q; revert q; decide)]
        refine Eq.trans a3 ?_
        simp only [ha, true_and]
    · rename_i hk
      refine ⟨?_, fun c h1 h2 => a2 c h2, fun p => ?_, ?_⟩
      · exact e1
      · rw [if_neg (fun hc => hk hc.2.1)]; exact a2 _ (by revert p; decide)
      · refine Eq.trans a3 ?_
        simp only [ha, true_and]
  · simp only [ha, false_and, if_false]
    refine ⟨?_, ?_⟩
    · rw [hset _ rfl]; unfold State.dutyAfter; rw [if_neg (fun hc => ha hc.1), ← hm]
    · simp

/-- What a header of a learned station leaves when it is kept in the reception and the command has ended. -/
theorem header_settled {s y : State} {r : Reception} {h : Header} {i : EntryIx} {x : Entry} (H : HeaderState) (n : Nat)
    (h1 : s.line.reception = some r) (hs : s.evalDue = false) (hy : EntryFrame s y) (hf : y.findEntry h.tx = some i) (he : y.entry i = some x)
    (hc1 : ∀ p, y.count (.dataReceived p) = s.count (.dataReceived p)) (hc2 : y.count .misalignedOffsets = s.count .misalignedOffsets)  :
    let t := settle n (setHeader H (if h.Addressed s then beginProcessed r h (sampleHeader r h y) else y))
    s.Told t r h ∧ t.entry i = some { x with offset := if h.Addressed s then r.offsetAfter h x.offset else x.offset } ∧
      (∀ j, j ≠ i → t.entry j = y.entry j) ∧ t.pool = y.pool ∧ t.addressMap = y.addressMap ∧ t.inFlight = y.inFlight ∧ t.control = y.control ∧
      (∀ c : Counter, (∀ p, (Counter.dataReceived p).index ≠ c.index) → Counter.misalignedOffsets.index ≠ c.index →
        Counter.unreachableDrops.index ≠ c.index → Counter.thermalDeferral.index ≠ c.index → t.count c = y.count c) ∧
      t = { s with line := { s.line with reception := some { r with header := H } }, table := t.table, pool := t.pool, addressMap := t.addressMap, inFlight := t.inFlight, control := t.control }.endedAs t := by
  obtain ⟨a1, a2, a3, a4⟩ := addressed_after_learn (r := r) hy hf he
  dsimp only at a1 a2 a3 a4 ⊢
  generalize (if h.Addressed s then beginProcessed r h (sampleHeader r h y) else y) = z at *
  have hm : y.mac = s.mac := by unfold EntryFrame at hy; rw [hy]
  generalize hu : setHeader H z = u
  have uc : ∀ c, u.count c = z.count c := by intro c; rw [← hu]; rfl
  have ue : ∀ j, u.entry j = z.entry j := by intro c; rw [← hu]; rfl
  have uM : u.mac = { s.mac with duty := s.dutyAfter r h } := by rw [← hu]; show z.mac = _; rw [a1, hm]
  have hpo : u.pool = y.pool ∧ u.addressMap = y.addressMap ∧ u.inFlight = y.inFlight ∧ u.control = y.control := by
    rw [← hu, a1]; exact ⟨rfl, rfl, rfl, rfl⟩
  have uf : EntryFrame { s with line := { s.line with reception := some { r with header := H } }, mac := { s.mac with duty := s.dutyAfter r h } } u := by
    rw [← hu, a1]; unfold EntryFrame at hy ⊢; rw [hy]; unfold setHeader modLine; simp [h1]
  have cs : ∀ c : Counter, Counter.unreachableDrops.index ≠ c.index → Counter.thermalDeferral.index ≠ c.index → (settle n u).count c = z.count c := by
    intro c k1 k2; rw [cnt_settle k1 k2, uc]
  refine ⟨⟨?_, fun hid => ?_, fun p => ?_, ?_⟩, ?_, fun j hj => ?_, ?_, ?_, ?_, ?_, fun c k1 k2 k3 k4 => ?_, ?_⟩
  · rcases settle_mac n u with k | ⟨_, st, c, tw, _, k⟩ <;> rw [k, uM]
  · rw [settle_mac_busy (by rw [uM]; exact hid), uM]
  · rw [cs _ (by revert p; decide) (by revert p; decide), a3 p, hc1]
  · rw [cs _ (by decide) (by decide), a4, hc2]
  · rw [settle_entry, ue, a1]; unfold State.entry; simp
  · rw [settle_entry, ue, a1]; unfold State.entry; dsimp only; exact Vector.getElem_set_ne _ _ (by intro e; exact hj (Fin.ext e.symm))
  · rw [settle_pool, hpo.1]
  · rw [settle_map, hpo.2.1]
  · rw [settle_inFlight, hpo.2.2.1]
  · rw [settle_control, hpo.2.2.2]
  · rw [cs c k3 k4, a2 c k1 k2]
  · exact settle_entryFrame uf hs rfl

/-- R26: the header event, by whether the header is addressed to this station. -/
theorem takeHeader_addr {s : State} {r : Reception} {h : Header} {copies} (h1 : s.line.reception = some r) (hu : usedHeader copies = some h)
    (g1 : h.house = s.settings.house) (g2 : h.tx ≠ s.settings.station) (g3 : h.tx ≠ Addr.broadcast) :
    let z := if h.Addressed s then beginProcessed r h (sampleHeader r h (learn h.tx h.trusted s)) else learn h.tx h.trusted s
    takeHeader copies s = setHeader (.used h (if h.Addressed s then .processed else .overheard) (if h.Addressed s ∧ h.kind = .data then z.resolveTag h else .robust)) z := by
  dsimp only
  unfold takeHeader; rw [h1]; dsimp only; rw [hu]; dsimp only
  by_cases ha : h.Addressed s
  · have fc : s.filterCase h = .processed := by unfold State.filterCase; simp [g1, g2, g3]; intro k; exact ha.resolve_left k
    rw [fc]; simp only [ha, true_and]; unfold filterEffect State.headerResolution; simp
  · have fc : s.filterCase h = .overheard := by unfold State.filterCase; simp [g1, g2, g3]; simpa [Header.Addressed] using ha
    rw [fc]; simp only [ha, false_and, if_false]; unfold filterEffect State.headerResolution; simp

/-- R110: the resolution of a tag rests on the transmitter's index and the pool. -/
theorem resolveTag_congr {s z : State} {h : Header} (hz : z.findEntry h.tx = s.findEntry h.tx) (hp : z.pool = s.pool) : z.resolveTag h = s.resolveTag h := by
  unfold State.resolveTag; rw [hz]
  have : ∀ e r t p, z.latch e r t p = s.latch e r t p := by
    intro e r t p; unfold State.latch; rw [roleSlot_congr hp]; simp only [hp]
  simp only [this]

/-- R110: a tag of an entry without grids is unresolved. -/
theorem resolveTag_unresolved {z : State} {h : Header} {i : EntryIx} (hz : z.findEntry h.tx = some i) (hp : ∀ (k : SlotIx) (g : HeldGrid), z.pool[k] = some g → g.entry ≠ i) (ht : h.tag ≠ 0#8) : z.resolveTag h = .unresolved := by
  unfold State.resolveTag; rw [hz]
  have hr : ∀ r, z.roleSlot i r = none := by
    intro r; unfold State.roleSlot; rw [List.find?_eq_none]; intro k _
    rcases hk : z.pool[k] with _ | g
    · simp
    · have := hp k g hk; simp [this]
  have : ∀ r t p, z.latch i r t p = none := by
    intro r t p; unfold State.latch; rw [hr]
  simp [this, ht]
/-- R110: tag 0 is the robust map. -/
theorem resolveTag_zero {z : State} {h : Header} {i : EntryIx} (hz : z.findEntry h.tx = some i) (ht : h.tag = 0#8) : z.resolveTag h = .robust := by
  unfold State.resolveTag; rw [hz]; simp [ht]

/-- R26: the address filter leaves the transmitter's index. -/
theorem findEntry_addressed {s y : State} {r : Reception} {h : Header} {i : EntryIx} {x : Entry} (hy : EntryFrame s y) (hf : y.findEntry h.tx = some i) (he : y.entry i = some x) :
    (if h.Addressed s then beginProcessed r h (sampleHeader r h y) else y).findEntry h.tx = some i ∧
    (if h.Addressed s then beginProcessed r h (sampleHeader r h y) else y).pool = y.pool := by
  have k := (addressed_after_learn (r := r) hy hf he).1
  dsimp only at k
  rw [k]; refine ⟨?_, rfl⟩
  rw [← hf]; apply findEntry_congr; intro j
  show (((y.table.set i _)[j]).map _ == _) = _
  by_cases hj : j = i
  · subst hj; rw [he]; simp
  · have : (y.table.set i (some { x with offset := if h.Addressed s then r.offsetAfter h x.offset else x.offset }))[j] = y.table[j] := Vector.getElem_set_ne _ _ (by intro e; exact hj (Fin.ext e.symm))
    rw [this]; rfl

/-- The only index that meets a test is the one found. -/
theorem finRange_find_only {n : Nat} {p : Fin n → Bool} {i : Fin n} (h : p i = true) (hj : ∀ j, j ≠ i → p j = false) : (List.finRange n).find? p = some i := by
  rw [List.find?_eq_some_iff_getElem]
  refine ⟨h, i.val, by simp, by simp, fun j hlt => ?_⟩
  simp at hlt ⊢; exact hj ⟨j, by omega⟩ (by intro e; have := congrArg Fin.val e; simp at this; omega)

/-- A new entry is found by its address. -/
theorem findEntry_new {s y : State} {a : Addr} {i : EntryIx} (hf : s.findEntry a = none) (hi : (y.entry i).map (·.addr) = some a)
    (hj : ∀ j, j ≠ i → (y.entry j).map (·.addr) = (s.entry j).map (·.addr)) : y.findEntry a = some i := by
  have key : ∀ (t : State) j, (match t.entry j with | some e => e.addr == a | none => false) = ((t.entry j).map (·.addr) == some a) := by
    intro t j; cases t.entry j <;> simp
  have hn : ∀ j, ((s.entry j).map (·.addr) == some a) = false := by
    intro j; unfold State.findEntry at hf; rw [List.find?_eq_none] at hf
    have := hf j (List.mem_finRange j)
    rw [← key]; exact (Bool.not_eq_true _).mp this
  unfold State.findEntry
  refine finRange_find_only ?_ fun j k => ?_
  · refine (key y i).trans ?_; rw [hi]; simp
  · refine (key y j).trans ?_; rw [hj j k]; exact hn j

/-- R125: HEARD and LINKED are the present states. -/
theorem present_iff (x : EntryState) : x.present = true ↔ (x = .heard ∨ x = .linked) := by cases x <;> simp [EntryState.present]

/-- R105: the control-list entry of a part. -/
def partEntry (i : EntryIx) (t : Byte) (j : Nat) : ControlEntry := .gridPart i t (Fin.ofNat 4 j)

/-- R105: the part records of an issue of `k` parts after `n` offers. -/
def partsOffered (k n : Nat) : List PartRecord := (List.range k).map fun j => { index := Fin.ofNat 4 j, place := if j < n then .onList else .unplaced, inFlight := false, attempts := 0 }

/-- R105: one offer of an issue of which `n` parts are placed, with room on the list. -/
theorem offerLowest_next {u : State} {i : EntryIx} {e : Entry} {g : Grid} {k n : Nat} {c0 : List ControlEntry} (hk : k ≤ 4) (he : u.entry i = some e) (hp : e.store.parts = partsOffered k n)
    (hg : u.roleGrid i .rxPending = some g) (hc : u.control = c0 ++ (List.range (min n k)).map (partEntry i g.tag))
    (h0 : ∀ z ∈ c0, z.partOf i = false) (hl : c0.length ≤ 12) :
    offerLowest i u = { u with
       table := u.table.set i (some { e with store := { e.store with parts := partsOffered k (n+1) } })
       control := c0 ++ (List.range (min (n+1) k)).map (partEntry i g.tag)
       evalDue := (offerLowest i u).evalDue } := by
  have hfind : e.store.lowestUnplaced = if n < k then some { index := Fin.ofNat 4 n, place := .unplaced, inFlight := false, attempts := 0 } else none := by
    unfold GridRecord.lowestUnplaced; rw [hp]; unfold partsOffered; clear hp hc
    have : k = 0 ∨ k = 1 ∨ k = 2 ∨ k = 3 ∨ k = 4 := by omega
    by_cases hn : n < k
    · rw [if_pos hn]
      have : n = 0 ∨ n = 1 ∨ n = 2 ∨ n = 3 := by omega
      rcases this with rfl | rfl | rfl | rfl <;> rcases ‹k = 0 ∨ _› with rfl | rfl | rfl | rfl | rfl <;> first | omega | decide
    · rw [if_neg hn, List.find?_eq_none]; intro p hp; simp at hp; obtain ⟨j, hj, rfl⟩ := hp
      simp; omega
  unfold offerLowest; rw [he, hg]; simp only [Option.bind_some, hfind]
  by_cases hn : n < k
  · rw [if_pos hn]; dsimp only
    have ht : u.controlTakes (.gridPart i g.tag (Fin.ofNat 4 n)) = true := by
      unfold State.controlTakes; rw [hc]; simp only [Bool.and_eq_true, decide_eq_true_eq, Bool.not_eq_true']
      refine ⟨by simp; omega, ?_⟩
      rw [List.any_eq_false]; intro z hz
      rcases List.mem_append.1 hz with hz | hz
      · have := h0 z hz; unfold ControlEntry.partOf at this; unfold ControlEntry.clashes; split <;> simp_all
      · simp at hz; obtain ⟨j, hj, rfl⟩ := hz
        simp [ControlEntry.clashes, partEntry]; intro hx
        have := congrArg Fin.val hx; simp [Fin.ofNat] at this; omega
    rw [if_pos ht]; unfold placeControl markEval modEntry; rw [he]; dsimp only [setEntry]
    have hm : e.store.modPart (Fin.ofNat 4 n) (fun y => { y with place := .onList }) = { e.store with parts := partsOffered k (n+1) } := by
      unfold GridRecord.modPart; rw [hp]; congr 1; unfold partsOffered; rw [List.map_map]; refine List.map_congr_left fun j hj => ?_
      simp at hj; simp only [Function.comp]
      by_cases hjn : j = n
      · subst hjn; simp
      · have : Fin.ofNat 4 j ≠ Fin.ofNat 4 n := by intro hx; have := congrArg Fin.val hx; simp [Fin.ofNat] at this; omega
        rw [if_neg this]; congr 1; by_cases h : j < n <;> simp [h] <;> omega
    rw [hm, hc, List.append_assoc]; congr 2
    rw [show min (n+1) k = min n k + 1 by omega, List.range_succ, List.map_append, show min n k = n by omega]; rfl
  · rw [if_neg hn]; dsimp only
    have h1 : partsOffered k (n+1) = e.store.parts := by rw [hp]; unfold partsOffered; refine List.map_congr_left fun j hj => ?_; simp at hj; congr 1; rw [if_pos (by omega), if_pos (by omega)]
    have h2 : ({ e with store := { e.store with parts := partsOffered k (n+1) } } : Entry) = e := by rw [h1]
    rw [h2, show min (n+1) k = min n k by omega, ← hc]
    have := setEntry_same he; unfold setEntry at this; rw [this]

/-- R105: an issue offered to a list with room for its parts. -/
theorem offerIssue_eq {u : State} {i : EntryIx} {e : Entry} {g : Grid} {k : Nat} (hk : k ≤ 4) (he : u.entry i = some e) (hp : e.store.parts = newParts k)
    (hg : u.roleGrid i .rxPending = some g) (h0 : ∀ z ∈ u.control, z.partOf i = false) (hl : u.control.length ≤ 12) :
    offerIssue i u = { u with
       table := u.table.set i (some { e with store := { e.store with parts := partsOffered k 4 } })
       control := u.control ++ (List.range k).map (partEntry i g.tag)
       evalDue := (offerIssue i u).evalDue } := by
  have key : ∀ n, n ≤ 4 → ∃ v, (List.range n).foldl (fun s _ => offerLowest i s) u = v ∧ v = { u with
       table := u.table.set i (some { e with store := { e.store with parts := partsOffered k n } }),
       control := u.control ++ (List.range (min n k)).map (partEntry i g.tag), evalDue := v.evalDue } := by
    intro n; induction n with
    | zero =>
      intro _; refine ⟨u, rfl, ?_⟩
      have : partsOffered k 0 = e.store.parts := by rw [hp]; unfold partsOffered newParts; simp
      rw [this]; have := setEntry_same he; unfold setEntry at this; simp; exact this.symm
    | succ n ih =>
      intro hn; obtain ⟨v, h1, h2⟩ := ih (by omega)
      rw [List.range_succ, List.foldl_append, h1]
      refine ⟨_, rfl, ?_⟩
      show offerLowest i v = _
      have hve : v.entry i = some { e with store := { e.store with parts := partsOffered k n } } := by rw [h2]; unfold State.entry; simp
      have hvg : v.roleGrid i .rxPending = some g := by
        rw [← hg]; unfold State.roleGrid; rw [roleSlot_congr (v := u) (by rw [h2])]; rw [h2]
      have hs := offerLowest_next (c0 := u.control) hk hve rfl hvg (by rw [h2]) h0 hl
      obtain ⟨w, hw⟩ : ∃ w, w = offerLowest i v := ⟨_, rfl⟩
      rw [← hw] at hs ⊢
      rw [hs]
      conv => lhs; rw [h2]
      simp [hw]
  obtain ⟨v, h1, h2⟩ := key 4 (Nat.le_refl _)
  have : offerIssue i u = v := h1
  rw [this, show min 4 k = k by omega] at *
  exact h2

/-- R78, R83, R96: the remembered trigger taken up, with no cell aged. -/
theorem takeRemembered_eq {u : State} {i : EntryIx} {e : Entry} (he : u.entry i = some e)
    (hy : e.build.remembered ≠ none → ∀ (p : Pair) (m : MainsSlot), Cell.old u.lineTime e.snr[p][m] = false) :
    takeRemembered i u = match e.build.remembered with
      | none => u
      | some r =>
        if e.state.present then
          let boost := if r.error = false ∧ badCount e.rx.window ≤ 1 then e.build.boost - 2 else e.build.boost
          let v := bump .buildsStarted (setEntry i (some { e with build := { e.build with
            state := .building u.lineTime r
              { cells := e.snr, margin := u.settings.margin, boost := boost, localBands := u.settings.bands,
                peerBands := e.peerBands, pairs := u.settings.pairs }
            boost := boost, remembered := none, retrySpent := r.abandonmentAlone } }) u)
          if r.forced then bump .buildsForced v else v
        else bump .ignoredTriggers (setEntry i (some { e with build := { e.build with remembered := none } }) u) := by
  unfold takeRemembered; rw [he]; dsimp only [Option.bind_some]
  rcases hr : e.build.remembered with _ | r
  · rfl
  · dsimp only
    have hm : modEntry i (fun e => { e with build := { e.build with remembered := none } }) u = setEntry i (some { e with build := { e.build with remembered := none } }) u := by
      unfold modEntry; rw [he]
    rw [hm]
    have hp : u.present i = e.state.present := by unfold State.present; rw [he]
    rw [hp]
    split
    · generalize hv : setEntry i (some { e with build := { e.build with remembered := none } }) u = v
      have hve : v.entry i = some { e with build := { e.build with remembered := none } } := by rw [← hv]; exact entry_setEntry_self _ _ _
      unfold startBuild
      have hl : v.lineTime = u.lineTime ∧ v.settings = u.settings := by rw [← hv]; exact ⟨rfl, rfl⟩
      rw [ageEntry_young hve (by rw [hl.1]; exact hy (by rw [hr]; simp))]
      dsimp only; rw [hve]; dsimp only; rw [hl.1, hl.2]
      have hb : (if r.error = true then e.build.boost else decayBoost e.build.boost (badCount e.rx.window)) = if r.error = false ∧ badCount e.rx.window ≤ 1 then e.build.boost - 2 else e.build.boost := by
        unfold decayBoost; cases r.error <;> simp
      rw [hb]
      have : ∀ y, setEntry i y v = setEntry i y u := by intro y; rw [← hv]; unfold setEntry; simp
      rw [this]
    · rfl

/-- An entry without its part records, which the offering of parts may write in every entry. -/
def Entry.unparted (e : Entry) : Entry := { e with store := { e.store with parts := [] } }
/-- R105: an offer writes nothing else of an entry. -/
theorem offerLowest_unparted (e) (s : State) (i) : ((offerLowest e s).entry i).map Entry.unparted = (s.entry i).map Entry.unparted := by
  unfold offerLowest; split
  · dsimp only; split
    · show ((modEntry e _ s).entry i).map _ = _
      unfold modEntry; split
      · rfl
      · rename_i x hx
        by_cases h : i = e
        · subst h; rw [entry_setEntry_self, hx]; rfl
        · rw [entry_setEntry_ne h]
    · rfl
  · rfl
theorem foldl_unparted {α : Type} (f : State → α → State) (i) (hf : ∀ s a, ((f s a).entry i).map Entry.unparted = (s.entry i).map Entry.unparted) (l : List α) (s) :
    ((l.foldl f s).entry i).map Entry.unparted = (s.entry i).map Entry.unparted := by
  induction l generalizing s with
  | nil => rfl
  | cons a l ih => exact (ih _).trans (hf _ _)
theorem leaveControl_unparted (g) (s : State) (i) : ((leaveControl g s).entry i).map Entry.unparted = (s.entry i).map Entry.unparted := by
  unfold leaveControl; dsimp only; split
  · rfl
  · split
    · exact foldl_unparted _ i (fun u _ => foldl_unparted _ i (fun v e => offerLowest_unparted e v i) _ u) _ _
    · rfl

/-- An offer counts nothing. -/
theorem cnt_offerLowest {c : Counter} (e) (s : State) : (offerLowest e s).count c = s.count c := by
  unfold offerLowest; split
  · dsimp only; split
    · show (modEntry e _ s).count c = _
      unfold modEntry; split <;> rfl
    · rfl
  · rfl
theorem cnt_offerIssue {c : Counter} (e) (s : State) : (offerIssue e s).count c = s.count c := by
  unfold offerIssue
  have : ∀ (l : List Nat) s, (l.foldl (fun s _ => offerLowest e s) s).count c = s.count c := by
    intro l; induction l with
    | nil => intro _; rfl
    | cons a l ih => intro s; exact (ih _).trans (cnt_offerLowest e s)
  exact this _ _

/-- Entries that are alike without their part records. -/
theorem unparted_eq {x e : Entry} (h : Entry.unparted x = Entry.unparted e) : x = { e with store := { e.store with parts := x.store.parts } } := by
  have k1 : x = { e with store := x.store } := congrArg (fun y => ({ y with store := x.store } : Entry)) h
  have k2 : x.store.nextTag = e.store.nextTag := (congrArg (fun y : Entry => y.store.nextTag) h : (Entry.unparted x).store.nextTag = (Entry.unparted e).store.nextTag)
  have k3 : x.store.issue = e.store.issue := (congrArg (fun y : Entry => y.store.issue) h : (Entry.unparted x).store.issue = (Entry.unparted e).store.issue)
  have : x.store = { e.store with parts := x.store.parts } := by
    show x.store = ⟨e.store.nextTag, e.store.issue, x.store.parts⟩; rw [← k2, ← k3]
  rw [← this]; exact k1

/-- R104, R105: what issuing a grid does when a slot is FREE once the pending grid has been freed. -/
theorem issueGrid_spec {s : State} {i : EntryIx} {e : Entry} {b : BuiltGrid} {k : SlotIx} (he : s.entry i = some e)
   (hf : (match s.roleSlot i .rxPending with | some y => s.pool.set y none | none => s.pool)[k] = none)
   (hm : ∀ j : SlotIx, j < k → (match s.roleSlot i .rxPending with | some y => s.pool.set y none | none => s.pool)[j] ≠ none) :
   let freed := match s.roleSlot i .rxPending with | some y => s.pool.set y none | none => s.pool
   let tag := chooseTag e.store.nextTag (s.rxTags i)
   let t := issueGrid i b s
   EntryFrame s t ∧ t.pool = freed.set k (some { entry := i, role := .rxPending, grid :=
          { tag := tag, pair := b.pair, map := b.map, columns := b.columns.map some, rate := b.rate,
            issueTime := s.lineTime } }) ∧ (∀ c, t.count c = s.count c) ∧
   (∃ parts, t.entry i = some { e with store := { nextTag := tagAfter tag, issue := .sending, parts := parts } } ∧
     (PoolLawful s.pool → s.control.length ≤ 12 → b.columns.length ≤ 4 →
          (s.roleSlot i .rxPending = none → ∀ z ∈ s.control, z.partOf i = false) →
          t.control = s.control.filter (fun z => !z.partOf i) ++ (List.range b.columns.length).map (partEntry i tag) ∧
          parts = (List.range b.columns.length).map (fun n =>
            { index := Fin.ofNat 4 n, place := .onList, inFlight := false, attempts := 0 }) ∧
          ∀ j, j ≠ i → t.entry j = s.entry j)) := by
  dsimp only
  generalize hfr : (match s.roleSlot i .rxPending with | some y => s.pool.set y none | none => s.pool) = freed at *
  -- after the drop of the pending grid
  generalize hv : dropPending i s = v
  have hvp : v.pool = freed := by rw [← hv, ← hfr]; refine (dropPending_pool _ _).trans ?_; cases s.roleSlot i .rxPending <;> rfl
  have hvF : EntryFrame s v := by
    rw [← hv]; unfold dropPending; split
    · rename_i y _; have h0 : EntryFrame s (setSlot y none s) := rfl
      unfold endIssue; exact EntryFrame.leaveControl (EntryFrame.modEntry h0 _ _) _
    · exact EntryFrame.refl s
  have hvb : ∃ st, v.entry i = some { e with store := st } := by
    have : (v.entry i).map (fun x => { x with store := e.store }) = some e := by
      rw [← hv]; unfold dropPending; split
      · rename_i y _; unfold endIssue
        have h1 := leaveControl_unparted (ControlEntry.partOf i) (modEntry i (fun x => { x with store := { x.store with issue := .noIssue, parts := [] } }) (setSlot y none s)) i
        generalize leaveControl _ _ = w at *
        have h2 : (modEntry i (fun x => { x with store := { x.store with issue := .noIssue, parts := [] } }) (setSlot y none s)).entry i = some { e with store := { e.store with issue := .noIssue, parts := [] } } := by
          unfold modEntry; rw [show (setSlot y none s).entry i = some e from he]; exact entry_setEntry_self _ _ _
        rw [h2] at h1
        rcases hw : w.entry i with _ | x
        · rw [hw] at h1; simp at h1
        · rw [hw] at h1; simp only [Option.map_some, Option.some.injEq] at h1
          rw [unparted_eq h1]; rfl
      · rw [he]; rfl
    rcases hw : v.entry i with _ | x
    · rw [hw] at this; simp at this
    · rw [hw] at this; simp only [Option.map_some, Option.some.injEq] at this
      exact ⟨x.store, by rw [← this]⟩
  obtain ⟨st, hve⟩ := hvb
  have hvf : v.freeSlot = some k := by
    unfold State.freeSlot; rw [hvp]
    rw [List.find?_eq_some_iff_getElem]
    refine ⟨by simp [hf], k.val, by simp, by simp, fun j hlt => ?_⟩
    have := hm ⟨j, by omega⟩ (Fin.lt_def.2 hlt)
    simp at this ⊢; exact Option.isSome_iff_ne_none.2 this
  have hvc : ∀ c, v.count c = s.count c := by
    intro c; rw [← hv]; unfold dropPending; split
    · unfold endIssue; rw [cnt_leave]; unfold modEntry; split <;> rfl
    · rfl
  generalize hg : ({ tag := chooseTag e.store.nextTag (s.rxTags i), pair := b.pair, map := b.map, columns := b.columns.map some, rate := b.rate, issueTime := s.lineTime } : Grid) = g
  have hlt : v.lineTime = s.lineTime := by unfold EntryFrame at hvF; rw [hvF]
  generalize hw : (setEntry i (some { e with store := { nextTag := tagAfter (chooseTag e.store.nextTag (s.rxTags i)), issue := .sending, parts := newParts b.columns.length } }) (setSlot k (some { entry := i, role := .rxPending, grid := g }) v)) = w
  have hT : issueGrid i b s = offerIssue i w := by
    unfold issueGrid; rw [he]; dsimp only; rw [hv, hvf]; dsimp only
    unfold modEntry; rw [show (setSlot k _ v).entry i = v.entry i from rfl, hve]; dsimp only
    rw [← hw, hlt, ← hg]
  have hwe : w.entry i = some { e with store := { nextTag := tagAfter (chooseTag e.store.nextTag (s.rxTags i)), issue := .sending, parts := newParts b.columns.length } } := by rw [← hw]; exact entry_setEntry_self _ _ _
  have hwF : EntryFrame s w := by rw [← hw]; exact hvF.of rfl
  rw [hT]
  refine ⟨hwF.foldl _ (fun u _ => (EntryFrame.refl u).offerLowest i) _, ?_, ?_, ?_⟩
  · have : (offerIssue i w).pool = w.pool := foldl_pool _ (fun u _ => offerLowest_pool i u) _ _
    rw [this, ← hw]; show v.pool.set k _ = _; rw [hvp]
  · intro c; rw [cnt_offerIssue, ← hw]; exact hvc c
  · have hb := foldl_unparted (fun s _ => offerLowest i s) i (fun u _ => offerLowest_unparted i u i) (List.range 4) w
    have hb' : ((offerIssue i w).entry i).map Entry.unparted = (w.entry i).map Entry.unparted := hb
    rw [hwe] at hb'
    rcases hx : (offerIssue i w).entry i with _ | x
    · rw [hx] at hb'; simp at hb'
    · rw [hx] at hb'; simp only [Option.map_some, Option.some.injEq] at hb'
      refine ⟨x.store.parts, by rw [unparted_eq hb'], fun hp hc hk hz => ?_⟩
      have hvcl : v.control = s.control.filter (fun z => !z.partOf i) ∧ ∀ j, j ≠ i → v.entry j = s.entry j := by
        rw [← hv]; unfold dropPending; split
        · rename_i y _; rw [endIssue_eq (s := setSlot y none s) .noIssue he (by show s.control.length < 16; omega)]
          refine ⟨rfl, fun j hj => ?_⟩
          show (s.table.set i _)[j] = s.table[j]
          exact Vector.getElem_set_ne _ _ (by intro h; exact hj (Fin.ext h.symm))
        · rename_i hn
          refine ⟨(List.filter_eq_self.2 (by intro z hz2; rw [hz hn z hz2]; rfl)).symm, fun _ _ => rfl⟩
      have hwg : w.roleGrid i .rxPending = some g := by
        have hpk : w.pool[k] = some { entry := i, role := .rxPending, grid := g } := by rw [← hw]; show (v.pool.set k _)[k] = _; exact pool_set_self _ _ _
        have hrs : w.roleSlot i .rxPending = some k := by
          unfold State.roleSlot
          refine finRange_find_only ?_ fun j hj => ?_
          · rw [hpk]; simp
          · have : w.pool[j] = freed[j] := by rw [← hw]; show (v.pool.set k _)[j] = _; rw [pool_set_ne _ _ hj, hvp]
            rw [this, ← hfr]; clear this
            rcases hy : s.roleSlot i .rxPending with _ | y
            · dsimp only; rcases hq : s.pool[j] with _ | h
              · rfl
              · dsimp only; rw [Bool.and_eq_false_iff]
                by_cases heq : h.entry = i
                · right; have := roleSlot_none hy hq heq; simpa using this
                · left; simpa using heq
            · dsimp only; obtain ⟨g1, a1, a2, a3⟩ := roleSlot_some hy
              by_cases hjy : j = y
              · subst hjy; rw [pool_set_self]
              · rw [pool_set_ne _ _ hjy]; rcases hq : s.pool[j] with _ | h
                · rfl
                · dsimp only; rw [Bool.and_eq_false_iff]
                  by_cases heq : h.entry = i
                  · right; have := (hp j y h g1 hq a1 (heq.trans a2.symm)).1
                    simp; intro hr; exact hjy (this (hr.trans a3.symm))
                  · left; simpa using heq
        unfold State.roleGrid; rw [hrs]; dsimp only; rw [hpk]; rfl
      have hwc : w.control = v.control := by rw [← hw]; rfl
      have := offerIssue_eq hk hwe rfl hwg (by rw [hwc, hvcl.1]; intro z hz2; have := (List.mem_filter.1 hz2).2; simpa using this) (by rw [hwc, hvcl.1]; exact Nat.le_trans (List.length_filter_le _ _) hc)
      refine ⟨?_, ?_, fun j hj => ?_⟩
      · rw [this]; dsimp only; rw [hwc, hvcl.1, ← hg]
      · have h2 : (offerIssue i w).entry i = some { ({ e with store := { nextTag := tagAfter (chooseTag e.store.nextTag (s.rxTags i)), issue := .sending, parts := newParts b.columns.length } } : Entry) with store := { nextTag := tagAfter (chooseTag e.store.nextTag (s.rxTags i)), issue := .sending, parts := partsOffered b.columns.length 4 } } := by
          rw [this]; unfold State.entry; simp
        rw [hx] at h2; simp only [Option.some.injEq] at h2; rw [h2]; dsimp only; unfold partsOffered
        refine List.map_congr_left fun n hn => ?_
        simp at hn; rw [if_pos (by omega)]
      · rw [this]; unfold State.entry; dsimp only
        rw [show (w.table.set i _)[j] = w.table[j] from Vector.getElem_set_ne _ _ (by intro h; exact hj (Fin.ext h.symm))]
        show w.entry j = s.entry j; rw [← hvcl.2 j hj, ← hw]; exact entry_setEntry_ne hj _ _

/-! ### Aging (R63) -/

/-- R193: an increment of a counter as a number. -/
theorem satInc_toNat (x : BitVec 32) : (satInc x).toNat = min (2 ^ 32 - 1) (x.toNat + 1) := by
  unfold satInc; split
  · subst_vars; rfl
  · rename_i h
    have : x.toNat ≠ 4294967295 := fun hh => h (BitVec.eq_of_toNat_eq (by rw [hh]; rfl))
    have := x.isLt
    rw [BitVec.toNat_add]; simp; omega

/-- R201: the value of a counter after `n` increments. -/
theorem bumpBy_toNat (c : Counter) (n : Nat) (s : State) :
    ((bumpBy c n s).count c).toNat = min (2 ^ 32 - 1) ((s.count c).toNat + n) := by
  induction n generalizing s with
  | zero => have := (s.count c).isLt; unfold bumpBy; omega
  | succ n ih =>
    unfold bumpBy; rw [ih, cnt_self, satInc_toNat]; omega

/-- Two runs of increments are one. -/
theorem bumpBy_add (c : Counter) (m n : Nat) (s : State) : bumpBy c n (bumpBy c m s) = bumpBy c (m + n) s := by
  induction m generalizing s with
  | zero => rw [Nat.zero_add]; rfl
  | succ m ih => rw [Nat.succ_add]; exact ih _

/-- R63: a cell of an aged set. -/
theorem snr_age_at (x : SnrSet) (now : LineTime) (w : Pair → MainsSlot → Bool) (p : Pair) (m : MainsSlot) :
    (x.age now w)[p][m] = if w p m then x[p][m].age now else x[p][m] := by
  unfold SnrSet.age; simp

/-- R63: no cell of an aged set is old. -/
theorem snr_age_young (x : SnrSet) (now : LineTime) (p : Pair) (m : MainsSlot) : Cell.old now (x.age now fun _ _ => true)[p][m] = false := by
  rw [snr_age_at, if_pos rfl]; unfold Cell.age
  cases h : Cell.old now x[p][m] with
  | false => rw [if_neg (by simp)]; exact h
  | true => rw [if_pos rfl]; rfl

/-- R63, R74: what the aging of named cells leaves. -/
theorem ageCells_some {s : State} {i : EntryIx} {e : Entry} (w : Pair → MainsSlot → Bool) (he : s.entry i = some e) :
    ageCells i w s = bumpBy .cellsAged (e.snr.oldCount s.lineTime w) (setEntry i (some { e with snr := e.snr.age s.lineTime w }) s) := by
  unfold ageCells; rw [he]

/-- R63: an entry after the aging of its 18 cells. -/
theorem ageEntry_entry {s : State} {i : EntryIx} {e : Entry} (he : s.entry i = some e) :
    (ageEntry i s).entry i = some { e with snr := e.snr.age s.lineTime fun _ _ => true } := by
  unfold ageEntry; rw [ageCells_some _ he, bumpBy_eq]; exact entry_setEntry_self _ _ _

/-- R63: aging leaves the line time. -/
theorem ageEntry_time (i : EntryIx) (s : State) : (ageEntry i s).lineTime = s.lineTime := by
  unfold ageEntry ageCells; split
  · rfl
  · rw [bumpBy_eq]; rfl

/-- R63, R78: a trigger without an error cause ages the cells first. -/
theorem trigger_aged {s : State} {i : EntryIx} {e : Entry} {c : Causes} (he : s.entry i = some e) (hc : c.error = false) (hp : e.state.present = true) :
    trigger i c s = trigger i c (ageEntry i s) := by
  have h1 : (ageEntry i s).present i = true := by unfold State.present; rw [ageEntry_entry he]; exact hp
  have h0 : s.present i = true := by unfold State.present; rw [he]; exact hp
  have h2 : ageEntry i (ageEntry i s) = ageEntry i s := ageEntry_young (ageEntry_entry he) (by rw [ageEntry_time]; exact snr_age_young _ _)
  unfold trigger; rw [if_pos h0, if_pos h1]
  simp only [hc, Bool.false_eq_true, if_false, h2]

/-- R63: the aging of the entries in a list. -/
theorem ageEntries_eq (l : List EntryIx) (hn : l.Nodup) (s : State) :
    l.foldl (fun s i => ageEntry i s) s = bumpBy .cellsAged ((l.map fun i => ((s.entry i).map fun e => e.snr.oldCount s.lineTime fun _ _ => true).getD 0).sum)
      { s with table := Vector.ofFn fun i => if i ∈ l then (s.entry i).map fun e => { e with snr := e.snr.age s.lineTime fun _ _ => true } else s.entry i } := by
  induction l generalizing s with
  | nil =>
    simp only [List.foldl_nil, List.map_nil, List.sum_nil, List.not_mem_nil, if_false]
    show s = { s with table := _ }
    have : Vector.ofFn s.entry = s.table := by ext i hi; simp [State.entry]
    rw [show (fun i => s.entry i) = s.entry from rfl, this]
  | cons i l ih =>
    obtain ⟨hi, hl⟩ := List.nodup_cons.1 hn
    have hb : ∀ n, (bumpBy .cellsAged n s).entry = s.entry := by intro n; rw [bumpBy_eq]; rfl
    rw [List.foldl_cons, ih hl]
    rcases he : s.entry i with _ | e
    · have ha : ageEntry i s = s := by unfold ageEntry ageCells; rw [he]
      rw [ha]; simp only [List.map_cons, List.sum_cons, he, Option.map_none, Option.getD_none, Nat.zero_add]
      have hT : (Vector.ofFn fun j => if j ∈ l then (s.entry j).map fun e => { e with snr := e.snr.age s.lineTime fun _ _ => true } else s.entry j)
          = Vector.ofFn fun j => if j ∈ i :: l then (s.entry j).map fun e => { e with snr := e.snr.age s.lineTime fun _ _ => true } else s.entry j := by
        congr 1; funext j
        by_cases hj : j = i
        · subst hj; rw [if_neg hi, if_pos (by simp), he]; rfl
        · simp [hj]
      rw [hT]
    · have ha := ageCells_some (fun _ _ => true) he
      change ageEntry i s = _ at ha
      have hj : ∀ j, j ≠ i → (ageEntry i s).entry j = s.entry j := by
        intro j hj; rw [ha, bumpBy_eq]; exact entry_setEntry_ne hj _ _
      rw [ageEntry_time]
      have hsum : (l.map fun i_1 => (((ageEntry i s).entry i_1).map fun e => e.snr.oldCount s.lineTime fun _ _ => true).getD 0) =
          l.map fun i_1 => ((s.entry i_1).map fun e => e.snr.oldCount s.lineTime fun _ _ => true).getD 0 := by
        apply List.map_congr_left; intro j hjl; rw [hj j (by rintro rfl; exact hi hjl)]
      rw [hsum]
      simp only [List.map_cons, List.sum_cons, he, Option.map_some, Option.getD_some]
      have hT : (Vector.ofFn fun j => if j ∈ l then ((ageEntry i s).entry j).map fun e => { e with snr := e.snr.age s.lineTime fun _ _ => true } else (ageEntry i s).entry j)
          = Vector.ofFn fun j => if j ∈ i :: l then (s.entry j).map fun e => { e with snr := e.snr.age s.lineTime fun _ _ => true } else s.entry j := by
        congr 1; funext j
        by_cases hji : j = i
        · subst hji; rw [if_neg hi, ageEntry_entry he, if_pos (by simp), he]; rfl
        · rw [hj j hji]; simp [hji]
      rw [hT]
      generalize (Vector.ofFn fun j => if j ∈ i :: l then (s.entry j).map fun e => { e with snr := e.snr.age s.lineTime fun _ _ => true } else s.entry j) = T
      have hswap : ∀ n, ({ bumpBy .cellsAged n s with table := T } : State) = bumpBy .cellsAged n { s with table := T } := by
        intro n
        have : ∀ (n : Nat) (u : State), ({ bumpBy .cellsAged n u with table := T } : State) = bumpBy .cellsAged n { u with table := T } := by
          intro n; induction n with
          | zero => intro u; rfl
          | succ n ih => intro u; exact ih (bump .cellsAged u)
        exact this n s
      rw [← bumpBy_add]
      have : ({ bumpBy .cellsAged (e.snr.oldCount s.lineTime fun _ _ => true) (setEntry i (some { e with snr := e.snr.age s.lineTime fun _ _ => true }) s) with table := T } : State) = { bumpBy .cellsAged (e.snr.oldCount s.lineTime fun _ _ => true) s with table := T } := by
        generalize (e.snr.oldCount s.lineTime fun _ _ => true) = n
        have : ∀ (n : Nat) (u v : State), ({ u with table := T } : State) = { v with table := T } → ({ bumpBy .cellsAged n u with table := T } : State) = { bumpBy .cellsAged n v with table := T } := by
          intro n; induction n with
          | zero => intro u v h; exact h
          | succ n ih => intro u v h; exact ih _ _ (congrArg (bump .cellsAged) h)
        exact this n _ _ rfl
      refine congrArg (bumpBy .cellsAged _) ?_
      rw [ha]; refine Eq.trans ?_ (this.trans (hswap _))
      generalize hU : bumpBy .cellsAged (e.snr.oldCount s.lineTime fun _ _ => true) (setEntry i (some { e with snr := e.snr.age s.lineTime fun _ _ => true }) s) = U
      have hlt : s.lineTime = U.lineTime := by rw [← hU, bumpBy_eq]; rfl
      exact congrArg (fun lt => ({ U with table := T, lineTime := lt } : State)) hlt

/-- R63: the aging of every entry. -/
theorem ageAll_eq (s : State) : ageAll s = bumpBy .cellsAged (((List.finRange 24).map fun i => ((s.entry i).map fun e => e.snr.oldCount s.lineTime fun _ _ => true).getD 0).sum)
      { s with table := s.table.map fun x => x.map fun e => { e with snr := e.snr.age s.lineTime fun _ _ => true } } := by
  unfold ageAll; rw [ageEntries_eq _ (List.nodup_finRange 24)]
  have hT : (Vector.ofFn fun j => if j ∈ List.finRange 24 then (s.entry j).map fun e => { e with snr := e.snr.age s.lineTime fun _ _ => true } else s.entry j) =
      s.table.map fun x => x.map fun e => { e with snr := e.snr.age s.lineTime fun _ _ => true } := by
    refine Vector.ext fun i hi => ?_
    rw [Vector.getElem_ofFn, if_pos (List.mem_finRange _), Vector.getElem_map]; rfl
  rw [hT]

theorem bumpBy_heard (c n) (s : State) : (bumpBy c n s).heardEntries = s.heardEntries := by
  have h : (bumpBy c n s).entry = s.entry := funext fun i => bumpBy_entry ..
  unfold State.heardEntries; rw [h]

/-- R63, R140: the HEARD and LINKED entries once every entry is aged. -/
theorem ageAll_heard (s : State) : (ageAll s).heardEntries =
    s.heardEntries.map fun e => { e with snr := e.snr.age s.lineTime fun _ _ => true } := by
  have he : (ageAll s).entry = fun i => (s.entry i).map fun e => { e with snr := e.snr.age s.lineTime fun _ _ => true } := by
    funext i; rw [ageAll_eq, bumpBy_entry]; unfold State.entry; simp
  have hf : (List.finRange 24).filterMap (ageAll s).entry =
      ((List.finRange 24).filterMap s.entry).map fun e => { e with snr := e.snr.age s.lineTime fun _ _ => true } := by
    rw [he, List.map_filterMap]
  unfold State.heardEntries; rw [hf, List.filter_map]; rfl

/-- R140: what forming a NOTE does to the part: every entry is aged, and the entries past the 23rd are counted. -/
theorem gatherNote_eq (s : State) : gatherNote s = bumpBy .reachOverflow (s.heardEntries.length - 23) (bumpBy .cellsAged
    (((List.finRange 24).map fun i => ((s.entry i).map fun e => e.snr.oldCount s.lineTime fun _ _ => true).getD 0).sum)
    { s with table := s.table.map fun x => x.map fun e => { e with snr := e.snr.age s.lineTime fun _ _ => true } }) := by
  unfold gatherNote; dsimp only; rw [ageAll_heard, List.length_map, ageAll_eq]

/-- R140: the contents of a NOTE so formed. -/
theorem gatherNote_contents (s : State) : (gatherNote s).noteContents =
    { relay := s.settings.relay, bands := s.settings.bands
      items := (s.heardEntries.take 23).map fun e =>
        { addr := e.addr, rate := e.txRate, request := requestFor s.settings.pairs (e.snr.age s.lineTime fun _ _ => true) } } := by
  have hs : (gatherNote s).settings = s.settings := ((Inner.refl s).gatherControl .note).settings
  have hh : (gatherNote s).heardEntries = s.heardEntries.map fun e => { e with snr := e.snr.age s.lineTime fun _ _ => true } :=
    (bumpBy_heard ..).trans (ageAll_heard s)
  unfold State.noteContents; rw [hs, hh, ← List.map_take, List.map_map]; rfl

end Sys2Proof.Machine
end

