-- ==== Sys2Proof/Laws/Routes.lean ====
section
/-! SUPPORT. Routes and the address map: that the search for a via finds the best valid one (R136), and what the map learns and at which
index (R180). -/

namespace Sys2Proof.Machine

variable {table : Vector (Option Entry) 24} {rates : EntryIx → Nat}

/-! ### Vias (R136) -/

theorem viaRate_iff {p d : EntryIx} {r : Nat} : viaRate table rates p d = some r ↔ ViaValid table rates p d r := by
  unfold viaRate ViaValid Entry.onward
  constructor
  · intro h
    split at h
    · rename_i pe de hp hd
      split at h
      · rename_i hc
        split at h
        · cases h
        · rename_i items hi
          rw [Option.map_map] at h
          obtain ⟨x, hx, hr⟩ := Option.map_eq_some_iff.1 h
          exact ⟨hc.1, hc.2.2.2, pe, de, items, x, hp, hd, (present_iff _).1 hc.2.1, hc.2.2.1, hi, hx, hr.symm⟩
      · cases h
    · cases h
  · rintro ⟨hn, h0, pe, de, items, x, hp, hd, hs, hw, hi, hx, rfl⟩
    rw [hp, hd]; dsimp only
    rw [if_pos ⟨hn, (present_iff _).2 hs, hw, h0⟩, hi]; dsimp only
    rw [hx]; rfl

/-- The better of the best via so far and the next index. -/
def viaStep (table : Vector (Option Entry) 24) (rates : EntryIx → Nat) (d : EntryIx) (best : Option (EntryIx × Nat)) (p : EntryIx) :
    Option (EntryIx × Nat) :=
  match viaRate table rates p d with
  | none => best
  | some r =>
    match best with
    | none => some (p, r)
    | some b => if r > b.2 then some (p, r) else best

theorem viaStep_foldl (d : EntryIx) : ∀ (l : List EntryIx), l.Pairwise (· < ·) → ∀ best : Option (EntryIx × Nat),
    (∀ b, best = some b → ∀ p ∈ l, b.1 < p) →
    let out := l.foldl (viaStep table rates d) best
    (out = none ↔ best = none ∧ ∀ p ∈ l, viaRate table rates p d = none) ∧
    ∀ b, out = some b → (best = some b ∨ (b.1 ∈ l ∧ viaRate table rates b.1 d = some b.2)) ∧
      (∀ c, best = some c → c.2 < b.2 ∨ c = b) ∧
      ∀ p ∈ l, ∀ r, viaRate table rates p d = some r → r < b.2 ∨ (r = b.2 ∧ b.1 ≤ p)
  | [], _, best, _ => ⟨⟨fun h => ⟨h, by simp⟩, (·.1)⟩, fun b h => ⟨.inl h, fun c hc => .inr (Option.some.inj (hc.symm.trans h)), by simp⟩⟩
  | a :: l, hl, best, hb => by
    have hl := List.pairwise_cons.1 hl
    have hnext : ∀ b, viaStep table rates d best a = some b → ∀ p ∈ l, b.1 < p := by
      intro b h p hp
      unfold viaStep at h
      split at h
      · exact hb b h p (List.mem_cons_of_mem _ hp)
      · split at h
        · cases h; exact hl.1 p hp
        · split at h
          · cases h; exact hl.1 p hp
          · exact hb b h p (List.mem_cons_of_mem _ hp)
    have ih := viaStep_foldl d l hl.2 (viaStep table rates d best a) hnext
    dsimp only at ih ⊢
    rw [List.foldl_cons]
    refine ⟨?_, fun b ho => ?_⟩
    · rw [ih.1]; unfold viaStep
      cases h1 : viaRate table rates a d <;> cases best <;> simp [h1]
      split <;> simp
    · obtain ⟨h1, h2, h3⟩ := ih.2 b ho
      have hstep : ∀ r, viaRate table rates a d = some r → r < b.2 ∨ (r = b.2 ∧ b.1 ≤ a) := by
        intro r hr
        unfold viaStep at h1 h2
        rw [hr] at h1 h2
        cases best with
        | none =>
          rcases h2 (a, r) rfl with h | h
          · exact .inl h
          · subst h; exact .inr ⟨rfl, Nat.le_refl _⟩
        | some c =>
          dsimp only at h1 h2
          split at h2
          · rcases h2 _ rfl with h | h
            · exact .inl h
            · subst h; exact .inr ⟨rfl, Nat.le_refl _⟩
          · rename_i hc
            have hca := hb c rfl a (List.mem_cons_self ..)
            rcases h2 c rfl with h | h
            · left; omega
            · subst h
              rcases Nat.lt_or_ge r c.2 with h | h
              · exact .inl h
              · exact .inr ⟨by omega, Nat.le_of_lt hca⟩
      refine ⟨?_, ?_, ?_⟩
      · rcases h1 with h | h
        · unfold viaStep at h
          split at h
          · exact .inl h
          · split at h
            · cases h; exact .inr ⟨List.mem_cons_self .., ‹_›⟩
            · split at h
              · cases h; exact .inr ⟨List.mem_cons_self .., ‹_›⟩
              · exact .inl h
        · exact .inr ⟨List.mem_cons_of_mem _ h.1, h.2⟩
      · rintro c rfl
        unfold viaStep at h2
        split at h2
        · exact h2 c rfl
        · rename_i r _
          dsimp only at h2
          split at h2
          · rename_i hc
            rcases h2 _ rfl with h | h
            · exact .inl (Nat.lt_trans hc h)
            · exact .inl (h ▸ hc)
          · exact h2 c rfl
      · intro p hp r hr
        rcases List.mem_cons.1 hp with rfl | hp
        · exact hstep r hr
        · exact h3 p hp r hr

theorem bestVia_foldl (table : Vector (Option Entry) 24) (rates : EntryIx → Nat) (d : EntryIx) :
    bestVia table rates d = (List.finRange 24).foldl (viaStep table rates d) none := rfl

/-- R136: the search finds no via where none is valid. -/
theorem bestVia_none {d : EntryIx} : bestVia table rates d = none ↔ ∀ p r, ¬ViaValid table rates p d r := by
  have h := (viaStep_foldl (table := table) (rates := rates) d _ (finRange_sorted 24) none (by simp)).1
  rw [bestVia_foldl, h]
  constructor
  · intro h p r hv
    have := h.2 p (List.mem_finRange p)
    rw [viaRate_iff.2 hv] at this; cases this
  · intro h
    refine ⟨rfl, fun p _ => ?_⟩
    cases hr : viaRate table rates p d with
    | none => rfl
    | some r => exact absurd (viaRate_iff.1 hr) (h p r)

/-- R136: the search finds the best valid via. -/
theorem bestVia_some {d q : EntryIx} {rq : Nat} : bestVia table rates d = some (q, rq) ↔ ViaBest table rates q d rq := by
  have hs : ∀ q rq, bestVia table rates d = some (q, rq) → ViaBest table rates q d rq := by
    intro q rq ho
    have h := (viaStep_foldl (table := table) (rates := rates) d _ (finRange_sorted 24) none (by simp)).2 (q, rq) ho
    refine ⟨viaRate_iff.1 ?_, fun p r hv => h.2.2 p (List.mem_finRange p) r (viaRate_iff.2 hv)⟩
    rcases h.1 with h | h
    · cases h
    · exact h.2
  refine ⟨hs q rq, fun hb => ?_⟩
  cases ho : bestVia table rates d with
  | none => exact absurd hb.1 (bestVia_none.1 ho q rq)
  | some x =>
    obtain ⟨p, r⟩ := x
    have h1 := hs p r ho
    have a := h1.2 q rq hb.1
    have b := hb.2 p r h1.1
    have e1 : r = rq := by rcases a with a | a <;> rcases b with b | b <;> omega
    have e2 : p = q := by rcases a with a | a <;> rcases b with b | b <;> first | omega | exact Fin.le_antisymm a.2 b.2
    subst_vars; rfl

/-! ### The address map (R180) -/

/-- The older of the oldest so far and the next index, by their ages. -/
theorem oldest_foldl (age : MapIx → Nat) : ∀ (l : List MapIx), l.Pairwise (· < ·) → ∀ best : MapIx, (∀ p ∈ l, best < p) →
    let out := l.foldl (fun best i => if age i > age best then i else best) best
    (out = best ∨ out ∈ l) ∧ ∀ p, p = best ∨ p ∈ l → age p < age out ∨ (age p = age out ∧ out ≤ p)
  | [], _, best, _ => by simp
  | a :: l, hl, best, hb => by
    have hl := List.pairwise_cons.1 hl
    have hba := hb a (List.mem_cons_self ..)
    rw [List.foldl_cons]
    dsimp only
    by_cases hc : age a > age best
    · rw [if_pos hc]
      have ih := oldest_foldl age l hl.2 a hl.1
      refine ⟨.inr (ih.1.elim (fun h => by rw [h]; exact List.mem_cons_self ..) (List.mem_cons_of_mem _)), fun p hp => ?_⟩
      rcases hp with rfl | hp
      · have := ih.2 a (.inl rfl); omega
      · exact ih.2 p ((List.mem_cons.1 hp).imp id id)
    · rw [if_neg hc]
      have ih := oldest_foldl age l hl.2 best fun p hp => hb p (List.mem_cons_of_mem _ hp)
      refine ⟨ih.1.imp id (List.mem_cons_of_mem _), fun p hp => ?_⟩
      rcases hp with rfl | hp
      · exact ih.2 _ (.inl rfl)
      · rcases List.mem_cons.1 hp with rfl | hp
        · have := ih.2 best (.inl rfl)
          rcases this with h | h
          · left; omega
          · rcases Nat.lt_or_ge (age p) (age best) with h' | h'
            · left; omega
            · exact .inr ⟨by omega, Fin.le_of_lt (Fin.lt_of_le_of_lt h.2 hba)⟩
        · exact ih.2 p (.inr hp)

/-- R180: with every index held, the search finds the oldest entry. -/
theorem oldestMap_oldest {s : State} (hf : ∀ j : MapIx, s.addressMap[j] ≠ none) : s.MapOldest s.oldestMap := by
  let age := fun (k : MapIx) => ((s.addressMap[k]).map fun m => m.learned.dist s.lineTime).getD 0
  have hz : (List.finRange 128) = 0 :: (List.finRange 127).map Fin.succ := by rw [List.finRange_succ]
  have hp := List.pairwise_cons.1 (hz ▸ finRange_sorted 128)
  have o := oldest_foldl age _ hp.2 0 hp.1
  have ho : s.oldestMap = ((List.finRange 127).map Fin.succ).foldl (fun best i => if age i > age best then i else best) 0 := by
    show (List.finRange 128).foldl _ _ = _
    rw [hz, List.foldl_cons, if_neg (by exact Nat.lt_irrefl _)]
  dsimp only at o; rw [← ho] at o
  have hage : ∀ (k : MapIx) (x : MapEntry), s.addressMap[k] = some x → age k = x.learned.dist s.lineTime := fun k x h => by
    simp only [age, h, Option.map_some, Option.getD_some]
  cases hx : s.addressMap[s.oldestMap] with
  | none => exact absurd hx (hf _)
  | some x =>
    refine ⟨x, hx, fun j y hy => ?_⟩
    have := o.2 j (by have := List.mem_finRange j; rw [hz] at this; exact List.mem_cons.1 this)
    rwa [hage _ _ hx, hage _ _ hy] at this

/-- R180: there is one oldest entry. -/
theorem mapOldest_unique {s : State} {k l : MapIx} (hk : s.MapOldest k) (hl : s.MapOldest l) : k = l := by
  obtain ⟨x, hx, h1⟩ := hk
  obtain ⟨y, hy, h2⟩ := hl
  have a := h1 l y hy
  have b := h2 k x hx
  rcases a with a | a <;> rcases b with b | b <;> first | omega | exact Fin.le_antisymm a.2 b.2

/-- R180: with every index held, the oldest entry is the one the search finds. -/
theorem oldestMap_eq {s : State} {k : MapIx} (h : s.MapOldest k) (hf : ∀ j : MapIx, s.addressMap[j] ≠ none) : s.oldestMap = k :=
  mapOldest_unique (oldestMap_oldest hf) h

/-- R180: the index that an address is found at. -/
theorem findDevice_some {s : State} {a : Addr} {k : MapIx} : s.findDevice a = some k ↔
    (s.addressMap[k]).map (·.device) = some a ∧ ∀ j : MapIx, j < k → (s.addressMap[j]).map (·.device) ≠ some a := by
  unfold State.findDevice
  rw [List.find?_eq_some_iff_getElem]
  constructor
  · rintro ⟨h1, n, hn, rfl, h2⟩
    rw [List.getElem_finRange] at h1 ⊢
    refine ⟨by simpa using h1, fun j hj => ?_⟩
    have := h2 j.val hj
    rw [List.getElem_finRange] at this
    simpa using this
  · rintro ⟨h1, h2⟩
    refine ⟨by simpa using h1, k.val, by simp, by rw [List.getElem_finRange]; rfl, fun j hj => ?_⟩
    have := h2 ⟨j, by omega⟩ hj
    rw [List.getElem_finRange]
    simpa using this

/-- R180: the one index that learning writes. -/
theorem learnMap_index (a : Addr) (g : MapTarget) (s : State) : ∃ k : MapIx,
    (learnMap a g s).addressMap = s.addressMap.set k (some { device := a, target := g, learned := s.lineTime }) ∧
    (s.findDevice a = some k ∨ (s.findDevice a = none ∧
      (s.addressMap[k] = none ∨ ((∀ j : MapIx, s.addressMap[j] ≠ none) ∧ s.MapOldest k)))) := by
  unfold learnMap; dsimp only
  cases hd : s.findDevice a with
  | some k => exact ⟨k, by dsimp only; split <;> rfl, .inl rfl⟩
  | none =>
    cases hk : (List.finRange 128).find? fun i => s.addressMap[i].isNone with
    | some k => exact ⟨k, rfl, .inr ⟨rfl, .inl (by have := List.find?_some hk; simpa using this)⟩⟩
    | none =>
      have hf : ∀ j : MapIx, s.addressMap[j] ≠ none := fun j h => by
        have := List.find?_eq_none.1 hk j (List.mem_finRange j)
        rw [h] at this; exact this rfl
      exact ⟨s.oldestMap, rfl, .inr ⟨rfl, .inr ⟨hf, oldestMap_oldest hf⟩⟩⟩

/-- R180: what the map learns. -/
theorem learnMap_learnt (a : Addr) (g : MapTarget) (s : State) : s.Learnt (learnMap a g s) a g := by
  refine ⟨fun k x hk hx => ?_, fun k hk hn hj => ?_, fun k hk hf ho => ?_⟩
  · unfold learnMap; rw [hk]; dsimp only; rw [hx, Option.map_some]
    by_cases ht : x.target = g
    · rw [if_pos ht, if_neg (by simp [ht])]; exact ⟨rfl, rfl, rfl⟩
    · rw [if_neg ht, if_pos (by simpa using ht)]; exact ⟨rfl, cnt_self _ _, cnt_bump (by decide) _⟩
  · have hf : ((List.finRange 128).find? fun i => s.addressMap[i].isNone) = some k := by
      rw [List.find?_eq_some_iff_getElem]
      refine ⟨by rw [hn]; rfl, k.val, by simp, by simp, fun j hj' => ?_⟩
      have := hj ⟨j, by omega⟩ hj'
      rw [List.getElem_finRange]
      cases hc : s.addressMap[(⟨j, by omega⟩ : MapIx)] with
      | none => exact absurd hc this
      | some z => simp only [Fin.cast_mk, hc]; rfl
    unfold learnMap; rw [hk]; dsimp only; rw [hf]; exact ⟨rfl, rfl, rfl⟩
  · have hn : ((List.finRange 128).find? fun i => s.addressMap[i].isNone) = none := by
      rw [List.find?_eq_none]; intro i _ hi
      exact hf i (Option.isNone_iff_eq_none.1 hi)
    unfold learnMap; rw [hk]; dsimp only; rw [hn]; dsimp only
    rw [oldestMap_eq ho hf]
    exact ⟨rfl, cnt_bump (by decide) _, cnt_self _ _⟩

/-- What is learned is the same from a state with the same map, line time and counts, and into one. -/
theorem State.Learnt.congr {s u t v : State} {a : Addr} {g : MapTarget} (h : s.Learnt t a g) (hm : u.addressMap = s.addressMap)
    (hl : u.lineTime = s.lineTime) (hc : ∀ c, c = .addressMoves ∨ c = .mapReplacements → u.count c = s.count c)
    (hv : v.addressMap = t.addressMap) (hw : ∀ c, c = .addressMoves ∨ c = .mapReplacements → v.count c = t.count c) :
    u.Learnt v a g := by
  have hd : u.findDevice a = s.findDevice a := by unfold State.findDevice; rw [hm]
  unfold State.Learnt State.MapOldest at *
  rw [hd, hm, hl, hc _ (.inl rfl), hc _ (.inr rfl), hv, hw _ (.inl rfl), hw _ (.inr rfl)]
  exact h

end Sys2Proof.Machine
end

