-- ==== Sys2Proof/Laws/Outcomes.lean ====
section
/-! SUPPORT. Outcomes: the conditions under which the part's own events are due, read from the code; what the response outcomes, a
delivery, the composition of a DATA frame, the offering of parts, a removal and a sound request leave alone, and what they depend on. -/

namespace Sys2Proof.Machine

/-! ### Events that are due (R36, R131, R181) -/

theorem mem_dueIf (b : Bool) (c d : Instr) : c ∈ dueIf b d ↔ b = true ∧ c = d := by
  unfold dueIf; cases b <;> simp

/-- R131: the aging instant of an entry, by its state; the three spans are variables, so that no large numeral is unfolded. -/
theorem agingInstant_iff (y : Entry) (now : LineTime) (n1 n2 n3 : Nat) :
    ((match y.state with
      | .heard | .linked => y.lastHeard.map fun t => t.plus n1
      | .stale => y.lastHeard.map fun t => t.plus n2
      | .remote => y.lastNamed.map fun t => t.plus n3) == some now) = true ↔
    (((y.state = .heard ∨ y.state = .linked) ∧ ∃ t, y.lastHeard = some t ∧ now = t.plus n1) ∨
      (y.state = .stale ∧ ∃ t, y.lastHeard = some t ∧ now = t.plus n2) ∨
      (y.state = .remote ∧ ∃ t, y.lastNamed = some t ∧ now = t.plus n3)) := by
  rcases y with ⟨_, st, lh, _, _, _, _, _, _, _, _, _, ln, _⟩
  simp only []
  cases st <;> cases lh <;> cases ln <;> simp <;> exact eq_comm

/-- R181: the aging instant of an address map entry; the span is a variable, so that no large numeral is unfolded. -/
theorem mapInstant_iff (o : Option MapEntry) (now : LineTime) (n : Nat) :
    ((o.map fun m => m.learned.plus n) == some now) = true ↔ ∃ m, o = some m ∧ now = m.learned.plus n := by
  cases o <;> simp; exact eq_comm

/-! ### The in-flight record under a received response (R33, R81, R133, R134) -/

theorem bumpBy_inFlight (c : Counter) (n) (s : State) : (bumpBy c n s).inFlight = s.inFlight := by rw [bumpBy_eq]

theorem modEntry_inFlight (i f) (s : State) : (modEntry i f s).inFlight = s.inFlight := by
  unfold modEntry; split <;> rfl

theorem ageEntry_inFlight (i) (s : State) : (ageEntry i s).inFlight = s.inFlight := by
  unfold ageEntry ageCells; split
  · rfl
  · rw [bumpBy_inFlight]; rfl

theorem startBuild_inFlight (i c) (s : State) : (startBuild i c s).inFlight = s.inFlight := by
  have h := ageEntry_inFlight i s
  unfold startBuild; dsimp only; split
  · exact h
  · split <;> exact h

theorem boostUp_inFlight (i) (s : State) : (boostUp i s).inFlight = s.inFlight := by
  unfold boostUp; simp [modEntry_inFlight]

theorem trigger_inFlight (i c) (s : State) : (trigger i c s).inFlight = s.inFlight := by
  unfold trigger; split
  · dsimp only
    have : (ageEntry i (if c.error then boostUp i s else s)).inFlight = s.inFlight := by
      rw [ageEntry_inFlight]; split
      · exact boostUp_inFlight _ _
      · rfl
    split
    · rw [startBuild_inFlight, this]
    · simp [modEntry_inFlight, this]
    · exact this
  · rfl

theorem receiverOutcome_inFlight (w r) (s : State) : (receiverOutcome w r s).inFlight = s.inFlight := by
  unfold receiverOutcome; split
  · split <;> rfl
  · next i _ =>
    dsimp only
    have k : (holdByStatus i w.kind r.status (clearStreak i s)).inFlight = s.inFlight := by
      have h0 : (clearStreak i s).inFlight = s.inFlight := modEntry_inFlight _ _ _
      unfold holdByStatus; split
      · unfold clearHold; split
        · exact h0
        · split
          · rw [recompute_inFlight]; exact h0
          · exact h0
      · split
        · unfold setHold; split
          · exact h0
          · dsimp only; split
            · exact h0
            · rw [recompute_inFlight]; exact h0
        · exact h0
      · exact h0
      · exact h0
    split
    · unfold capConflictReceived; dsimp only; split
      · rw [trigger_inFlight, modEntry_inFlight, k]
      · rw [modEntry_inFlight, k]
    · exact k
/-! ### Delivery (R161, R162) -/

theorem admission_table (f : HostFrame) (s : State) : (admission f s).2.table = s.table := by
  unfold admission; dsimp only; split
  · rfl
  · split <;> rfl

theorem learnMap_table (a t) (s : State) : (learnMap a t s).table = s.table := by
  unfold learnMap; dsimp only; split
  · split <;> rfl
  · split <;> rfl

theorem inspect_table (j) (s : State) : (inspect j s).table = s.table := by
  unfold inspect; dsimp only; split
  · split
    · rfl
    · split
      · unfold deliver; dsimp only; split
        · exact learnMap_table _ _ _
        · rfl
      · unfold relay; split
        · have := admission_table (f := { id := 0, origin := addrAt 0 j.bytes, final := addrAt 6 j.bytes, hop := 1, queue := ⟨(byteAt 13 j.bytes).toNat - 1, by omega⟩, eth := j.bytes.drop 16, expiry := 0#32 }) s
          split
          · next s' h => rw [h] at this; exact this
          · next s' h => rw [h] at this; exact this
        · rfl
  · rfl

theorem joinTo_reorder (r : RxState) (j l c) : (r.joinTo j l c).rx.reorder = r.reorder ∧ (r.joinTo j l c).rx.expected = r.expected := by
  unfold RxState.joinTo; repeat' split
  all_goals exact ⟨rfl, rfl⟩

theorem feed_reorder (r : RxState) (x) : (r.feed x).rx.reorder = r.reorder ∧ (r.feed x).rx.expected = r.expected := by
  unfold RxState.feed; dsimp only
  repeat' split
  all_goals first | exact joinTo_reorder _ _ _ _ | exact ⟨rfl, rfl⟩

/-- The number of segments that the entry stores for reordering. -/
def storedCount (i : EntryIx) (s : State) : Nat := ((s.entry i).map fun e => e.rx.reorder.length).getD 0

theorem deliverOne_stored (i : EntryIx) (s : State) : deliverOne i s = s ∨ storedCount i (deliverOne i s) < storedCount i s := by
  unfold deliverOne
  cases he : s.entry i with
  | none => exact .inl rfl
  | some e =>
    dsimp only
    cases hq : e.rx.expected with
    | none => exact .inl rfl
    | some q =>
      dsimp only
      cases hx : e.rx.reorder.find? (fun x => x.seq == q) with
      | none => exact .inl rfl
      | some x =>
        dsimp only
        right
        have hl : (e.rx.reorder.filter fun y => y.seq != q).length < e.rx.reorder.length := by
          rw [List.length_filter_lt_length_iff_exists]
          exact ⟨x, List.mem_of_find?_eq_some hx, by simpa using List.find?_some hx⟩
        generalize hfd : RxState.feed _ x = fed
        have hr : fed.rx.reorder = e.rx.reorder.filter fun y => y.seq != q := by
          rw [← hfd]; exact (feed_reorder _ _).1
        have ht : ∀ u : State, u.table = s.table.set i (some { e with rx := fed.rx }) → storedCount i u < storedCount i s := by
          intro u hu
          unfold storedCount State.entry
          rw [hu]; have : s.table[i] = some e := he
          rw [this]
          have e1 : (s.table.set i (some { e with rx := fed.rx }))[i] = some { e with rx := fed.rx } := by simp
          rw [e1]; simp only [Option.map_some, Option.getD_some]; rw [hr]; exact hl
        have hb : (bumpOpt fed.count (setEntry i (some { e with rx := fed.rx }) s)).table = s.table.set i (some { e with rx := fed.rx }) := by
          unfold bumpOpt; split <;> rfl
        split
        · apply ht; rw [inspect_table]; exact hb
        · exact ht _ hb

/-- `deliverOne` applied a number of times. -/
def deliverTimes (i : EntryIx) : Nat → State → State
  | 0, s => s
  | n + 1, s => deliverTimes i n (deliverOne i s)

theorem deliverTimes_fix (i) (n) (s : State) (h : deliverOne i s = s) : deliverTimes i n s = s := by
  induction n with
  | zero => rfl
  | succ n ih => unfold deliverTimes; rw [h]; exact ih

theorem deliverTimes_more (i) : ∀ (b n : Nat) (s : State), storedCount i s ≤ b → b ≤ n → deliverTimes i n s = deliverTimes i b s := by
  intro b
  induction b with
  | zero =>
    intro n s h _
    rcases deliverOne_stored i s with k | k
    · exact deliverTimes_fix i n s k
    · omega
  | succ b ih =>
    intro n s h hn
    obtain ⟨m, rfl⟩ : ∃ m, n = m + 1 := ⟨n - 1, by omega⟩
    rcases deliverOne_stored i s with k | k
    · rw [deliverTimes_fix _ _ _ k, deliverTimes_fix _ _ _ k]
    · exact ih m _ (by omega) (by omega)

theorem deliverAll_times (i) (s : State) : deliverAll i s = deliverTimes i (storedCount i s) s := by
  unfold deliverAll storedCount
  generalize ((s.entry i).map fun e => e.rx.reorder.length).getD 0 = n
  have : ∀ (l : List Nat) (s : State), l.foldl (fun s _ => deliverOne i s) s = deliverTimes i l.length s := by
    intro l
    induction l with
    | nil => intro s; rfl
    | cons a l ih => intro s; exact ih _
  rw [this, List.length_range]

/-- R161: a delivery as far as the sequence goes is one delivery and then the same again. -/
theorem deliverAll_step (i) (s : State) : deliverAll i s = deliverAll i (deliverOne i s) := by
  rcases deliverOne_stored i s with k | k
  · rw [k]
  · rw [deliverAll_times, deliverAll_times]
    obtain ⟨m, hm⟩ : ∃ m, storedCount i s = m + 1 := ⟨storedCount i s - 1, by omega⟩
    rw [hm]; show deliverTimes i m _ = _
    exact deliverTimes_more i _ _ _ (Nat.le_refl _) (by omega)

/-! ### Offering parts when room appears (R105, R178) -/

theorem offerLowest_mac (m : Mac) (i) (s : State) : offerLowest i { s with mac := m } = { offerLowest i s with mac := m } := by
  unfold offerLowest
  show (match ((s.entry i).bind (·.store.lowestUnplaced)), s.roleGrid i .rxPending with | some p, some g => _ | _, _ => _) = _
  cases (s.entry i).bind (·.store.lowestUnplaced) with
  | none => rfl
  | some p =>
    cases s.roleGrid i .rxPending with
    | none => rfl
    | some g =>
      dsimp only
      show (if s.controlTakes _ = true then _ else _) = _
      split
      · unfold modEntry
        show placeControl _ (match s.entry i with | none => _ | some e => _) = _
        cases s.entry i <;> rfl
      · rfl

theorem offerAll_mac (m : Mac) (s : State) : offerAll { s with mac := m } = { offerAll s with mac := m } := by
  unfold offerAll
  have h1 : ∀ (l : List EntryIx) (s : State), l.foldl (fun s e => offerLowest e s) { s with mac := m } =
      { l.foldl (fun s e => offerLowest e s) s with mac := m } := by
    intro l
    induction l with
    | nil => intro s; rfl
    | cons a l ih => intro s; simp only [List.foldl_cons, offerLowest_mac]; exact ih _
  have h2 : ∀ (l : List Nat) (s : State), l.foldl (fun s _ => (List.finRange 24).foldl (fun s e => offerLowest e s) s) { s with mac := m } =
      { l.foldl (fun s _ => (List.finRange 24).foldl (fun s e => offerLowest e s) s) s with mac := m } := by
    intro l
    induction l with
    | nil => intro s; rfl
    | cons a l ih => intro s; simp only [List.foldl_cons]; rw [h1]; exact ih _
  exact h2 _ _

/-- R105, R178: a quiet gap begun after an entry has left the control list. -/
theorem enterQuietGap_leaveControl (u : State) (gone : ControlEntry → Bool) (h : ∃ c ∈ u.control, gone c = true) :
    let left := { u with
      control := u.control.filter fun c => !gone c
      evalDue := true
      mac := { u.mac with state := .deferring, gap := some (.quiet (u.lineTime.plus 60)) } }
    enterQuietGap (leaveControl gone u) = if u.control.length < 16 then left else offerAll left := by
  obtain ⟨c, hc, hg⟩ := h
  have : (u.control.filter fun c => !gone c).length < u.control.length := by
    rw [List.length_filter_lt_length_iff_exists]
    exact ⟨c, hc, by simpa using hg⟩
  have hi := Inner.leaveControl gone (Inner.refl u)
  unfold enterQuietGap
  rw [hi.lineTime]
  unfold modMac
  rw [hi.mac]
  unfold leaveControl
  simp only []
  rw [if_neg (by omega)]
  by_cases h : u.control.length < 16
  · rw [if_pos h, if_neg (by omega)]; rfl
  · rw [if_neg h, if_pos (by omega)]
    have k := offerAll_mac { u.mac with state := .deferring, gap := some (.quiet (u.lineTime.plus 60)) } (markEval { u with control := u.control.filter fun c => !gone c })
    unfold markEval at k ⊢
    exact k.symm

/-! ### What leaves the control list, for every list (R105, R178) -/

theorem offerLowest_frame (e) (s : State) : offerLowest e s =
    { s with control := (offerLowest e s).control, table := (offerLowest e s).table, evalDue := (offerLowest e s).evalDue } := by
  unfold offerLowest; split
  · dsimp only; split
    · unfold modEntry; split <;> rfl
    · rfl
  · rfl

theorem offerLowest_congr {u v : State} (hc : u.control = v.control) (ht : u.table = v.table) (hp : u.pool = v.pool) (e) :
    (offerLowest e u).control = (offerLowest e v).control ∧ (offerLowest e u).table = (offerLowest e v).table := by
  have h1 : u.entry e = v.entry e := by unfold State.entry; rw [ht]
  have h2 : u.roleGrid e .rxPending = v.roleGrid e .rxPending := by unfold State.roleGrid; rw [roleSlot_congr hp, hp]
  have h3 : ∀ c, u.controlTakes c = v.controlTakes c := by intro c; unfold State.controlTakes; rw [hc]
  unfold offerLowest; rw [h1, h2]; split
  · dsimp only; rw [h3]; split
    · unfold modEntry; rw [h1]; unfold placeControl markEval setEntry; split
      · exact ⟨by rw [hc], ht⟩
      · exact ⟨by rw [hc], by rw [ht]⟩
    · exact ⟨hc, ht⟩
  · exact ⟨hc, ht⟩

/-- R105: an entry with no unplaced part is left by an offering as it is. -/
theorem offerLowest_placed (e) (s : State) (j : EntryIx) (h : ∀ x, s.entry j = some x → x.store.lowestUnplaced = none) :
    (offerLowest e s).entry j = s.entry j := by
  by_cases k : j = e
  · subst k; unfold offerLowest
    cases hx : s.entry j with
    | none => simpa using hx
    | some x => simp only [Option.bind_some]; rw [h x hx]; exact hx
  · unfold offerLowest; split
    · dsimp only; split
      · unfold modEntry; split
        · rfl
        · exact entry_setEntry_ne k _ _
      · rfl
    · rfl

/-- What holds of every offering holds of the offerings of `leaveControl`. -/
theorem leaveControl_induct {P : State → Prop} (g) (s : State) (h0 : P s) (h1 : P (markEval { s with control := s.control.filter fun c => !g c }))
    (ho : ∀ e u, P u → P (offerLowest e u)) : P (leaveControl g s) := by
  have hf : ∀ {α : Type} (f : State → α → State), (∀ u a, P u → P (f u a)) → ∀ (l : List α) u, P u → P (l.foldl f u) := by
    intro α f hf l
    induction l with
    | nil => exact fun u h => h
    | cons a l ih => exact fun u h => ih _ (hf u a h)
  unfold leaveControl; dsimp only; split
  · exact h0
  · split
    · exact hf _ (fun u _ h => hf _ (fun v e h => ho e v h) _ u h) _ _ h1
    · exact h1

/-- R178: what leaves the control list, and the parts that join it then, change the list, the part records and what is due. -/
theorem leaveControl_frame (g) (s : State) : leaveControl g s =
    { s with control := (leaveControl g s).control, table := (leaveControl g s).table, evalDue := (leaveControl g s).evalDue } := by
  refine leaveControl_induct (P := fun t => t = { s with control := t.control, table := t.table, evalDue := t.evalDue }) g s rfl rfl ?_
  intro e u h
  rw [offerLowest_frame e u]; rw [h]

/-- R178: the list and the part records left are formed from the list, the station table and the pool. -/
theorem leaveControl_congr {u v : State} (hc : u.control = v.control) (ht : u.table = v.table) (hp : u.pool = v.pool) (g) :
    (leaveControl g u).control = (leaveControl g v).control ∧ (leaveControl g u).table = (leaveControl g v).table := by
  have hf : ∀ {α : Type} (f : State → α → State),
      (∀ u v : State, ∀ a, u.control = v.control → u.table = v.table → u.pool = v.pool →
        (f u a).control = (f v a).control ∧ (f u a).table = (f v a).table ∧ (f u a).pool = (f v a).pool) →
      ∀ (l : List α) (u v : State), u.control = v.control → u.table = v.table → u.pool = v.pool →
        (l.foldl f u).control = (l.foldl f v).control ∧ (l.foldl f u).table = (l.foldl f v).table ∧ (l.foldl f u).pool = (l.foldl f v).pool := by
    intro α f hf l
    induction l with
    | nil => exact fun u v a b c => ⟨a, b, c⟩
    | cons x l ih => intro u v a b c; obtain ⟨a', b', c'⟩ := hf u v x a b c; exact ih _ _ a' b' c'
  unfold leaveControl; dsimp only; rw [hc]; split
  · exact ⟨hc, ht⟩
  · split
    · obtain ⟨a, b, _⟩ := hf (fun s (_ : Nat) => (List.finRange 24).foldl (fun s e => offerLowest e s) s)
        (fun u v _ a b c => hf (fun s e => offerLowest e s) (fun u v e a b c => by
          obtain ⟨h1, h2⟩ := offerLowest_congr a b c e
          refine ⟨h1, h2, ?_⟩
          rw [offerLowest_frame e u, offerLowest_frame e v]; exact c) _ u v a b c) (List.range 4)
        (markEval { u with control := v.control.filter fun c => !g c }) (markEval { v with control := v.control.filter fun c => !g c }) rfl ht hp
      exact ⟨a, b⟩
    · exact ⟨rfl, ht⟩

/-- R105, R178: an entry with no unplaced part is left as it is. -/
theorem leaveControl_placed (g) (s : State) (j : EntryIx) (h : ∀ x, s.entry j = some x → x.store.lowestUnplaced = none) :
    (leaveControl g s).entry j = s.entry j := by
  refine leaveControl_induct (P := fun t => t.entry j = s.entry j) g s rfl rfl ?_
  intro e u hu
  rw [offerLowest_placed e u j (by rw [hu]; exact h), hu]

/-- R105: an issue ends, for every control list. -/
theorem endIssue_left {s : State} {i : EntryIx} {e : Entry} (st : IssueState) (he : s.entry i = some e) :
    endIssue i st s = leaveControl (fun c => c.partOf i)
      { s with table := s.table.set i (some { e with store := { e.store with issue := st, parts := [] } }) } := by
  unfold endIssue modEntry; rw [he]; rfl

/-- R122, R132, R178: a removal leaves the other entries and the control list as the parts of the entry leave them. -/
theorem removeEntry_left {s : State} {i : EntryIx} {e : Entry} (he : s.entry i = some e) :
    (s.leftBy i).OthersKept (removeEntry i s) i ∧ (removeEntry i s).control = (s.leftBy i).control := by
  obtain ⟨d1, d2, d3, -, -⟩ := discardBuild_table i s
  obtain ⟨c, t⟩ := leaveControl_congr
    (u := { freeAllRoles i (setEntry i none (discardBuild i s)) with
        inFlight := (freeAllRoles i (setEntry i none (discardBuild i s))).inFlight.filter fun r => r.entry != i })
    (v := { s with table := s.table.set i none, pool := s.pool.map fun g => g.filter fun h => h.entry != i })
    d3 (by show (discardBuild i s).table.set _ _ = _; rw [d1])
    (by
      show (discardBuild i s).pool.map _ = s.pool.map _
      rw [d2]; congr 1; funext g
      cases g with
      | none => rfl
      | some g => simp only [Option.filter]; by_cases h : g.entry = i <;> simp [h]) (fun c => c.partOf i)
  have eq : removeEntry i s = recompute (markEval (forgetStation e.addr (leaveControl (fun c => c.partOf i)
      { freeAllRoles i (setEntry i none (discardBuild i s)) with
        inFlight := (freeAllRoles i (setEntry i none (discardBuild i s))).inFlight.filter fun r => r.entry != i }))) := by
    unfold removeEntry; rw [he]
  rw [eq]; unfold State.leftBy
  generalize leaveControl _ _ = u at c t ⊢
  generalize leaveControl _ _ = v at c t ⊢
  refine ⟨fun j _ => ?_, ?_⟩
  · rw [recompute_unrouted]; unfold State.entry; rw [← t]; rfl
  · rw [recompute_eq]; exact c

/-! ### A sound request (R67, R69) -/

/-- R67, R69: what a sound request leaves in the estimator and on the control list is formed from those two, the settings and the line time. -/
theorem soundRequested_congr {u v : State} (h1 : u.estimator = v.estimator) (h2 : u.control = v.control) (h3 : u.settings = v.settings)
    (h4 : u.lineTime = v.lineTime) (o : Option MainsSlot) (q : SoundRequest) :
    (soundRequested o q u).estimator = (soundRequested o q v).estimator ∧ (soundRequested o q u).control = (soundRequested o q v).control := by
  have place : ∀ a b : State, a.estimator = b.estimator → a.control = b.control → a.settings = b.settings → a.lineTime = b.lineTime →
      (wantAttempt a).estimator = (wantAttempt b).estimator ∧ (wantAttempt a).control = (wantAttempt b).control := by
    intro a b k1 k2 k3 k4
    have r : a.soundRested = b.soundRested := by unfold State.soundRested; rw [k1, k4]
    have t : ∀ c, a.controlTakes c = b.controlTakes c := by intro c; unfold State.controlTakes; rw [k2]
    unfold wantAttempt; rw [k1, r]; split
    · unfold placementAttempt; dsimp only; rw [k1, k3, t]; split
      · unfold placeControl markEval; dsimp only; rw [k2]; exact ⟨rfl, rfl⟩
      · unfold bump; dsimp only; rw [k4]; exact ⟨rfl, k2⟩
    · exact ⟨k1, k2⟩
  have raised : ∀ a : State, (wantsRaised o q a).estimator = { a.estimator with wants := raiseWants o q a.estimator.wants } ∧
      (wantsRaised o q a).control = a.control ∧ (wantsRaised o q a).settings = a.settings ∧ (wantsRaised o q a).lineTime = a.lineTime := by
    intro a; unfold wantsRaised; dsimp only; split <;> exact ⟨rfl, rfl, rfl, rfl⟩
  obtain ⟨a1, a2, a3, a4⟩ := raised u
  obtain ⟨b1, b2, b3, b4⟩ := raised v
  exact place _ _ (by rw [a1, b1, h1]) (by rw [a2, b2, h2]) (by rw [a3, b3, h3]) (by rw [a4, b4, h4])

/-! ### The counters of a composed DATA frame (R58, R123, R164) -/

theorem modTx_counters (i f) (s : State) : (modTx i f s).counters = s.counters := by
  unfold modTx; split
  · rfl
  · dsimp only; split <;> rfl

theorem takeHeads_counters (l : Loading) (cap : Nat) (q : QueueIx) (n : EntryIx) : ∀ (fuel : Nat) (t : Taking) (s : State),
    (takeHeads l cap q n fuel t s).2.counters = s.counters := by
  intro fuel
  induction fuel with
  | zero => intro t s; rfl
  | succ fuel ih =>
    intro t s
    unfold takeHeads; dsimp only
    split
    · rfl
    · split
      · rfl
      · split
        · split
          · rfl
          · split
            · exact modTx_counters _ _ _
            · rw [ih]; exact modTx_counters _ _ _
        · rfl

theorem takeOffered_counters (l cap n src m) (s : State) : (takeOffered l cap n src m s).2.counters = s.counters := by
  unfold takeOffered; dsimp only
  split
  · split
    · rfl
    · exact takeHeads_counters _ _ _ _ _ _ _
  · rfl

/-- R56, R58, R123, R164: what `countComposition` counts. -/
theorem countComposition_counts (s0 : State) (n : EntryIx) (start : LineTime) (l : Loading) (cap : Nat) (t : Taking) (s : State) :
    let u := countComposition s0 n start l cap t s
    let shortened := ∃ x, t.stopped = some x ∧ t.taken.length < 8 ∧ cap < t.bits + l.segmentBits x.len ∧
      t.bits + l.segmentBits x.len ≤ (l.symbolBits 96).sum
    (u.count .segmentsSent).toNat = min (2 ^ 32 - 1) ((s.count .segmentsSent).toNat + t.taken.countP fun x => x.attempts == 0) ∧
    (u.count .segmentsResent).toNat = min (2 ^ 32 - 1) ((s.count .segmentsResent).toNat + t.taken.countP fun x => x.attempts != 0) ∧
    u.count .floorFrames = (if l.isFloor = true then satInc (s.count .floorFrames) else s.count .floorFrames) ∧
    u.count .loadingFallbacks = (if l = .robust ∧ chooseLoading s0 n start ≠ .robust then satInc (s.count .loadingFallbacks)
      else s.count .loadingFallbacks) ∧
    (shortened → u.count .thermalShortening = satInc (s.count .thermalShortening)) ∧
    (¬shortened → u.count .thermalShortening = s.count .thermalShortening) ∧
    ∀ k, k ∉ [Counter.segmentsSent, .segmentsResent, .floorFrames, .loadingFallbacks, .thermalShortening] → u.count k = s.count k := by
  dsimp only
  have hn : t.taken.length - t.taken.countP (fun x => decide (x.attempts ≥ 1)) = t.taken.countP fun x => x.attempts == 0 := by
    have := List.length_eq_countP_add_countP (fun x : UnackedSegment => decide (x.attempts ≥ 1)) (l := t.taken)
    have e : (t.taken.countP fun x => x.attempts == 0) = t.taken.countP fun x => decide ¬(decide (x.attempts ≥ 1)) = true := by
      congr 1; funext x; cases x.attempts <;> simp
    omega
  have hr : t.taken.countP (fun x => decide (x.attempts ≥ 1)) = t.taken.countP fun x => x.attempts != 0 := by
    congr 1; funext x; cases x.attempts <;> simp
  unfold countComposition; dsimp only
  rw [hn, hr]
  generalize t.taken.countP (fun x => x.attempts == 0) = a
  generalize t.taken.countP (fun x => x.attempts != 0) = b
  clear hn hr
  have other : ∀ {c d : Counter}, d ∈ [Counter.segmentsSent, .segmentsResent, .floorFrames, .loadingFallbacks, .thermalShortening] → d ≠ c → d.index ≠ c.index := by
    intro c d hd hc
    simp only [List.mem_cons, List.not_mem_nil, or_false] at hd
    rcases hd with rfl | rfl | rfl | rfl | rfl <;> cases c <;> first | (exact absurd rfl hc) | decide | (rename_i p; revert p; decide) | (rename_i p; cases p <;> decide)
  obtain ⟨v, hv⟩ : ∃ v, v = bumpBy .segmentsResent b (bumpBy .segmentsSent a s) := ⟨_, rfl⟩
  obtain ⟨w, hw⟩ : ∃ w, w = if l.isFloor then bump .floorFrames v else v := ⟨_, rfl⟩
  obtain ⟨x, hx⟩ : ∃ x, x = if l = .robust ∧ chooseLoading s0 n start ≠ .robust then bump .loadingFallbacks w else w := ⟨_, rfl⟩
  rw [← hv, ← hw, ← hx]
  -- each counter apart
  have v1 : (v.count .segmentsSent).toNat = min (2 ^ 32 - 1) ((s.count .segmentsSent).toNat + a) := by
    rw [hv, cnt_bumpBy (by decide), bumpBy_toNat]
  have v2 : (v.count .segmentsResent).toNat = min (2 ^ 32 - 1) ((s.count .segmentsResent).toNat + b) := by
    rw [hv, bumpBy_toNat, cnt_bumpBy (by decide)]
  have v3 : ∀ k, Counter.segmentsSent.index ≠ k.index → Counter.segmentsResent.index ≠ k.index → v.count k = s.count k := by
    intro k h1 h2; rw [hv, cnt_bumpBy h2, cnt_bumpBy h1]
  have w1 : ∀ k, Counter.floorFrames.index ≠ k.index → w.count k = v.count k := by
    intro k h; rw [hw]; split
    · exact cnt_bump h _
    · rfl
  have w2 : w.count .floorFrames = if l.isFloor = true then satInc (s.count .floorFrames) else s.count .floorFrames := by
    rw [hw, ← v3 .floorFrames (by decide) (by decide)]; split
    · exact cnt_self _ _
    · rfl
  have x1 : ∀ k, Counter.loadingFallbacks.index ≠ k.index → x.count k = w.count k := by
    intro k h; rw [hx]; split
    · exact cnt_bump h _
    · rfl
  have x2 : x.count .loadingFallbacks = if l = .robust ∧ chooseLoading s0 n start ≠ .robust then satInc (s.count .loadingFallbacks)
      else s.count .loadingFallbacks := by
    rw [hx, ← v3 .loadingFallbacks (by decide) (by decide), ← w1 .loadingFallbacks (by decide)]; split
    · exact cnt_self _ _
    · rfl
  have x3 : x.count .thermalShortening = s.count .thermalShortening := by
    rw [x1 _ (by decide), w1 _ (by decide), v3 _ (by decide) (by decide)]
  have fin : ∀ y : State, (∀ k, Counter.thermalShortening.index ≠ k.index → y.count k = x.count k) → ∀ A B : Prop, A → B →
    (y.count .segmentsSent).toNat = min (2 ^ 32 - 1) ((s.count .segmentsSent).toNat + a) ∧
    (y.count .segmentsResent).toNat = min (2 ^ 32 - 1) ((s.count .segmentsResent).toNat + b) ∧
    y.count .floorFrames = (if l.isFloor = true then satInc (s.count .floorFrames) else s.count .floorFrames) ∧
    y.count .loadingFallbacks = (if l = .robust ∧ chooseLoading s0 n start ≠ .robust then satInc (s.count .loadingFallbacks)
      else s.count .loadingFallbacks) ∧ A ∧ B ∧
    ∀ k, k ∉ [Counter.segmentsSent, .segmentsResent, .floorFrames, .loadingFallbacks, .thermalShortening] → y.count k = s.count k := by
    intro y hy A B hA hB
    refine ⟨?_, ?_, ?_, ?_, hA, hB, ?_⟩
    · rw [hy _ (by decide), x1 _ (by decide), w1 _ (by decide), v1]
    · rw [hy _ (by decide), x1 _ (by decide), w1 _ (by decide), v2]
    · rw [hy _ (by decide), x1 _ (by decide), w2]
    · rw [hy _ (by decide), x2]
    · intro k hk
      have ne : ∀ {d}, d ∈ [Counter.segmentsSent, .segmentsResent, .floorFrames, .loadingFallbacks, .thermalShortening] → d.index ≠ k.index := by
        intro d hd; exact other hd (fun e => hk (e ▸ hd))
      rw [hy _ (ne (by simp)), x1 _ (ne (by simp)), w1 _ (ne (by simp)), v3 _ (ne (by simp)) (ne (by simp))]
  cases hs : t.stopped with
  | none =>
    dsimp only
    refine fin x (fun _ _ => rfl) _ _ ?_ ?_
    · rintro ⟨z, hz, _⟩; cases hz
    · intro _; exact x3
  | some z =>
    dsimp only
    have cond : (t.taken.length < Config.maxSegments ∧ cap < t.bits + l.segmentBits z.len ∧ t.bits + l.segmentBits z.len ≤ l.capacity Config.maxSymbols) ↔
      ∃ x, some z = some x ∧ t.taken.length < 8 ∧ cap < t.bits + l.segmentBits x.len ∧ t.bits + l.segmentBits x.len ≤ (l.symbolBits 96).sum := by
      constructor
      · intro h; exact ⟨z, rfl, h⟩
      · rintro ⟨x, e, h⟩; cases e; exact h
    split
    · next h =>
      refine fin _ (fun k hk => cnt_bump hk _) _ _ ?_ ?_
      · intro _; rw [cnt_self, x3]
      · intro h2; exact absurd (cond.1 h) h2
    · next h =>
      refine fin _ (fun _ _ => rfl) _ _ ?_ ?_
      · intro h2; exact absurd (cond.2 h2) h
      · intro _; exact x3

/-- R150: the counters of the composition of a DATA frame, from the state the segments are taken in. -/
theorem composeData_counters {s : State} {n : EntryIx} {source : Option QueueIx} {prio : Fin 4} {limit len : Nat} {e : Entry} (he : s.entry n = some e)
    {r : Taking × State} {l : Loading} (hl : l = (chooseLoading s n s.lineTime).fallback len)
    (hr : takeOffered l (l.capacity limit) n source e.tx.marked s = r) {f : TxFrame} {t : State}
    (h : composeData n source prio limit len s = some (f, t)) :
    ∃ u : State, u.counters = s.counters ∧ t = countComposition s n s.lineTime l (l.capacity limit) r.1 u := by
  have k : r.2.counters = s.counters := by rw [← hr]; exact takeOffered_counters _ _ _ _ _ _
  unfold composeData at h; dsimp only at h; rw [he] at h; dsimp only at h; unfold State.loadingFor at h; rw [← hl, hr] at h
  split at h
  · cases h
  · split at h
    · cases h
    · injection h with h; injection h with _ h
      refine ⟨_, ?_, h.symm⟩; exact (modTx_counters _ _ _).trans k

end Sys2Proof.Machine
end

