-- ==== Sys2Proof/WellFormed.lean ====
section
/-! DEFINITION. Well-formed commands: the operands that hardware can bring. `exec` is total on all commands (assumption log 31
says how it reads operands that fail these checks). -/

namespace Sys2Proof

/-- R38: a preamble is detected between 8 µs and 24 µs after the transmitter's frame start. -/
def wfDelay (delay : Nat) : Bool := decide (8 ≤ delay ∧ delay ≤ 24)

/-- R20: an energy for each carrier of each pair. -/
def wfEnergies (e : List (List Nat)) : Bool := e.length == 3 && e.all fun x => x.length == Config.carriers

/-- R19: soft values for each carrier of each symbol, at most `n` to a carrier. -/
def wfSymbols (n : Nat) (symbols : List (List (List Int))) : Bool :=
  symbols.all fun x => x.length == Config.carriers && x.all fun v => decide (v.length ≤ n)

/-- R21, R24, R210: a header is four robust symbols, which hold its 24 bytes. -/
def wfHeader : Demodulated → Bool
  | .soft symbols => symbols.length == 4 && wfSymbols 2 symbols
  | .decoded b => b.length == 24

/-- R23: the header is demodulated on every pair that detected the preamble: at least one copy, each pair once, in pair
order. -/
def wfCopies (copies : List (Pair × Demodulated)) : Bool :=
  !copies.isEmpty && copies.all (fun c => wfHeader c.2) &&
    decide ((copies.map (·.1)).Pairwise (· < ·))

/-- R21: a payload is at most 96 symbols, and on the densest grid a symbol carries 7,680 coded bits at rate 3/4. -/
def wfPayload : Demodulated → Bool
  | .soft symbols => decide (symbols.length ≤ 96) && wfSymbols 10 symbols
  | .decoded b => decide (b.length ≤ 96 * 720)

/-- R36, R61: the readings of a SOUND are at most 24 symbols of 768 carriers each. -/
def wfReadings (r : List (List Int)) : Bool :=
  decide (r.length ≤ 24) && r.all (fun x => x.length == Config.carriers)

/-- R204: the loader reads memory bytes 0..99. -/
def wfMemory (m : List Byte) : Bool := m.length == 100

/-- The operand checks, command by command. -/
def Instr.wellFormed : Instr → Bool
  | .frameStart _ b => wfDelay b.delay && wfEnergies b.energies
  | .headerEvent copies => wfCopies copies
  | .frameEnd payload readings => wfPayload payload && wfReadings readings
  | .loadCompletion memory => wfMemory memory
  | .zcCrossing | .referenceDrop | .windowExpiry | .freeRunSynthetic | .signalSlotEnd | .toneHeard
  | .contentionSlotEnd _ | .soundPayloadStart | .sentFrameEnd | .gapDeadline | .toneWatchEnd | .responseDeadline
  | .respStart | .respFrameEnd | .dutyBoundary _ | .soundDeadline | .sound20msPoint | .soundSlotEligible
  | .buildCompletion _ | .rebuildDeadline _ | .entryAgingDeadline _ | .holdExpiry _ | .noteDeadline | .frameExpiry _
  | .mapAging _ | .hostFrameReceived _ | .hostHoldEnd | .pauseRefresh | .hostTxDone _ | .status | .attentionClear
  | .counters | .countersClear | .stationTable | .windowRead | .addressMap | .configRead | .restart | .unknownRequest
  | .powerReset | .pinReset | .resetEnd _ | .listeningDeadline | .payloadSymbolStart => true

end Sys2Proof
end

