-- ==== Sys2Proof/Laws/PerInstr.lean ====
section
/-! SUPPORT. What well-formedness means, command by command. -/

namespace Sys2Proof.Laws.WellFormed

/-- Soft values for each of the 768 carriers of each symbol, at most `n` to a carrier. -/
def SymbolsAdmitted (n : Nat) (symbols : List (List (List Int))) : Prop :=
  ∀ x ∈ symbols, x.length = 768 ∧ ∀ v ∈ x, v.length ≤ n

/-- A header as demodulated. -/
def HeaderAdmitted : Demodulated → Prop
  | .soft symbols => symbols.length = 4 ∧ SymbolsAdmitted 2 symbols
  | .decoded b => b.length = 24

/-- A payload as demodulated. -/
def PayloadAdmitted : Demodulated → Prop
  | .soft symbols => symbols.length ≤ 96 ∧ SymbolsAdmitted 10 symbols
  | .decoded b => b.length ≤ 69120

theorem wfSymbols_iff (n : Nat) (x : List (List (List Int))) : wfSymbols n x = true ↔ SymbolsAdmitted n x := by
  simp [wfSymbols, SymbolsAdmitted, Config.carriers]

theorem wfHeader_iff (x : Demodulated) : wfHeader x = true ↔ HeaderAdmitted x := by
  cases x <;> simp [wfHeader, HeaderAdmitted, wfSymbols_iff]

theorem wfPayload_iff (x : Demodulated) : wfPayload x = true ↔ PayloadAdmitted x := by
  cases x <;> simp [wfPayload, PayloadAdmitted, wfSymbols_iff]

/-- The operands that hardware can bring with a command, as propositions. A command whose operands are only bits of its own width, or
bytes that the part itself tests, admits every value. -/
def Admitted : Instr → Prop
  | .frameStart _ b => (8 ≤ b.delay ∧ b.delay ≤ 24) ∧ b.energies.length = 3 ∧ ∀ x ∈ b.energies, x.length = 768
  | .headerEvent copies =>
    copies ≠ [] ∧ (∀ c ∈ copies, HeaderAdmitted c.2) ∧ (copies.map (·.1)).Pairwise (· < ·)
  | .frameEnd payload readings =>
    PayloadAdmitted payload ∧ readings.length ≤ 24 ∧ ∀ x ∈ readings, x.length = 768
  | .loadCompletion memory => memory.length = 100
  | .zcCrossing | .referenceDrop | .windowExpiry | .freeRunSynthetic | .signalSlotEnd | .toneHeard
  | .contentionSlotEnd _ | .soundPayloadStart | .sentFrameEnd | .gapDeadline | .toneWatchEnd | .responseDeadline
  | .respStart | .respFrameEnd | .dutyBoundary _ | .soundDeadline | .sound20msPoint | .soundSlotEligible
  | .buildCompletion _ | .rebuildDeadline _ | .entryAgingDeadline _ | .holdExpiry _ | .noteDeadline
  | .frameExpiry _ | .mapAging _ | .hostFrameReceived _ | .hostHoldEnd | .pauseRefresh | .hostTxDone _ | .status
  | .attentionClear | .counters | .countersClear | .stationTable | .windowRead | .addressMap | .configRead
  | .restart | .unknownRequest | .powerReset | .pinReset | .resetEnd _ | .listeningDeadline | .payloadSymbolStart => True

/-- A command passes the operand checks exactly when its operands are admitted. -/
def Statement (i : Instr) : Prop := i.wellFormed = true ↔ Admitted i

theorem zcCrossing : Statement .zcCrossing := iff_of_true rfl trivial
theorem referenceDrop : Statement .referenceDrop := iff_of_true rfl trivial
theorem windowExpiry : Statement .windowExpiry := iff_of_true rfl trivial
theorem freeRunSynthetic : Statement .freeRunSynthetic := iff_of_true rfl trivial
theorem frameStart (p : Pair) (b : Preamble) : Statement (.frameStart p b) := by
  simp [Statement, Admitted, Instr.wellFormed, wfDelay, wfEnergies, Config.carriers]
theorem headerEvent (copies : List (Pair × Demodulated)) : Statement (.headerEvent copies) := by
  simp [Statement, Admitted, Instr.wellFormed, wfCopies, wfHeader_iff, and_assoc]
theorem frameEnd (payload : Demodulated) (readings : List (List Int)) : Statement (.frameEnd payload readings) := by
  simp [Statement, Admitted, Instr.wellFormed, wfPayload_iff, wfReadings, Config.carriers]
theorem signalSlotEnd : Statement .signalSlotEnd := iff_of_true rfl trivial
theorem toneHeard : Statement .toneHeard := iff_of_true rfl trivial
theorem contentionSlotEnd (b : Bool) : Statement (.contentionSlotEnd b) := iff_of_true rfl trivial
theorem soundPayloadStart : Statement .soundPayloadStart := iff_of_true rfl trivial
theorem sentFrameEnd : Statement .sentFrameEnd := iff_of_true rfl trivial
theorem gapDeadline : Statement .gapDeadline := iff_of_true rfl trivial
theorem toneWatchEnd : Statement .toneWatchEnd := iff_of_true rfl trivial
theorem responseDeadline : Statement .responseDeadline := iff_of_true rfl trivial
theorem respStart : Statement .respStart := iff_of_true rfl trivial
theorem respFrameEnd : Statement .respFrameEnd := iff_of_true rfl trivial
theorem dutyBoundary (b : Bool) : Statement (.dutyBoundary b) := iff_of_true rfl trivial
theorem soundDeadline : Statement .soundDeadline := iff_of_true rfl trivial
theorem sound20msPoint : Statement .sound20msPoint := iff_of_true rfl trivial
theorem soundSlotEligible : Statement .soundSlotEligible := iff_of_true rfl trivial
theorem buildCompletion (e : EntryIx) : Statement (.buildCompletion e) := iff_of_true rfl trivial
theorem rebuildDeadline (e : EntryIx) : Statement (.rebuildDeadline e) := iff_of_true rfl trivial
theorem entryAgingDeadline (e : EntryIx) : Statement (.entryAgingDeadline e) := iff_of_true rfl trivial
theorem holdExpiry (e : EntryIx) : Statement (.holdExpiry e) := iff_of_true rfl trivial
theorem noteDeadline : Statement .noteDeadline := iff_of_true rfl trivial
theorem frameExpiry (id : Nat) : Statement (.frameExpiry id) := iff_of_true rfl trivial
theorem mapAging (i : MapIx) : Statement (.mapAging i) := iff_of_true rfl trivial
theorem hostFrameReceived (frame : List Byte) : Statement (.hostFrameReceived frame) := iff_of_true rfl trivial
theorem hostHoldEnd : Statement .hostHoldEnd := iff_of_true rfl trivial
theorem pauseRefresh : Statement .pauseRefresh := iff_of_true rfl trivial
theorem hostTxDone (b : Bool) : Statement (.hostTxDone b) := iff_of_true rfl trivial
theorem status : Statement .status := iff_of_true rfl trivial
theorem attentionClear : Statement .attentionClear := iff_of_true rfl trivial
theorem counters : Statement .counters := iff_of_true rfl trivial
theorem countersClear : Statement .countersClear := iff_of_true rfl trivial
theorem stationTable : Statement .stationTable := iff_of_true rfl trivial
theorem windowRead : Statement .windowRead := iff_of_true rfl trivial
theorem addressMap : Statement .addressMap := iff_of_true rfl trivial
theorem configRead : Statement .configRead := iff_of_true rfl trivial
theorem restart : Statement .restart := iff_of_true rfl trivial
theorem unknownRequest : Statement .unknownRequest := iff_of_true rfl trivial
theorem powerReset : Statement .powerReset := iff_of_true rfl trivial
theorem pinReset : Statement .pinReset := iff_of_true rfl trivial
theorem resetEnd (b : Bool) : Statement (.resetEnd b) := iff_of_true rfl trivial
theorem loadCompletion (memory : List Byte) : Statement (.loadCompletion memory) := by
  simp [Statement, Admitted, Instr.wellFormed, wfMemory]
theorem listeningDeadline : Statement .listeningDeadline := iff_of_true rfl trivial
theorem payloadSymbolStart : Statement .payloadSymbolStart := iff_of_true rfl trivial

end Sys2Proof.Laws.WellFormed
end

