-- ==== Sys2Proof/Laws/Reports.lean ====
section
/-! SUPPORT. The fields of a report (R210): where a field stands in a report that is put together of parts, and the lengths of the parts. -/

namespace Sys2Proof.Machine

/-- A vector of three as a list. -/
theorem toList_three {α} (v : Vector α 3) : v.toList = [v[0], v[1], v[2]] := by
  rcases v with ⟨⟨l⟩, h⟩
  match l, h with
  | [a, b, c], _ => rfl

/-- A vector of six as a list. -/
theorem toList_six {α} (v : Vector α 6) : v.toList = [v[0], v[1], v[2], v[3], v[4], v[5]] := by
  rcases v with ⟨⟨l⟩, h⟩
  match l, h with
  | [a, b, c, d, e, f], _ => rfl

/-- R210: a field of `n` bytes is `n` bytes long. -/
@[simp] theorem beBytes_length (n x : Nat) : (beBytes n x).length = n := by
  induction n generalizing x with
  | zero => rfl
  | succ n ih => simp [beBytes, ih]

/-- A field past the first part of a report is a field of the rest. -/
theorem carries_skip {A B : List Byte} {a n v : Nat} (h : A.length ≤ a) : Carries (A ++ B) a n v ↔ Carries B (a - A.length) n v := by
  unfold Carries; rw [List.drop_append, List.drop_eq_nil_of_le h, List.nil_append]

/-- A field past the first field of a report is a field of the rest. -/
theorem carries_be {B : List Byte} {m x a n v : Nat} (h : m ≤ a) : Carries (beBytes m x ++ B) a n v ↔ Carries B (a - m) n v := by
  rw [carries_skip (by simpa using h), beBytes_length]

/-- A field past the first byte of a report is a field of the rest. -/
theorem carries_cons {B : List Byte} {x : Byte} {a n v : Nat} : Carries (x :: B) (a + 1) n v ↔ Carries B a n v := by
  unfold Carries; rw [List.drop_succ_cons]

/-- A report that begins with a field carries it. -/
theorem carries_here {B : List Byte} {n v : Nat} : Carries (beBytes n v ++ B) 0 n v := by
  unfold Carries; simp

/-- A field carries its value. -/
theorem carries_end {n v : Nat} : Carries (beBytes n v) 0 n v := by
  unfold Carries; simp [List.take_of_length_le]

/-- A byte carries its value. -/
theorem carries_byte {B : List Byte} {b : Byte} : Carries (b :: B) 0 1 b.toNat := by
  unfold Carries; simp [beBytes]

/-- What the first part of a report carries, the report carries. -/
theorem carries_left {A B : List Byte} {a n v : Nat} (h : a + n ≤ A.length) (w : Carries A a n v) : Carries (A ++ B) a n v := by
  unfold Carries at *; rw [List.drop_append, List.take_append_of_le_length (by simp; omega)]; exact w

/-- A field that carries a value carries an equal one. -/
theorem carries_congr {A : List Byte} {a n v w : Nat} (h : v = w) (k : Carries A a n v) : Carries A a n w := h ▸ k

/-- The length of records of one length. -/
theorem flatMap_length {α} (f : α → List Byte) (k : Nat) (h : ∀ x, (f x).length = k) (l : List α) : (l.flatMap f).length = k * l.length := by
  induction l with
  | nil => simp
  | cons x l ih => rw [List.flatMap_cons, List.length_append, h, ih, List.length_cons, Nat.mul_succ]; omega

/-- A field of a record of one length, in a run of such records. -/
theorem carries_flat {α} (f : α → List Byte) (k : Nat) (h : ∀ x, (f x).length = k) (l : List α) (B : List Byte) (i : Nat) (x : α)
    (hx : l[i]? = some x) (a n v : Nat) (ha : a + n ≤ k) (w : Carries (f x) a n v) : Carries (l.flatMap f ++ B) (k * i + a) n v := by
  induction l generalizing i with
  | nil => simp at hx
  | cons y l ih =>
    rw [List.flatMap_cons, List.append_assoc]
    cases i with
    | zero => simp at hx; subst hx; rw [Nat.mul_zero, Nat.zero_add]; exact carries_left (by rw [h]; exact ha) w
    | succ i =>
      simp at hx
      rw [carries_skip (by rw [h, Nat.mul_succ]; omega), h]
      have : k * (i + 1) + a - k = k * i + a := by rw [Nat.mul_succ]; omega
      rw [this]; exact ih i hx

/-- R210: a band takes three bytes. -/
theorem bandBytes_length (b : Band) : (bandBytes b).length = 3 := by simp [bandBytes]

/-- A flag as a number. -/
theorem toNat_eq_if (b : Bool) : b.toNat = if b then 1 else 0 := by cases b <;> rfl

/-- A field past the first byte of a report is a field of the rest. -/
theorem carries_cons_skip {B : List Byte} {x : Byte} {a n v : Nat} (h : 1 ≤ a) : Carries (x :: B) a n v ↔ Carries B (a - 1) n v := by
  obtain ⟨a, rfl⟩ : ∃ b, a = b + 1 := ⟨a - 1, by omega⟩
  exact carries_cons

/-- A field at an equal place. -/
theorem carries_at {L : List Byte} {a b n v : Nat} (h : a = b) (w : Carries L b n v) : Carries L a n v := h ▸ w

/-- R210: a role record takes ten bytes. -/
theorem roleReport_length (s : State) (k i r) : (roleReport s k i r).length = 10 := by
  unfold roleReport
  cases h : s.roleSlot i r with
  | none => simp
  | some x => obtain ⟨g, hg, -⟩ := roleSlot_some h; simp [hg, timeBytes]

/-- R210: a line time takes four bytes. -/
theorem timeOr_length (s : State) (k o) : (s.timeOr k o).length = 4 := by cases o <;> simp [State.timeOr, timeBytes]

/-- R210: a sequence takes two bytes. -/
theorem seqOr_length (s : State) (k o) : (s.seqOr k o).length = 2 := by cases o <;> simp [State.seqOr]

/-- R98, R210: the build record takes six bytes. -/
theorem buildReport_length (s : State) (k b) : (buildReport s k b).length = 6 := by
  unfold buildReport; cases b.last <;> simp

/-- R210: the sample counts take 18 bytes. -/
theorem counts_length (x : SnrSet) : (x.toList.flatMap fun p => p.toList.map fun c => BitVec.ofNat 8 c.count).length = 18 := by
  rw [toList_three]; simp

/-- R165, R210: the segment state takes 15 bytes. -/
theorem segmentReport_length (s : State) (k e) : (segmentReport s k e).length = 15 := by
  unfold segmentReport; simp [seqOr_length]

/-- R210: a reach item takes nine bytes. -/
theorem reachItem_length (x : ReachItem) : (addrBytes x.addr ++ beBytes 3 x.rate).length = 9 := by simp [addrBytes]

/-- R210: the length of the two lists of a station's report. -/
theorem listsReport_length (e : Entry) : (listsReport e).length = 2 + 3 * (e.peerBands.getD []).length + 9 * (e.reach.getD []).length := by
  unfold listsReport; simp only [List.length_append, beBytes_length, flatMap_length _ _ bandBytes_length, flatMap_length _ _ reachItem_length]; omega

end Sys2Proof.Machine
end

