-- ==== Sys2Proof/Tests/Slice0.lean ====
section
/-! SUPPORT. Tests. The expected results of the worked ones are the manual's own worked examples, whose headings are named; the
witnesses show states that meet the hypotheses of the statements in Certificates/Slice0/Obligations.lean, clause by clause, at the ends of
their ranges. -/

namespace Sys2Proof.Tests

open Sys2Proof Sys2Proof.Machine

-- One evaluation at a time: each waits for the declarations before it, and many waiting at once would hold a thread each.
set_option Elab.async false

/-! ### Well-formed commands: one ill-formed term for each check -/

/-- The same energy on every carrier of every pair. -/
def energies (n : Nat) : List (List Nat) := List.replicate 3 (List.replicate 768 n)

/-- R38: 7 µs and 25 µs lie outside the detection range. R20: the energies of two pairs. -/
theorem test_delay_out_of_range :
    (Instr.frameStart 0 ⟨7, energies 1⟩).wellFormed = false ∧ (Instr.frameStart 0 ⟨25, energies 1⟩).wellFormed = false ∧
      (Instr.frameStart 0 ⟨8, energies 1⟩).wellFormed = true ∧ (Instr.frameStart 0 ⟨24, energies 1⟩).wellFormed = true ∧
      (Instr.frameStart 0 ⟨8, (energies 1).take 2⟩).wellFormed = false := by decide +kernel

/-- R23: no copy, a copy of 23 bytes, a pair named twice, and a copy of three symbols. -/
theorem test_copies_ill_formed :
    let zeros := fun n => Demodulated.decoded (List.replicate n 0#8)
    let soft := fun n => Demodulated.soft (List.replicate n (List.replicate 768 [1, -1]))
    (Instr.headerEvent []).wellFormed = false ∧
      (Instr.headerEvent [(0, zeros 23)]).wellFormed = false ∧
      (Instr.headerEvent [(1, zeros 24), (1, zeros 24)]).wellFormed = false ∧
      (Instr.headerEvent [(0, zeros 24), (2, zeros 24)]).wellFormed = true ∧
      (Instr.headerEvent [(0, soft 3)]).wellFormed = false ∧ (Instr.headerEvent [(0, soft 4)]).wellFormed = true := by
  decide +kernel

/-- R19: a symbol with the soft values of 767 carriers, and one with three on a carrier of the robust map. -/
theorem test_symbols_ill_formed :
    wfSymbols 2 [List.replicate 767 [1, 1]] = false ∧ wfSymbols 2 [List.replicate 768 [1, 1, 1]] = false := by decide +kernel

/-- R21: a payload longer than 96 of the densest symbols. -/
theorem test_payload_too_long : wfPayload (.decoded (List.replicate 69121 0#8)) = false := by
  show decide ((List.replicate 69121 0#8).length ≤ 96 * 720) = false
  rw [List.length_replicate]; decide

/-- R36, R61: 25 symbols of readings, and a symbol of 767 readings. -/
theorem test_readings_ill_formed :
    wfReadings (List.replicate 25 []) = false ∧ (Instr.frameEnd (.decoded []) [List.replicate 767 0]).wellFormed = false := by decide +kernel

/-- R204: 99 memory bytes. -/
theorem test_memory_too_short : (Instr.loadCompletion (List.replicate 99 0#8)).wellFormed = false := by decide +kernel

/-- No row of the table gives bits, so no word spells a command, and placing one leaves the queue as it is. -/
theorem test_no_word_spells_a_command :
    decodeTableWord 16 0x1234 = none ∧ (State.reset.withFetchWord 16 0x1234).pending = [] := by decide

/-! ### Worked examples of the manual -/

/-- "Worked sequence: lock, hold over, recover": the estimates of the edges from 21,000 to 81,018, and of the recovery edge. -/
theorem test_filter_worked :
    filterH 10020 9980 = 10010 ∧ filterH 10010 10010 = 10010 ∧ filterH 10010 10002 = 10008 ∧ filterH 10008 10001 = 10007 ∧
      filterH 10007 10002 = 10006 ∧ filterH 10006 10001 = 10005 ∧ filterH 10005 10002 = 10004 ∧ filterH 10004 10078 = 10022 := by
  decide

/-- The tracker record of the worked phase readings: LOCKED, last crossing 81,018, H 10,004. -/
def workedTracker : Tracker :=
  { state := .locked, h := some 10004, lastCrossing := some 81018#32, lastKind := .real, lastEdge := some 81018#32,
    lockCount := 8, missCount := 0, disturbedCount := 0 }

/-- "Worked phase readings": the phase fraction and slot at 86,000, 90,700 and 91,300, and the projected ones of symbols 0, 4 and 5. -/
theorem test_phase_worked :
    workedTracker.phase 86000#32 = 509 ∧ workedTracker.slot 86000#32 = 2 ∧ workedTracker.phase 90700#32 = 991 ∧
      workedTracker.phase 91300#32 = 1023 ∧ workedTracker.slot 91300#32 = 5 ∧ workedTracker.projectedPhase 90892#32 = 1010 ∧
      workedTracker.projectedPhase 91020#32 = 1023 ∧ workedTracker.projectedPhase 91052#32 = 3 ∧
      workedTracker.projectedSlot 91020#32 = 5 ∧ workedTracker.projectedSlot 91052#32 = 0 := by decide

/-- "Worked offset samples": the seven rows; "Worked translation": slot 1 with offset 4 is the peer's slot 3. -/
theorem test_offset_worked :
    offsetSample 700 20 = some 4 ∧ offsetSample 361 20 = some 2 ∧ offsetSample 703 20 = some 4 ∧ offsetSample 16 20 = some 0 ∧
      offsetSample 148 20 = some 1 ∧ offsetSample 147 20 = none ∧ offsetSample 105 20 = none ∧ toPeerSlot 4 1 = 3 ∧
      toOwnSlot 4 3 = 1 := by decide

/-- A column of `n` carriers at level 10 and the rest at 0: its sum is 10 n. -/
def tens (n : Nat) : Column := List.replicate n (7 : Level) ++ List.replicate (768 - n) 0

/-- A segment of 480 bytes on the unacked list. -/
def fullSegment (n : Nat) : UnackedSegment :=
  { seq := BitVec.ofNat 12 n, frameId := 0, piece := n, len := 480, attempts := 0, marked := false }

/-- "Worked capacity": 8 segments of 480 bytes, 41,984 coded bits: 18 symbols at 2,400, 24 across the slot boundary of the worked frame, 28
with the floor sum 1,500, and four segments in 82 symbols on the robust map. -/
theorem test_capacity_worked :
    let g : Grid := { tag := 1#8, pair := 0, map := #v[0, 0, 1, 0, 0, 0], columns := [some (tens 240), some (tens 160)],
                      rate := 0, issueTime := 0#32 }
    let l := Loading.perSlot g (slotColumns workedTracker 4 g 90700#32)
    let offered := (List.range 8).map fullSegment
    (takeSegments l (l.capacity 96) 0 0 offered).bits = 41984 ∧ leastSymbols 41984 (List.replicate 96 2400) = 18 ∧
      leastSymbols 41984 (l.symbolBits 96) = 24 ∧ leastSymbols 41984 (List.replicate 96 1500) = 28 ∧
      (takeSegments .robust (Loading.robust.capacity 96) 0 0 offered).taken.length = 4 ∧
      leastSymbols 31488 (Loading.robust.symbolBits 96) = 82 := by decide +kernel

/-- "One largest host frame": 16,918 coded bits grid-loaded, 25,376 on the robust map. -/
theorem test_largest_frame_worked :
    let g := Loading.floor { tag := 1#8, pair := 0, map := Vector.replicate 6 0, columns := [], rate := 0, issueTime := 0#32 }
    3 * g.segmentBits 480 + g.segmentBits 98 = 16918 ∧
      3 * Loading.robust.segmentBits 480 + Loading.robust.segmentBits 98 = 25376 := by decide

/-- "Worked averaging": the four single updates, and the third of the long run. -/
theorem test_averaging_worked :
    stepAverage 100 60 = 95 ∧ stepAverage 100 98 = 99 ∧ stepAverage 100 130 = 103 ∧ stepAverage (-30) (-32) = -31 ∧
      stepAverage 91 60 = 88 ∧ stepAverage 61 60 = 60 := by decide

/-- "Worked caps": carriers 410, 430, 500 and 605. -/
theorem test_caps_worked :
    let bands : List Band := [⟨400, 40, 6⟩, ⟨420, 100, 5⟩, ⟨600, 10, 0⟩]
    (capOf bands 100).bits = 10 ∧ (capOf bands 410).bits = 6 ∧ (capOf bands 430).bits = 4 ∧ (capOf bands 500).bits = 4 ∧
      (capOf bands 605).bits = 0 ∧ (capOf bands 700).bits = 10 := by decide

/-- "Worked levels": the effective figures of the three boosts. -/
theorem test_levels_worked :
    [126, 72, 46, 118, 64, 38, 94, 40, 14].map (fun e => (levelFor e).bits) = [8, 4, 3, 8, 4, 2, 6, 2, 0] := by decide

/-- "Worked merge and rate" and "Worked forced merge": the rates of the totals 25,550 and 12,400. -/
theorem test_rate_worked : rateOf 25550 = 99804 ∧ rateOf 12400 = 48437 := by decide

/-- R88, R89 on small columns: equal slots share a column, and a slot that shares nothing takes a new one. -/
theorem test_merge_small :
    (mergeSlots [[7, 0], [7, 0], [0, 7], [7, 0], [0, 7], [0, 0]]).map = [0, 0, 1, 0, 1, 2] := by decide

/-- "Worked sequence: route to a distant station": the via rates, and the three tests. -/
theorem test_via_worked :
    harmonic 80000 60000 = 34285 ∧ harmonic 50000 70000 = 29166 ∧ harmonic 80000 120000 = 48000 ∧
      beats 34285 20000 = true ∧ beats 48000 36000 = true ∧ beats 29166 34285 = false := by decide

/-- "Worked NOTE": 66 bytes in 3 symbols, 285 bytes in 12, and 8 bytes in 1. -/
theorem test_note_worked :
    noteLength 1 5 = 66 ∧ noteSymbols 1 5 = 3 ∧ noteLength 8 23 = 285 ∧ noteSymbols 8 23 = 12 ∧ noteSymbols 0 0 = 1 := by decide

/-- "Worked sequence: a hot line driver": the guard over b1 to b8 with hold periods 3. -/
theorem test_guard_worked :
    let run := [true, true, false, false, true, false, false, false].foldl
      (fun (x : Thermal × List Nat) hot => let t := x.1.sample hot 3; (t, x.2 ++ [t.holdCount])) (Thermal.reset, [])
    run.2 = [3, 3, 2, 1, 3, 2, 1, 0] ∧ run.1.limited = false := by decide

/-- "A hot line driver": the symbol limits of the four frames. -/
theorem test_symbol_limit_worked :
    [0, 768, 1536, 2304, 2944].map (fun used =>
      ({ State.reset with settings := { Settings.default with dutyPercent := 30 }
                          thermal := { Thermal.reset with limited := true, holdCount := 3, used := used } } : State).symbolLimit) =
      [some 87, some 63, some 39, some 15, none] := by decide +kernel

/-- "Worked window reads": the cell counts, and the walk of the band of a grid. -/
theorem test_window_worked :
    let whole : WindowRequest :=
      { source := .snr 1, index := 4, extentMode := false, order := ⟨true, false, false⟩, carrierStart := 0, carrierStop := 767,
        slotStart := 0, slotStop := 5, resume := 0 }
    let band : WindowRequest :=
      { source := .grid .rxCurrent, index := 3, extentMode := true, order := ⟨false, true, false⟩, carrierStart := 100,
        carrierStop := 299, slotStart := 2, slotStop := 9, resume := 0 }
    whole.clip.cells = 4608 ∧ whole.clip.at_ whole.order 1024 = (256, 1) ∧ whole.clip.at_ whole.order 3072 = (0, 4) ∧
      band.clip.cells = 1200 ∧ band.clip.at_ band.order 0 = (399, 2) ∧ band.clip.at_ band.order 4 = (398, 2) ∧
      band.clip.at_ band.order 1023 = (144, 5) ∧ band.clip.at_ band.order 1024 = (143, 2) ∧
      ({ whole with carrierStart := 800 } : WindowRequest).clip.cells = 0 := by decide

/-- The check values over "123456789" that the CRC catalogues give for these generators, seeds and inversions (assumption log 10). -/
theorem test_crc_catalogue :
    let digits : List Byte := [0x31, 0x32, 0x33, 0x34, 0x35, 0x36, 0x37, 0x38, 0x39]
    crc16 digits = 0xD64E#16 ∧ crc32 digits = 0xFC891918#32 ∧ fcsBytes digits = [0x26, 0x39, 0xF4, 0xCB] := by decide +kernel

/-! ### Witnesses: the queue and the invariants -/

/-- Line time 1,000,000. -/
def now : LineTime := 1000000#32

/-- A part that is RUNNING at line time 1,000,000 with nothing in progress. -/
def run : State := { State.reset with startUp := .running, lineTime := now }

/-- `run` with another tracker record. -/
def tracked (k : Tracker) : State := { run with tracker := k }

/-- `run` with another MAC record. -/
def accessing (m : Mac) : State := { run with mac := m }

theorem witness_StepTakesFront : ({ run with pending := [.toneHeard] } : State).pending = [.toneHeard] := rfl

theorem witness_IdleStepRaisesOrAdvances :
    (State.reset.pending = [] ∧ State.reset.held = none ∧ State.reset.fresh = []) ∧
      (({ State.reset with held := some .pin } : State).pending = [] ∧ ({ State.reset with held := some .pin } : State).held ≠ none) ∧
      (let s : State := { run with mac := { Mac.reset with state := .deferring, gap := some (.quiet now) } }
       s.pending = [] ∧ s.held = none ∧ s.fresh = [.gapDeadline]) := by decide +kernel

theorem witness_HeldAndLiveEvents :
    (({ State.reset with held := some .pin } : State).held ≠ none) ∧ (∃ t, exec .toneHeard run = .next t) ∧
      run.restartSent = false := ⟨by decide, ⟨_, rfl⟩, rfl⟩

theorem witness_invariants :
    State.reset.Rested ∧ State.reset.mac.bounded = true ∧ State.reset.tracker.lawful = true ∧ State.reset.thermal.lawful = true ∧
      State.reset.ListsBounded ∧ ∃ t, step State.reset = .next t :=
  ⟨by decide, by decide, by decide, by decide, by decide, _, rfl⟩

/-! ### Witnesses: the tracker -/

/-- A SEEKING record with the reference `i` µs back. -/
def seeking (i : Nat) (h : Option Nat) (lock : Nat) : State :=
  tracked { Tracker.reset with lastCrossing := some (now - BitVec.ofNat 32 i), h := h, lockCount := lock }

/-- A record with H 10,000 whose last crossing lies `i` µs back, and the last edge with it. -/
def held (st : TrackerState) (kind : CrossingKind) (i miss disturbed : Nat) : State :=
  tracked { state := st, h := some 10000, lastCrossing := some (now - BitVec.ofNat 32 i), lastKind := kind,
            lastEdge := some (now - BitVec.ofNat 32 i), lockCount := 8, missCount := miss, disturbedCount := disturbed }

/-- Where an edge lies in SEEKING: the distance from the reference. -/
def seekDistance (s : State) : Option Nat := s.tracker.lastCrossing.map fun c => c.dist s.lineTime

theorem witness_CrossingInSeeking :
    (∀ s ∈ [tracked Tracker.reset, seeking 7499 none 0, seeking 11001 none 0, seeking 7500 none 0, seeking 11000 none 0,
        seeking 10401 (some 10000) 1, seeking 10400 (some 10000) 6, seeking 9600 (some 10000) 7],
      s.Live ∧ s.Rested ∧ s.tracker.state = .seeking) ∧
      [seeking 7499 none 0, seeking 11001 none 0, seeking 7500 none 0, seeking 9600 (some 10000) 7].map seekDistance =
        [some 7499, some 11001, some 7500, some 9600] ∧
      run.startUp ≠ .listening := by decide

/-- Where the present instant lies from the expected crossing. -/
def fromExpected (s : State) : Option Int := s.tracker.expected.map fun x => x.offset s.lineTime

theorem witness_CrossingInLocked :
    ∀ x ∈ [(9600, -400), (10400, 400), (9599, -401)],
      let s := held .locked .real x.1 0 0
      s.Live ∧ s.Rested ∧ s.tracker.lawful = true ∧ s.tracker.state = .locked ∧ fromExpected s = some x.2 := by decide

theorem witness_HoldoverEvents :
    (∀ x ∈ [(9600, -400), (10400, 400), (7499, -2501), (7500, -2500), (9599, -401)],
      let s := held .holdover .synthetic x.1 1 3
      s.Live ∧ s.Rested ∧ s.tracker.lawful = true ∧ s.tracker.state = .holdover ∧ fromExpected s = some x.2) ∧
      (∀ n ∈ [1, 14, 15],
        let s := held .holdover .synthetic 10400 n 0
        s.tracker.lawful = true ∧ s.lineTime = ((now - 10400#32).plus 10000).plus 400) ∧
      (held .holdover .synthetic 7500 1 2).tracker.lawful = true := by decide

theorem witness_ReferenceDropped :
    let s := seeking 11001 (some 10000) 3
    s.Live ∧ s.Rested ∧ s.tracker.state = .seeking ∧ seekDistance s = some 11001 := by decide

theorem witness_ExpiryInLocked :
    let s := held .locked .real 10400 0 0
    s.Live ∧ s.Rested ∧ s.tracker.lawful = true ∧ s.tracker.state = .locked ∧
      s.lineTime = ((now - 10400#32).plus 10000).plus 400 ∧ s.tracker.lastEdge = s.tracker.lastCrossing := by decide

theorem witness_FreeRunPlacesAndLeaves :
    let s := held .freeRun .synthetic 10000 16 0
    s.Live ∧ s.Rested ∧ s.tracker.lawful = true ∧ s.tracker.state = .freeRun ∧ s.lineTime = (now - 10000#32).plus 10000 := by
  decide

theorem witness_PhaseRunsFromCrossing :
    workedTracker.lawful = true ∧ workedTracker.lastCrossing = some 81018#32 ∧ workedTracker.h = some 10004 := by decide

/-- "Worked offset samples", second table: the samples 4, 4, 4, 4, 3, 4, 3 from creation, as held offset and confirm count. -/
theorem test_offset_sequence_worked :
    let after := fun (ks : List MainsSlot) => let o := ks.foldl SlotOffset.apply SlotOffset.fresh; (o.held, o.confirm)
    [[4], [4, 4], [4, 4, 4], [4, 4, 4, 4], [4, 4, 4, 3], [4, 4, 4, 3, 4], [4, 4, 4, 3, 4, 3]].map after =
      [(none, 1), (none, 2), (some 4, 0), (some 4, 0), (some 4, 1), (some 4, 0), (some 4, 1)] := by decide

/-! ### Witnesses: the line interface -/

/-- `run` with the MAC in a state. -/
def inState (st : MacState) : State := accessing { Mac.reset with state := st }

theorem witness_FrameStart :
    (∀ st ∈ [MacState.idle, .deferring, .signal, .awaitingResponse, .responding, .backoff],
      let s := inState st
      s.Live ∧ s.startUp ≠ .loading ∧ s.line.sending = none ∧ s.line.reception = none ∧ s.mac.state = st) ∧
      State.reset.startUp = .loading ∧
      (accessing { Mac.reset with state := .backoff, backoff := some 1, deferral := 2 }).mac.deferral + 1 <
        run.settings.deferralLimit ∧
      run.settings.deferralLimit ≤ (accessing { Mac.reset with deferral := 3 }).mac.deferral + 1 := by decide

/-- A peer of this house. -/
def peerAddr : Addr := 0x0200000000A1#48

/-- A header from the peer. -/
def headerOf (k : FrameKind) (rx : Addr) : Header :=
  { kind := k, house := 0#16, tx := peerAddr, rx := rx, pair := 0, priority := 2, trusted := true, floor := false, phase := 20#10,
    tag := 0#8, symbols := if k = .sound then 24 else if k = .grid then 13 else if k = .resp then 0 else 1,
    segments := if k = .data then 1 else 0, floorSeq := 7#12 }

/-- A reception whose frame started `n` µs ago. -/
def reception (n : Nat) (h : HeaderState) : Reception :=
  { frameStart := now - BitVec.ofNat 32 n, firstPair := 0, stampPhase := 700, stampTrusted := true, header := h, slots := [],
    columns := [], energies := energies 1 }

/-- `s` receiving. -/
def receiving (s : State) (r : Reception) : State :=
  { s with line := { s.line with reception := some r }, mac := { s.mac with state := .receiving } }

/-- A copy of 24 bytes that fails the check, and below one that passes it without being a header. -/
def badCopy : List Byte := List.replicate 24 0#8

/-- R24: a body whose kind byte names no kind, with its check. -/
def malformedCopy : List Byte :=
  let body := List.replicate 22 0xE0#8
  body ++ beBytes 2 (crc16 body).toNat

theorem witness_HeaderNotUsed :
    let s := receiving run (reception 192 .awaited)
    s.Live ∧ s.Rested ∧ s.lineTime = (now - 192#32).plus 192 ∧ headerCheck badCopy = false ∧ headerCheck malformedCopy = true ∧
      readHeader 0 malformedCopy = none ∧
      (let h := { headerOf .data 0x020000000001#48 with house := 1#16 }
       usedHeader [(0, headerBytes h)] = some h ∧ h.house ≠ s.settings.house) ∧
      (let h := { headerOf .data peerAddr with tx := s.settings.station }
       usedHeader [(0, headerBytes h)] = some h ∧ h.house = s.settings.house) := by decide +kernel

/-- The peer at index 3, HEARD. -/
def peer : Entry := { Entry.fresh peerAddr .heard (some (now - 5000#32)) none true with route := .direct, txRate := 6000 }

/-- `run` with the peer at index 3. -/
def linked : State := { run with table := run.table.set 3 (some peer) }

theorem witness_HeaderOfStation :
    let s := receiving linked (reception 192 .awaited)
    s.Live ∧ s.Rested ∧ s.lineTime = (now - 192#32).plus 192 ∧ s.findEntry peerAddr = some 3 ∧ s.entry 3 = some peer ∧
      peer.state = .heard ∧ peerAddr ≠ s.settings.station ∧ peerAddr ≠ Addr.broadcast ∧ run.findEntry peerAddr = none ∧
      run.emptyIndex = some 0 ∧
      (∀ h ∈ [headerOf .data 0x55#48, headerOf .resp s.settings.station, headerOf .data s.settings.station],
        usedHeader [(0, headerBytes h)] = some h ∧ h.house = s.settings.house) := by decide +kernel

/-- A latched grid of one column. -/
def latched : Latched :=
  { slot := 0, grid := { tag := 9#8, pair := 0, map := Vector.replicate 6 0, columns := [some []], rate := 0, issueTime := 0#32 } }

theorem witness_PayloadSymbolNotesSlot :
    (∀ x ∈ [Resolution.latched latched, .robust, .unresolved],
      let s := receiving run (reception 192 (.used (headerOf .data run.settings.station) .processed x))
      s.Live ∧ (0 : Nat) < (headerOf .data run.settings.station).payloadSymbols ∧ s.lineTime = (now - 192#32).plus 192) ∧
      (let f : TxFrame := { header := headerOf .sound Addr.broadcast, payload := [], loading := .sounding, start := now - 192#32,
                            stop := now, control := none }
       f.header.kind = .sound ∧ run.lineTime = f.start.plus 192) := by decide

/-- A reception of the peer's frame of kind `k` that ends now. -/
def ending (k : FrameKind) (rx : Addr) (c : FilterCase) (x : Resolution) : Reception :=
  let h := headerOf k rx
  reception h.duration (.used h c x)

theorem witness_FrameEndOpensGap :
    (∀ x ∈ [(FrameKind.sound, FilterCase.overheard), (.note, .foreign), (.data, .foreign), (.grid, .foreign), (.data, .overheard),
        (.grid, .clash)],
      let s := receiving run (ending x.1 0x55#48 x.2 .robust)
      s.Live ∧ s.Rested ∧ s.mac.state = .receiving ∧ x.2 ≠ .processed ∧
        s.lineTime = (now - BitVec.ofNat 32 (headerOf x.1 0x55#48).duration).plus (192 + 32 * (headerOf x.1 0x55#48).payloadSymbols)) ∧
      (receiving run (reception 500 .failed)).frameEndDue = true := by decide

/-- A duty to the peer for a frame that ends now. -/
def duty : ResponderDuty := { transmitter := peerAddr, pair := 0, frameEnd := now, resp := none }

theorem witness_FrameEndAnswersRefusal :
    (∀ x ∈ [(run, FrameKind.data), (run, .grid), (linked, .data), (linked, .grid)],
      let s := receiving { x.1 with mac := { Mac.reset with duty := some duty } } (ending x.2 run.settings.station .processed .unresolved)
      s.Live ∧ s.Rested ∧ s.frameEndDue = true ∧ s.mac.state = .receiving ∧ s.mac.duty = some duty) ∧
      run.findEntry peerAddr = none ∧ linked.findEntry peerAddr = some 3 ∧ readGridPart [] = none := by decide +kernel

/-- A wait for the peer's RESP to a DATA frame of one segment. -/
def wait : ResponseWait := { kind := .data, receiver := peerAddr, segments := 1, frameEnd := now - 400#32, control := none }

/-- The RESP that the wait expects. -/
def accepted : RespBody := { status := .accepted, entries := [true], bands := none }

theorem witness_FrameEndResolvesWait :
    (∀ r ∈ [ending .resp run.settings.station .processed .robust, reception 500 .failed],
      let s : State := { linked with
        line := { linked.line with reception := some r }
        mac := { Mac.reset with state := .awaitingResponse, wait := some wait } }
      s.Live ∧ s.Rested ∧ s.mac.state = .awaitingResponse ∧ s.mac.wait = some wait ∧ s.frameEndDue = true) ∧
      readResp (respBytes accepted) = some (accepted, 1) := by decide +kernel

/-- The peer with three samples in every cell of pair 0. -/
def sampled : Entry :=
  { peer with snr := SnrSet.fresh.set 0 (Vector.replicate 6 { count := 3, last := now - 30000000#32, avgs := [] }) }

theorem witness_FrameEndSamplesSound :
    let s : State := receiving { linked with table := linked.table.set 3 (some sampled), tracker := workedTracker }
      (ending .sound Addr.broadcast .processed .robust)
    s.Live ∧ s.Rested ∧ s.frameEndDue = true ∧ s.mac.state = .receiving ∧ s.findEntry peerAddr = some 3 ∧
      s.entry 3 = some sampled ∧ sampled.state = .heard ∧ s.trusted = true ∧
      (∀ (p : Pair) (m : MainsSlot), Cell.old s.lineTime sampled.snr[p][m] = false) ∧
      hasEligible s.settings.pairs sampled.snr = true := by decide +kernel

/-- A frame of the station's own, of kind `k`, that ends now. -/
def sentNow (k : FrameKind) : TxFrame :=
  { header := { headerOf k peerAddr with tx := run.settings.station }, payload := [], loading := .robust, start := now - 300#32,
    stop := now, control := none }

theorem witness_SentFrameEnds :
    (∀ k ∈ [FrameKind.data, .grid, .note],
      let s : State := { run with line := { sending := some (sentNow k), reception := none }, control := [.note] }
      s.Live ∧ s.Rested ∧ s.lineTime = (sentNow k).stop ∧ (sentNow k).header.kind = k ∧ .note ∈ s.control ∧ s.control.length < 16) ∧
      (List.replicate 15 ControlEntry.note).length < 16 := by decide

theorem witness_RespStartsAndEnds :
    (let s := accessing { Mac.reset with
        state := .responding, duty := some { duty with frameEnd := now - 60#32, resp := some accepted } }
     s.Live ∧ s.Rested ∧ s.mac.state = .responding ∧ s.line.sending = none ∧ s.respDue = true ∧ accepted.status ≠ .gridUnknown) ∧
      (let s : State := { run with startUp := .listening, line := { sending := some (sentNow .resp), reception := none } }
       s.Live ∧ s.Rested ∧ (sentNow .resp).header.kind = .resp ∧ s.lineTime = (sentNow .resp).stop ∧ s.startUp ≠ .running) := by
  decide

/-! ### Witnesses: medium access -/

/-- A SIGNAL state whose period began `n` µs ago, with a candidate of access priority `p`. -/
def signalling (n : Nat) (p : Fin 4) (tone : Bool) (backoff : Option Nat) : State :=
  accessing { Mac.reset with
    state := .signal, candidate := some { kind := .control .note, priority := p }, periodStart := now - BitVec.ofNat 32 n,
    toneHeard := tone, backoff := backoff }

theorem witness_SignalSlotEnds :
    (∀ s ∈ [signalling 40 1 true none, signalling 40 2 true none, signalling 40 0 false none],
      s.Live ∧ s.Rested ∧ s.mac.state = .signal ∧ s.lineTime = s.mac.periodStart.plus 40) ∧
      (∀ s ∈ [signalling 80 2 true none, signalling 80 3 true (some 7), signalling 80 3 false none],
        s.Live ∧ s.Rested ∧ s.mac.state = .signal ∧ s.lineTime = s.mac.periodStart.plus 80) := by decide

theorem witness_ToneHeardByState :
    (∀ st ∈ [MacState.idle, .signal, .backoff, .receiving, .sending, .awaitingResponse, .responding],
      (inState st).Live ∧ (inState st).startUp ≠ .loading ∧ (inState st).mac.state = st) ∧
      (∀ g ∈ [Gap.quiet now, .response now, .toneWatch now],
        let s := accessing { Mac.reset with state := .deferring, gap := some g }
        s.mac.state = .deferring ∧ s.mac.gap = some g) := by decide

/-- A BACKOFF state whose period began 120 µs ago, so that its first contention slot ends now. -/
def contending (tone : Bool) (n : Nat) (c : Candidate) (control : List ControlEntry) : State :=
  { run with
    mac := { Mac.reset with state := .backoff, backoff := some n, candidate := some c, periodStart := now - 120#32, toneHeard := tone }
    control := control }

theorem witness_ContentionAndTransmission :
    ∀ s ∈ [contending true 1 ⟨.control .note, 3⟩ [.note], contending false 2 ⟨.control .note, 3⟩ [.note],
        contending false 1 ⟨.control (.sound 1), 3⟩ [.sound 1], contending false 1 ⟨.control (.sound 1), 3⟩ []],
      s.Live ∧ s.Rested ∧ s.mac.state = .backoff ∧ (s.mac.periodStart.plus 80).dist s.lineTime = 40 ∧ s.thermal.limited = false := by
  decide

/-- A DEFERRING state whose gap ends now. -/
def deferring (g : Gap) (control : List ControlEntry) (su : StartUp) : State :=
  { run with mac := { Mac.reset with state := .deferring, gap := some g }, control := control, startUp := su }

theorem witness_PeriodBegins :
    (∀ s ∈ [deferring (.quiet now) [] .listening, deferring (.response now) [.note] .running,
        deferring (.toneWatch now) [.note] .running],
      s.Live ∧ s.Rested ∧ s.mac.state = .deferring ∧ (s.gapDue || s.watchDue) = true ∧ s.mac.thermalWait = false ∧
        s.thermal.limited = false) ∧
      (let s : State := { run with
        control := [.sound 1], estimator := { run.estimator with placed := some { pair := 1, byRotation := true } } }
       s.Live ∧ s.Rested ∧ (∀ m : MainsSlot, s.estimator.wants[(1 : Pair)][m] = 0) ∧ s.holdsCandidate = false ∧
         s.mac.state = .idle) := by decide

theorem witness_ResponseWaitRunsOut :
    let s : State := { linked with
      table := linked.table.set 3 (some { peer with streak := 7 })
      mac := { Mac.reset with state := .awaitingResponse, wait := some { wait with frameEnd := now - 120#32 }, stage := 5 } }
    s.Live ∧ s.Rested ∧ s.mac.state = .awaitingResponse ∧ s.line.reception = none ∧ s.responseDue = true ∧
      s.findEntry peerAddr = some 3 := by decide

/-- A part at a duty-period boundary. -/
def atBoundary (limited : Bool) (hold : Nat) (wait : Bool) (st : MacState) (su : StartUp) : State :=
  { run with
    startUp := su, thermal := { limited := limited, holdCount := hold, used := 3000, nextBoundary := now }
    mac := { Mac.reset with state := st, thermalWait := wait } }

theorem witness_DutyBoundaryTable :
    (∀ s ∈ [atBoundary false 0 false .idle .running, atBoundary true 2 true .backoff .listening, atBoundary true 1 false .idle .running,
        atBoundary true 255 true .idle .running, atBoundary false 0 false .idle .loading],
      s.Live ∧ s.Rested ∧ s.lineTime = s.thermal.nextBoundary ∧ s.thermal.lawful = true) := by decide

/-! ### Witnesses: sounding and grids -/

/-- A part at its sound deadline. -/
def atSoundDeadline (placed : Option PlacedSound) (control : List ControlEntry) : State :=
  { run with control := control, estimator := { run.estimator with deadline := some now, placed := placed } }

/-- A part at its 20 ms point, with a want on pair 2. -/
def at20msPoint (placed : Option PlacedSound) (control : List ControlEntry) : State :=
  { run with
    control := control
    estimator := { run.estimator with
      lastSound := some (now - 20000#32), placed := placed
      wants := run.estimator.wants.set 2 (Vector.replicate 6 1) } }

theorem witness_SoundPlacement :
    (∀ s ∈ [atSoundDeadline (some ⟨0, true⟩) [.sound 0], atSoundDeadline none (List.replicate 15 .note),
        atSoundDeadline none (List.replicate 16 .note)],
      s.Live ∧ s.Rested ∧ s.estimator.deadline = some s.lineTime) ∧
      (∀ s ∈ [at20msPoint (some ⟨0, true⟩) [.sound 0], at20msPoint none (List.replicate 15 .note),
        at20msPoint none (List.replicate 16 .note)],
        s.Live ∧ s.Rested ∧ s.estimator.lastSound = some (now - 20000#32) ∧ s.lineTime = (now - 20000#32).plus 20000 ∧
          s.estimator.anyWant = true) ∧
      (at20msPoint none []).estimator.choosePair run.settings.pairs = ⟨2, false⟩ ∧
      (atSoundDeadline none []).estimator.choosePair run.settings.pairs = ⟨0, true⟩ := by decide

theorem witness_AverageMovesTowardSample :
    stepAverage 223 (-32) = 192 ∧ stepAverage (-32) 223 = -1 ∧ groupSamples [[240, -40], [223, -32]] = [223, -32] := by decide

/-- A snapshot of an entry whose pair 1 is eligible, with all its averages at `a`. -/
def snapshot (a : Int) : Snapshot :=
  { cells := SnrSet.fresh.set 1 (Vector.replicate 6 { count := 3, last := now, avgs := List.replicate 768 a })
    margin := 24, boost := 0, localBands := [], peerBands := none, pairs := Vector.replicate 3 true }

/-- The peer with a build on `x` that completes now. -/
def building (c : Causes) (x : Snapshot) : Entry :=
  { peer with build := { BuildRecord.fresh with state := .building (now - 1000#32) c x } }

/-- `run` with an entry at index 3. -/
def holding (e : Entry) : State := { run with table := run.table.set 3 (some e) }

/-- A grid of one column. -/
def oneColumn (p : Pair) (rate : Nat) : Grid :=
  { tag := 1#8, pair := p, map := Vector.replicate 6 0, columns := [some (tens 768)], rate := rate, issueTime := now }

theorem witness_BuildCompletes :
    (∀ e ∈ [building Causes.ofInterval (snapshot (-32)), building Causes.ofInterval (snapshot 150)],
      (holding e).Live ∧ (holding e).Rested ∧ (holding e).entry 3 = some e ∧ e.build.remembered = none ∧
        now = (now - 1000#32).plus 1000) ∧
      (snapshot (-32)).build = none ∧ (snapshot 150).build.map (·.pair) = some 1 ∧
      (snapshot 150).build.map (·.rate) = some 144000 ∧
      (holding peer).reference 3 = none ∧ (holding peer).freeSlot = some 0 ∧
      (let s : State := { holding peer with pool := Vector.replicate 48 (some ⟨4, .txActive, oneColumn 1 144000⟩) }
       s.roleSlot 3 .rxPending = none ∧ s.roleSlot 3 .rxCurrent = none ∧ s.freeSlot = none) ∧
      (let s : State := { holding peer with pool := run.pool.set 0 (some ⟨3, .rxCurrent, oneColumn 1 144000⟩) }
       (s.reference 3).map (·.rate) = some 144000) := by decide +kernel

/-- An entry whose rebuild deadline is now, in a state. -/
def rebuilding (st : EntryState) : Entry :=
  { peer with state := st, build := { BuildRecord.fresh with deadline := some now },
              rx := { RxState.fresh with window := [false, false] } }

theorem witness_RebuildDeadlineTable :
    (∀ st ∈ [EntryState.heard, .linked, .stale, .remote],
      let s := holding (rebuilding st)
      s.Live ∧ s.Rested ∧ s.entry 3 = some (rebuilding st) ∧ s.roleSlot 3 .rxCurrent = none ∧ s.roleSlot 3 .rxPending = none) ∧
      badCount (rebuilding .heard).rx.window = 2 ∧
      (∀ (p : Pair) (m : MainsSlot), Cell.old now (rebuilding .heard).snr[p][m] = false) ∧
      hasEligible run.settings.pairs (rebuilding .heard).snr = false ∧
      ({ run with pool := run.pool.set 47 (some ⟨3, .rxCurrent, oneColumn 0 0⟩) } : State).roleSlot 3 .rxCurrent = some 47 ∧
      ({ run with pool := run.pool.set 47 (some ⟨3, .rxPending, oneColumn 0 0⟩) } : State).roleSlot 3 .rxPending = some 47 := by
  decide +kernel

theorem witness_GridsBuiltAndLoaded :
    (∀ (p : Pair) (m : MainsSlot), 1 ≤ ((snapshot 150).cells[p][m]).count → ((snapshot 150).cells[p][m]).avgs.length = 768) ∧
      (snapshot 150).build.isSome = true := by decide +kernel

theorem witness_IssueTagsAndOutcomes : chooseTag 254#8 [254#8, 255#8] = 1#8 ∧ tagAfter 255#8 = 1#8 := by decide

/-- A part that its issuer may form. -/
def part : GridPart :=
  { tag := 255#8, k := 1, index := 0, pair := 2, map := Vector.replicate 6 0, rate := 180000, column := tens 768 }

theorem witness_PartsAssembledAndCommitted :
    linked.entry 3 = some peer ∧ part.Lawful ∧ part.k = 1 ∧ exceedsCaps linked.settings.bands part.column = false ∧
      linked.roleSlot 3 .txActive = none ∧ linked.roleSlot 3 .txAssembling = none ∧ linked.freeSlot = some 0 := by decide +kernel

/-! ### Witnesses: the station table, queues and the map -/

/-- A STALE entry heard 60 s ago, and a REMOTE one named 30 s ago. -/
def stalePeer : Entry := { peer with state := .stale, lastHeard := some (now - 60000000#32) }

/-- R131: a REMOTE entry at the end of its time. -/
def remotePeer : Entry := { peer with state := .remote, lastHeard := none, lastNamed := some (now - 30000000#32) }

theorem witness_EntryDeadlines :
    (∀ e ∈ [{ peer with lastHeard := some (now - 15000000#32) }, { peer with state := .linked, lastHeard := some (now - 15000000#32) },
        stalePeer, remotePeer],
      (holding e).Live ∧ (holding e).Rested ∧ (holding e).entry 3 = some e ∧ (holding e).agingDue 3 = true) ∧
      (let e := { peer with hold := some now, txRate := 0 }
       (holding e).Rested ∧ (holding e).entry 3 = some e ∧ e.hold = some (holding e).lineTime) := by decide

theorem witness_NoteScheduleAndIntake :
    ∀ x ∈ [(true, 0), (false, 15), (false, 16)],
      let s : State := { linked with note := { deadline := some now, placed := x.1 }, control := List.replicate x.2 (.sound 0) }
      s.Live ∧ s.Rested ∧ s.note.deadline = some s.lineTime ∧ s.control.length = x.2 ∧ .note ∉ s.control ∧
        (∀ (p : Pair) (m : MainsSlot), Cell.old s.lineTime peer.snr[p][m] = false) := by decide +kernel

/-- "Worked sequence: route to a distant station", its first three rows: P at index 2, D at 5 and Q at 7. -/
theorem test_route_worked :
    let relayTo := fun (items : List ReachItem) => { peer with relay := true, reach := some items }
    let d : Entry := { peer with addr := 0xD#48 }
    let rates := fun (i : EntryIx) => if i = 2 then 80000 else if i = 5 then 20000 else if i = 7 then 50000 else 0
    let table := fun (p q : List ReachItem) =>
      ((run.table.set 2 (some (relayTo p))).set 5 (some d)).set 7 (some (relayTo q))
    chooseRoute (table [] []) rates 5 d = .direct ∧ chooseRoute (table [⟨0xD#48, 60000⟩] []) rates 5 d = .via 2 ∧
      chooseRoute (table [⟨0xD#48, 60000⟩] [⟨0xD#48, 70000⟩]) rates 5 { d with route := .via 2 } = .via 2 ∧
      chooseRoute (table [⟨0xD#48, 60000⟩] [⟨0xD#48, 70000⟩]) (fun i => if i = 5 then 36000 else rates i) 5
        { d with route := .via 2 } = .direct := by decide +kernel

theorem witness_RouteChoiceIsStable : linked.table[(3 : EntryIx)] = some peer := by decide

theorem witness_RecomputedRoutesAreValid : ((recompute linked).entry 3).isSome = true := by decide +kernel

/-- A host frame of this station for the peer that expires now. -/
def frame (id : Nat) : HostFrame :=
  { id := id, origin := run.settings.station, final := peerAddr, hop := 0, queue := 2, eth := List.replicate 64 0#8, expiry := now }

theorem witness_FrameAndMapExpiry :
    (let s : State := { run with queues := run.queues.set 2 [frame 0, frame 1] }
     s.Live ∧ s.Rested ∧ frame 1 ∈ s.queues[(2 : QueueIx)] ∧ (frame 1).id = 1 ∧ (frame 1).expiry = s.lineTime ∧
       ∀ (k : QueueIx), k ≠ 2 → s.queues[k] = []) ∧
      (let e := { peer with tx := { next := 8#12, numbered := [⟨frame 1, 7#12⟩], unacked := [⟨7#12, 1, 0, 80, 1, true⟩] } }
       (holding e).Live ∧ (holding e).Rested ∧ (holding e).entry 3 = some e ∧ (frame 1).expiry = (holding e).lineTime ∧
         (∀ q : QueueIx, (holding e).queues[q] = []) ∧ ∀ k : EntryIx, k ≠ 3 → (holding e).entry k = none) ∧
      (let m : MapEntry := { device := 1#48, target := .localHost, learned := now - 300000000#32 }
       ({ run with addressMap := run.addressMap.set 127 (some m) } : State).addressMap[(127 : MapIx)] = some m ∧
         now = m.learned.plus 300000000) := by decide +kernel

theorem witness_AdmissionAndInspection :
    (let s : State := { run with queues := run.queues.set 2 (List.replicate 32 (frame 0)) }
     (s.settings.queues[(frame 0).queue]).depth ≤ (s.queues[(frame 0).queue]).length) ∧
      (let s : State := { run with queues := run.queues.set 2 (List.replicate 31 (frame 0)) }
       (s.queues[(frame 0).queue]).length < (s.settings.queues[(frame 0).queue]).depth ∧
         s.txCharge + (frame 0).charge ≤ 180224) ∧
      (let s : State := { run with queues := run.queues.set 0 (List.replicate 1408 (frame 0)) }
       (s.queues[(frame 0).queue]).length < (s.settings.queues[(frame 0).queue]).depth ∧ s.txCharge = 180224) := by decide +kernel

/-! ### Witnesses: the station port -/

/-- A device of the host, and one behind the peer. -/
def deviceA : Addr := 0x020000000A01#48

/-- A device that the map places behind the peer. -/
def deviceB : Addr := 0x020000000B02#48

/-- A frame of 64 bytes with a wrong frame check sequence. -/
def wrongFcs : List Byte := List.replicate 64 0#8

theorem witness_HostFramesEndingAtPort :
    (run.Live ∧ run.Rested ∧ run.startUp ≠ .loading ∧ State.reset.startUp = .loading ∧ fcsMatches wrongFcs = false) ∧
      (let b := ethFrame run.settings.station deviceA 0x0800 []
       b.length = 64 ∧ fcsMatches b = true ∧ (ethView b).dst = run.settings.station ∧ (ethView b).etherType = 0x0800) ∧
      (∀ q ∈ [(0 : Nat), 1, 65535],
        let b := ethFrame 0x0180C2000001#48 deviceA 0x8808 (beBytes 2 1 ++ beBytes 2 q)
        b.length = 64 ∧ fcsMatches b = true ∧ (ethView b).etherType = 0x8808 ∧ fieldAt 0 2 (ethView b).data = 1 ∧
          fieldAt 2 2 (ethView b).data = q) ∧
      (let b := ethFrame 0x0180C2000001#48 deviceA 0x8808 (beBytes 2 2)
       fcsMatches b = true ∧ fieldAt 0 2 (ethView b).data = 2) ∧
      (let b := ethFrame run.settings.station deviceA 0x88B5 [0#8, 9#8, 1#8, 0x3F#8]
       b.length = 64 ∧ fcsMatches b = true ∧ (ethView b).dst = run.settings.station ∧
         readRequest (ethView b) = { source := deviceA, tag := 9#16, kind := 1#8, body := .status 0x3F#8 }) := by decide +kernel

/-- `run` with the map placing device B at a target. -/
def mapping (target : MapTarget) : State :=
  { run with addressMap := run.addressMap.set 5 (some { device := deviceB, target := target, learned := now }) }

/-- A frame of 64 bytes from device A to device B. -/
def aToB : List Byte := ethFrame deviceB deviceA 0x0800 (List.replicate 46 1#8)

theorem witness_HostFrameQueuedOrReplicated_frame :
    aToB.length = 64 ∧ fcsMatches aToB = true ∧ (ethView aToB).dst = deviceB ∧ (ethView aToB).src = deviceA ∧
      (ethView aToB).vlan = none ∧ (ethView aToB).etherType = 0x0800 ∧ deviceB.isGroup = false := by decide +kernel

theorem witness_HostFrameQueuedOrReplicated_state :
    ∀ x ∈ [MapTarget.station peerAddr, .localHost],
      let s := mapping x
      s.Live ∧ s.Rested ∧ s.startUp ≠ .loading ∧ s.findDevice deviceB = some 5 ∧ s.addressMap[(0 : MapIx)] = none ∧ s.txCharge = 0 := by
  decide +kernel

/-- `run` with another port record. -/
def porting (p : Port) : State := { run with port := p }

/-- A response of kind STATUS, or one that restarts. -/
def response (restarts : Bool) : Response :=
  { dest := deviceA, tag := 9#16, kind := 1#8, status := .ok, content := [], restarts := restarts }

theorem witness_PortTimers :
    (∀ s ∈ [porting { Port.reset .rmii with hold := some now, sending := some .response, response := some (response false) },
        porting { Port.reset .rmii with hold := some now, response := some (response false) },
        porting { Port.reset .rmii with hold := some now, delivery := [⟨[], 64⟩] }, porting { Port.reset .rmii with hold := some now }],
      s.Live ∧ s.Rested ∧ s.port.hold = some s.lineTime) ∧
      (∀ s ∈ [porting { Port.reset .rmii with pauseOn := true, refresh := some now, sending := some .delivered, delivery := [⟨[], 64⟩] },
        porting { Port.reset .rmii with pauseOn := true, refresh := some now }],
        s.Live ∧ s.Rested ∧ s.port.pauseOn = true ∧ s.port.refresh = some s.lineTime) := by decide

theorem witness_HostTransmissionEnds :
    (∀ s ∈ [porting { Port.reset .rmii with sending := some (.pause 0#16), pausePending := some 0xFFFF#16 },
        porting { Port.reset .rmii with sending := some .delivered, delivery := [⟨[], 64⟩, ⟨[], 64⟩], hold := some (now + 1#32) },
        porting { Port.reset .rmii with sending := some .delivered, delivery := [⟨[], 64⟩], response := some (response false) },
        porting { Port.reset .rmii with sending := some .response, delivery := [⟨[], 64⟩], response := some (response false) },
        porting { Port.reset .rmii with sending := some .response, response := some (response false) }],
      s.Live ∧ s.Rested ∧ s.port.sending.isSome = true ∧ s.restartSent = false) ∧
      (let s := porting { Port.reset .rmii with sending := some .response, response := some (response true) }
       s.Live ∧ s.port.sending = some .response ∧ (response true).restarts = true ∧ s.restart.restarts < 65535) := by decide

/-- `run` with a request at the head of the list. -/
def asking (b : RequestBody) : State :=
  porting { Port.reset .rgmii with requests := [{ source := deviceA, tag := 9#16, kind := 1#8, body := b }] }

theorem witness_StatusAndCountersServed :
    (∀ b ∈ [RequestBody.status 0#8, .status 0xFF#8, .counters false, .counters true],
      (asking b).Live ∧ (asking b).Rested ∧ (asking b).port.requests.map (·.body) = [b] ∧ (asking b).port.response = none ∧
        (asking b).port.pausePending = none) ∧
      (0x20#8 &&& 0x3F#8 ≠ 0#8) ∧ run.restart.counterClears < 65535 := by decide

/-- A read of the RX-CURRENT grid of an index. -/
def windowAt (i : Nat) : WindowRequest :=
  { source := .grid .rxCurrent, index := i, extentMode := false, order := ⟨false, false, false⟩, carrierStart := 0, carrierStop := 767,
    slotStart := 0, slotStop := 5, resume := 0 }

theorem witness_RequestsServed :
    (∀ b ∈ [RequestBody.configRead, .restart, .malformed, .stationTable 0 23, .addressMap 0 127, .windowRead (windowAt 0),
        .windowRead (windowAt 24)],
      (asking b).Live ∧ (asking b).Rested ∧ (asking b).port.requests.map (·.body) = [b] ∧ (asking b).port.response = none) ∧
      (asking .configRead).entry 0 = none ∧
      (let s : State := { asking (.windowRead (windowAt 3)) with
        table := run.table.set 3 (some peer), pool := run.pool.set 0 (some ⟨3, .rxCurrent, oneColumn 1 144000⟩) }
       s.entry 3 = some peer ∧ s.roleGrid 3 .rxCurrent = some (oneColumn 1 144000)) ∧
      run.settings.bands.length ≤ 8 := by decide +kernel

/-! ### Witnesses: resets, start-up and encodings -/

theorem witness_ResetsHoldAndEnd :
    run.held = none ∧ ({ run with held := some .power } : State).held = some .power ∧
      ({ run with held := some .pin, restart := { run.restart with restarts := 65534 } } : State).restart.restarts < 65535 := by decide

theorem witness_StartUpSequence :
    (State.reset.Live ∧ State.reset.Rested ∧ State.reset.startUp = .loading ∧ State.reset.tracker.state ≠ .locked) ∧
      (let s : State := { State.reset with tracker := workedTracker }
       s.Live ∧ s.Rested ∧ s.startUp = .loading ∧ s.tracker.state = .locked ∧ s.mac.state = .idle) ∧
      (let s : State := { run with startUp := .listening, listening := some now }
       s.Live ∧ s.Rested ∧ s.startUp = .listening ∧ s.listening = some s.lineTime ∧ s.mac.state = .idle ∧ s.control = [] ∧
         (∀ q : QueueIx, s.queues[q] = []) ∧ ∀ i : EntryIx, s.entry i = none) ∧
      (let s : State := { run with startUp := .listening, listening := some now, mac := { Mac.reset with state := .receiving } }
       s.Rested ∧ s.listening = some s.lineTime ∧ s.mac.state ≠ .idle) := by decide +kernel

/-- R204: an image that is all ones is not valid, and the configuration is that of R205's last column. -/
theorem test_blank_image :
    imageValid (List.replicate 100 0xFF#8) = false ∧ (loadSettings (List.replicate 100 0xFF#8)).station = 0x020000000001#48 := by
  decide +kernel

theorem witness_round_trips :
    (∀ h ∈ [headerOf .data 0x55#48, headerOf .grid 0x55#48, headerOf .resp 0x55#48, headerOf .sound Addr.broadcast,
        headerOf .note Addr.broadcast], h.Lawful) ∧
      accepted.Lawful ∧ part.Lawful ∧
      (∀ x ∈ [((7#12 : Seq), true, false, List.replicate 480 1#8), (8#12, false, true, [2#8])],
        1 ≤ x.2.2.2.length ∧ x.2.2.2.length ≤ 480) := by decide +kernel

/-! ### Encodings written out byte by byte from R210 -/

/-- A DATA header: kind 1, house 1234H, the two addresses, pair 1, priority 2, both flags, phase 991, tag 9, 18 symbols, 8 segments and
floor sequence 100. -/
theorem test_header_bytes :
    let h : Header :=
      { kind := .data, house := 0x1234#16, tx := peerAddr, rx := 0x020000000001#48, pair := 1, priority := 2, trusted := true,
        floor := true, phase := 991#10, tag := 9#8, symbols := 18, segments := 8, floorSeq := 100#12 }
    let body : List Byte :=
      [0x01, 0x12, 0x34, 0x02, 0x00, 0x00, 0x00, 0x00, 0xA1, 0x02, 0x00, 0x00, 0x00, 0x00, 0x01, 0x39, 0x03, 0xDF, 0x09, 0x12, 0x80,
       0x64]
    headerBody h = body ∧ readHeader 0 (body ++ [0x00, 0x00]) = some h := by decide +kernel

/-- A RESP: GRID-UNKNOWN, three entries good, bad, good, and the band 400, 40, 6, which packs to 640286H. -/
theorem test_resp_bytes :
    respBody { status := .gridUnknown, entries := [true, false, true], bands := some [⟨400, 40, 6⟩] } =
      [0x01, 0x03, 0x05, 0x81, 0x64, 0x02, 0x86] ++ List.replicate 39 0x00#8 := by decide +kernel

set_option maxRecDepth 20000 in
/-- A GRID part: tag 9, three columns, part 2 on pair 1, the map 0, 0, 1, 2, 0, 0 of the worked exchange, and the rate 90,234. -/
theorem test_grid_part_bytes :
    let p : GridPart :=
      { tag := 9#8, k := 3, index := 2, pair := 1, map := #v[0, 0, 1, 2, 0, 0], rate := 90234, column := tens 8 }
    (gridPartBody p).take 12 = [0x09, 0x33, 0x00, 0x90, 0x01, 0x60, 0x7A, 0x00, 0xFF, 0xFF, 0xFF, 0x00] ∧
      readGridPart (gridPartBytes p) = some p := by decide +kernel

/-- A NOTE: relaying, no band, and one item with a sound request for pair 1 and slots 0 and 3. -/
theorem test_note_bytes :
    let n : NotePayload :=
      { relay := true, bands := [], items := [{ addr := peerAddr, rate := 60000, request := some { pair := 1, slots := 0b001001#6 } }] }
    noteBody n = [0x01, 0x00, 0x01, 0x00, 0x02, 0x00, 0x00, 0x00, 0x00, 0xA1, 0x00, 0xEA, 0x60, 0x81, 0x09] ∧
      readNote 1 (noteBytes n) = some n := by decide +kernel

/-- A segment header: first flag, sequence 102 and 480 payload bytes; and a carriage record of hop 1 in Q3. -/
theorem test_segment_bytes :
    segmentHead 102#12 true false 480 = [0x80, 0x66, 0x01, 0xE0, 0x00, 0x00] ∧
      carriageBytes { frame 0 with hop := 1 } =
        [0x02, 0x00, 0x00, 0x00, 0x00, 0x01, 0x02, 0x00, 0x00, 0x00, 0x00, 0xA1, 0x01, 0x03, 0x00, 0x40] := by decide +kernel

/-! ### Witnesses of the further clauses, in the order of the statements -/

/-- Every entry of a table meets a property that can be decided index by index. -/
theorem every_entry {s : State} (P : EntryIx → Entry → Bool) (h : ∀ j, ((s.entry j).all (P j)) = true) :
    ∀ (j : EntryIx) (x : Entry), s.entry j = some x → P j x = true := by
  intro j x hx; have := h j; rw [hx] at this; exact this

/-- A LIMITED guard whose period's allowance is used up. -/
def usedUp : State :=
  { run with thermal := { limited := true, holdCount := 1, used := run.settings.dutyPercent * 100, nextBoundary := now + 1#32 } }

/-- A pool with a pending grid of tag 1 in its first slot and a current one of tag 2 in its last, both of the peer. -/
def twoGrids : Vector (Option HeldGrid) 48 :=
  (State.reset.pool.set 0 (some ⟨3, .rxPending, oneColumn 1 9000⟩)).set 47 (some ⟨3, .rxCurrent, { oneColumn 0 9000 with tag := 2#8 }⟩)

theorem reset_pool_free (j : SlotIx) : State.reset.pool[j] = none := by revert j; decide +kernel

theorem witness_StepKeepsLists : PoolLawful twoGrids := by
  have free : PoolLawful State.reset.pool := fun i j g h hi => by rw [reset_pool_free] at hi; cases hi
  refine (free.put 0 _ fun j k _ hk => by rw [reset_pool_free] at hk; cases hk).put 47 _ fun j k _ hk _ => ?_
  by_cases h : j = 0
  · subst h; rw [pool_set_self] at hk; cases hk; decide
  · rw [pool_set_ne _ _ h, reset_pool_free] at hk; cases hk

theorem witness_StepKeepsSettingsAndGuard :
    usedUp.AllowanceHeld ∧ usedUp.thermal.limited = true ∧ usedUp.thermal.lawful = true ∧ ∃ t, step usedUp = .next t :=
  ⟨by decide, rfl, by decide, _, rfl⟩

theorem witness_Crossing_listening :
    (let s := { seeking 9600 (some 10000) 7 with startUp := .listening }
     s.Live ∧ s.Rested ∧ s.tracker.state = .seeking ∧ s.tracker.lockCount = 7 ∧ seekDistance s = some 9600) ∧
      (let s := { held .holdover .synthetic 10400 15 3 with startUp := .listening }
       s.Live ∧ s.Rested ∧ s.tracker.lawful = true ∧ s.tracker.state = .holdover ∧ fromExpected s = some 400) := by decide

theorem witness_HeaderOfKnownStation_overheard :
    (∀ e ∈ [remotePeer, stalePeer],
      let s := receiving (holding e) (reception 192 .awaited)
      s.Live ∧ s.Rested ∧ s.lineTime = (now - 192#32).plus 192 ∧ s.findEntry peerAddr = some 3 ∧ s.entry 3 = some e) ∧
      ({ holding stalePeer with pool := twoGrids } : State).roleSlot 3 .rxCurrent = some 47 ∧
      (holding stalePeer).roleSlot 3 .txActive = none ∧
      usedHeader [(0, headerBytes (headerOf .resp 0x55#48))] = some (headerOf .resp 0x55#48) := by decide +kernel

theorem witness_HeaderOfKnownStation_offset :
    (∀ h ∈ [headerOf .sound Addr.broadcast, { headerOf .note Addr.broadcast with trusted := false },
        { headerOf .note Addr.broadcast with phase := 444#10 }],
      usedHeader [(0, headerBytes h)] = some h ∧ h.house = run.settings.house) ∧
      offsetSample (reception 192 .awaited).stampPhase 20 = some 4 ∧ offsetSample (reception 192 .awaited).stampPhase 444 = none ∧
      (reception 192 .awaited).stampTrusted = true := by decide +kernel

/-- A full table: every index an entry in state `st`, heard or named 7 s ago, and the last one 9 s ago. -/
def fullTable (st : EntryState) : State :=
  let e := fun (ago : Nat) => { peer with
    addr := 0x77#48, state := st, lastHeard := some (now - BitVec.ofNat 32 ago), lastNamed := some (now - BitVec.ofNat 32 ago) }
  { run with table := (Vector.replicate 24 (some (e 7000000))).set 23 (some (e 9000000)) }

/-- How long ago an entry was heard. -/
def ageOf (x : Option LineTime) : Nat := (x.map fun a => a.dist now).getD 0

theorem witness_HeaderOfNewStation_full :
    (∀ st ∈ [EntryState.heard, .linked, .stale, .remote],
      let s := receiving (fullTable st) (reception 192 .awaited)
      s.Live ∧ s.Rested ∧ s.findEntry peerAddr = none ∧ s.emptyIndex = none ∧ s.lineTime = (now - 192#32).plus 192) ∧
      (∀ (j : EntryIx) (x : Entry), (fullTable .linked).entry j = some x → decide (x.state = .linked) = true) ∧
      (∀ (j : EntryIx) (x : Entry), (fullTable .stale).entry j = some x →
        decide (ageOf x.lastHeard ≤ 9000000 ∧ (j < 23 → ageOf x.lastHeard < 9000000)) = true) ∧
      (∀ (j : EntryIx) (x : Entry), (fullTable .remote).entry j = some x →
        decide (x.state ≠ .stale ∧ ageOf x.lastNamed ≤ 9000000 ∧ (j < 23 → ageOf x.lastNamed < 9000000)) = true) ∧
      (fullTable .stale).control.length < 16 :=
  ⟨by decide +kernel, every_entry _ (by decide +kernel), every_entry _ (by decide +kernel), every_entry _ (by decide +kernel), by decide⟩

theorem witness_FrameEndAnswersRefusal_taken :
    ∀ x ∈ [Resolution.robust, .latched latched],
      let s := receiving { linked with mac := { Mac.reset with duty := some duty } } (ending .data run.settings.station .processed x)
      s.Live ∧ s.Rested ∧ s.frameEndDue = true ∧ s.mac.state = .receiving ∧ s.mac.duty = some duty ∧ s.findEntry peerAddr = some 3 := by
  decide +kernel

/-- The peer expecting sequence 10, with `n` segments of 480 bytes stored from sequence 11 on, and verdicts. -/
def expecting (n : Nat) (window : List Bool) : Entry :=
  { peer with rx :=
    { expected := some 10#12
      reorder := (List.range n).map fun k =>
        { seq := BitVec.ofNat 12 (11 + k), first := false, last := false, payload := List.replicate 480 0#8 }
      assembling := true, joined := none, window := window } }

theorem witness_FrameEndAnswersRefusal_verdicts :
    ((holding (expecting 32 [])).entry 3 = some (expecting 32 []) ∧ (holding (expecting 32 [])).rxCharge = 16384 ∧
      (holding (expecting 31 [])).rxCharge + (480 + 63) / 64 * 64 = 16384) ∧
      (∀ d ∈ [(1 : Nat), 2047], ((10#12 : Seq) - (10#12 - BitVec.ofNat 12 d)).toNat = d) ∧
      (∀ d ∈ [(0 : Nat), 63, 64, 2048], ((10#12 + BitVec.ofNat 12 d : Seq) - 10#12).toNat = d) ∧
      (∃ y ∈ (expecting 1 []).rx.reorder, y.seq = 11#12) ∧
      (let w := List.replicate 57 true ++ List.replicate 7 false
       (expecting 0 w).rx.window.length = 64 ∧ ((expecting 0 w).rx.window.tail ++ [false]).countP (! ·) = 8 ∧
         ((expecting 0 w).rx.window.tail ++ [true]).countP (! ·) = 7) := by decide +kernel

theorem witness_FrameEndAnswersRefusal_floor :
    (∀ d ∈ [(1 : Nat), 2047], ((10#12 + BitVec.ofNat 12 d : Seq) - 10#12).toNat = d) ∧
      ∀ d ∈ [(1 : Nat), 32, 33, 2048], ((10#12 : Seq) - (10#12 - BitVec.ofNat 12 d)).toNat = d := by decide

/-- A part that waits for the response of `a` while a reception ends. -/
def awaiting (a : Addr) (r : Reception) : State :=
  { linked with
    line := { linked.line with reception := some r }
    mac := { Mac.reset with state := .awaitingResponse, wait := some { wait with receiver := a } } }

theorem witness_FrameEndResolvesWait_resp :
    (let s := awaiting peerAddr (ending .resp run.settings.station .processed .robust)
     s.Live ∧ s.Rested ∧ s.frameEndDue = true) ∧
      (let s := awaiting 0x66#48 (ending .resp run.settings.station .processed .robust)
       s.Live ∧ s.Rested ∧ s.frameEndDue = true ∧ (headerOf .resp run.settings.station).tx ≠ 0x66#48) := by decide

theorem witness_FrameEndResolvesWait_failed :
    readResp (List.replicate 48 0#8) = none ∧ readResp (respBytes { accepted with entries := [] }) = some ({ accepted with entries := [] }, 0) ∧
      readResp (respBytes { accepted with status := .capConflict }) = some ({ accepted with status := .capConflict }, 1) := by
  decide +kernel

theorem witness_FrameEndResolvesWait_kinds :
    ∀ x ∈ [(FrameKind.resp, FilterCase.overheard), (.sound, .foreign), (.note, .clash), (.data, .foreign), (.grid, .foreign),
        (.data, .overheard), (.grid, .clash), (.sound, .processed), (.note, .processed), (.data, .processed), (.grid, .processed)],
      let s := awaiting peerAddr (ending x.1 0x55#48 x.2 .robust)
      s.Live ∧ s.Rested ∧ s.frameEndDue = true ∧
        s.lineTime = (now - BitVec.ofNat 32 (headerOf x.1 0x55#48).duration).plus (192 + 32 * (headerOf x.1 0x55#48).payloadSymbols) := by
  decide

theorem witness_FrameEndResolvesWait_stray :
    let s := receiving linked (ending .resp run.settings.station .processed .robust)
    s.Live ∧ s.Rested ∧ s.frameEndDue = true ∧ s.mac.wait = none := by decide

/-- A segment of host frame `id` on an unacked list. -/
def listed (seq : Nat) (id attempts : Nat) : UnackedSegment :=
  { seq := BitVec.ofNat 12 seq, frameId := id, piece := 0, len := 80, attempts := attempts, marked := false }

/-- The peer with a list of unacked segments. -/
def unacking (u : List UnackedSegment) : Entry := { peer with tx := { next := 99#12, numbered := [], unacked := u } }

theorem witness_FrameEndResolvesWait_entries :
    (∀ y ∈ (unacking [listed 7 1 0]).tx.unacked, y.seq ≠ 8#12) ∧
      (∀ u ∈ [[listed 7 1 0, listed 8 1 0], [listed 7 1 0, listed 8 2 0],
          [listed 7 1 (run.settings.segmentRetry - 2)], [listed 7 1 (run.settings.segmentRetry - 1)]],
        (holding (unacking u)).entry 3 = some (unacking u) ∧ ∃ x, (unacking u).tx.unacked.find? (fun y => y.seq == 7#12) = some x) ∧
      (∃ y ∈ [listed 7 1 0, listed 8 1 0].filter (fun y => y.seq != 7#12), y.frameId = 1) ∧
      (∀ y ∈ [listed 7 1 0, listed 8 2 0].filter (fun y => y.seq != 7#12), y.frameId ≠ 1) ∧
      2 ≤ run.settings.segmentRetry ∧
      (let x : InFlight := { entry := 3, seqs := [7#12, 8#12], tag := 0#8 }
       ({ run with inFlight := some x } : State).inFlight = some x) :=
  ⟨by decide, by intro u hu; refine ⟨by revert u; decide +kernel, ?_⟩; revert u; simp [unacking, listed], by decide, by decide, by decide, rfl⟩

/-- The peer one sample short of an eligible pair, in the worked slot 2. -/
def nearlyEligible (b : BuildState) : Entry :=
  let c : Cell := { count := 3, last := now - 30000000#32, avgs := List.replicate 768 100 }
  { peer with
    snr := SnrSet.fresh.set 0 ((Vector.replicate 6 c).set 2 { c with count := 2 })
    build := { BuildRecord.fresh with state := b } }

theorem witness_FrameEndSamplesSound_eligibility :
    (∀ b ∈ [BuildState.idle, .building (now - 1000#32) Causes.ofInterval
        { cells := SnrSet.fresh, margin := 24, boost := 0, localBands := [], peerBands := none, pairs := Vector.replicate 3 true }],
      let s : State := receiving { holding (nearlyEligible b) with tracker := workedTracker }
        (ending .sound Addr.broadcast .processed .robust)
      s.Live ∧ s.Rested ∧ s.frameEndDue = true ∧ s.mac.state = .receiving ∧ s.findEntry peerAddr = some 3 ∧
        s.entry 3 = some (nearlyEligible b) ∧ s.trusted = true ∧
        (∀ (p : Pair) (m : MainsSlot), Cell.old s.lineTime (nearlyEligible b).snr[p][m] = false)) ∧
      hasEligible run.settings.pairs (nearlyEligible .idle).snr = false ∧
      (let x := (nearlyEligible .idle).snr
       hasEligible run.settings.pairs (x.set 0 (x[0].set 2 { x[0][2] with count := 3 })) = true) := by decide +kernel

theorem witness_SentFrameEnds_sound :
    ∀ x ∈ [(none, none), (some (5 : MainsSlot), some (⟨1, true⟩ : PlacedSound)), (some 0, some ⟨1, false⟩)],
      let f : TxFrame := { sentNow .sound with header := { headerOf .sound Addr.broadcast with pair := 1 } }
      let s : State := { run with
        line := { sending := some f, reception := none }, control := [.sound 1]
        estimator := { run.estimator with notedSlot := x.1, placed := x.2 } }
      s.Live ∧ s.Rested ∧ s.lineTime = f.stop ∧ f.header.kind = .sound ∧ (∃ q, .sound q ∈ s.control) ∧ s.control.length < 16 := by
  intro x hx
  refine ⟨rfl, ?_, rfl, rfl, ⟨1, by simp⟩, ?_⟩
  · exact ⟨rfl, .inr ⟨rfl, .inr ⟨rfl, .inl rfl⟩⟩⟩
  · exact (by decide : 1 < 16)

/-- A part whose RESP with GRID-UNKNOWN begins now. -/
def answering (s : State) : State :=
  { s with mac := { Mac.reset with
      state := .responding, duty := some { duty with frameEnd := now - 60#32, resp := some { accepted with status := .gridUnknown } } } }

theorem witness_RespStarts_unknown :
    (∀ s ∈ [run, holding stalePeer, holding remotePeer, linked, holding (building Causes.ofInterval (snapshot 150))],
      (answering s).Live ∧ (answering s).Rested ∧ (answering s).mac.state = .responding ∧ (answering s).line.sending = none ∧
        (answering s).lineTime = (now - 60#32).plus 60) ∧
      run.findEntry peerAddr = none ∧ linked.findEntry peerAddr = some 3 ∧ peer.build.state = .idle ∧
      (∀ (p : Pair) (m : MainsSlot), Cell.old now peer.snr[p][m] = false) := by decide +kernel

theorem witness_SignalSlotEnds_draw :
    (∀ b ∈ [none, some 0, some 7],
      let s := signalling 80 3 true b
      s.Live ∧ s.Rested ∧ s.mac.state = .signal ∧ s.mac.backoff = b ∧ s.lineTime = s.mac.periodStart.plus 80) ∧
      (∀ d ∈ [(0 : Nat), 39, 40, 79], (signalling d 2 false none).lineTime = (signalling d 2 false none).mac.periodStart.plus d) ∧
      (∀ l ∈ [[ControlEntry.sound 1], []],
        let s : State := { run with
          control := l
          mac := { Mac.reset with
            state := .signal, backoff := some 0, candidate := some ⟨.control (.sound 1), 3⟩, periodStart := now - 80#32 } }
        s.Live ∧ s.Rested ∧ s.lineTime = s.mac.periodStart.plus 80 ∧ s.thermal.limited = false ∧ s.mac.toneHeard = false) := by
  decide +kernel
/-- The peer at index 3 with a head of line frame for it, marked segments and a pool, transmitting what `x` names with `left` µs of the
allowance left. -/
def transmitting (x : CandidateKind) (control : List ControlEntry) (left : Nat) (u : List UnackedSegment) : State :=
  { holding (unacking u) with
    mac := { Mac.reset with state := .backoff, backoff := some 0, candidate := some ⟨x, 2⟩ }
    control := control, pool := twoGrids
    queues := run.queues.set 2 [{ frame 0 with expiry := now + 1#32 }]
    thermal := { limited := true, holdCount := 1, used := 5000 - left, nextBoundary := now + 1#32 } }

/-- What is left of the allowance of the period. -/
def leftOver (s : State) : Nat := s.settings.dutyPercent * 100 - s.thermal.used

theorem witness_Transmit_control :
    ([959, 960].map fun n => leftOver (transmitting (.control (.sound 1)) [.sound 1] n [])) = [959, 960] ∧
      ([607, 608].map fun n => leftOver (transmitting (.control (.gridPart 3 1#8 0)) [.gridPart 3 1#8 0] n [])) = [607, 608] ∧
      ([223, 224].map fun n => leftOver (transmitting (.control .note) [.note] n [])) = [223, 224] ∧
      (let s := transmitting (.control (.gridPart 3 1#8 0)) [.gridPart 3 1#8 0] 608 []
       s.thermal.limited = true ∧ s.entry 3 = some (unacking []) ∧ s.roleGrid 3 .rxPending = some (oneColumn 1 9000)) ∧
      (∀ (j : EntryIx) (x : Entry), (transmitting (.control .note) [.note] 224 []).entry j = some x →
        ((List.finRange 3).all fun p => (List.finRange 6).all fun m => !Cell.old now x.snr[p][m]) = true) :=
  ⟨by decide, by decide, by decide, by decide +kernel, every_entry _ (by decide +kernel)⟩

theorem witness_Transmit_data :
    (let s := transmitting (.resends 3) [] 224 [{ listed 7 1 0 with marked := true }]
     s.present 3 = true ∧ s.firstOffered 3 none = some 80 ∧ leftOver s = 224) ∧
      (transmitting (.resends 3) [] 224 [listed 7 1 0]).firstOffered 3 none = none ∧
      (let s := transmitting (.queueHead 2 3) [] 223 []
       (s.queues[(2 : QueueIx)]).length = 1 ∧ s.nextHop (frame 0) = some 3 ∧ s.firstOffered 3 (some 2) = some 80 ∧ leftOver s = 223) ∧
      (let s := transmitting (.queueHead 2 3) [] 224 []
       (composeData 3 (some 2) 2 1 80 s).isNone = true ∧ (composeData 3 (some 2) 2 4 80 s).isSome = true ∧
         (s.queues[(1 : QueueIx)]) = []) := by decide +kernel

theorem witness_Transmit_heads :
    (let s := transmitting (.queueHead 2 3) [] 224 []
     (unacking []).tx.windowRoom (frame 0).pieces = true ∧ s.nextHop (frame 0) = some 3 ∧ (frame 0).pieces = 1) ∧
      (unacking [{ listed 67 1 0 with marked := true }]).tx.windowRoom 1 = false ∧
      (unacking [{ listed 68 1 0 with marked := true }]).tx.windowRoom 1 = true ∧
      (takeSegments .robust (92 * 16 - 1) 0 0 [listed 7 1 0]).taken = [] ∧
      (takeSegments .robust (92 * 16) 0 0 [listed 7 1 0]).stopped = none ∧
      (takeSegments .robust 9999999 7 0 [listed 7 1 0, listed 8 1 0]).stopped = some (listed 8 1 0) ∧
      (takeSegments .robust 0 8 0 [listed 7 1 0]).stopped = some (listed 7 1 0) := by decide +kernel

theorem witness_SoundPlacement_pairs :
    (∃ p : Pair, (#v[true, false, false] : Vector Bool 3)[p] = true) ∧
      ({ run.estimator with rotation := 1 } : Estimator).choosePair #v[true, false, false] = ⟨0, true⟩ := by decide

theorem witness_RebuildDeadlineTable_builds :
    (∀ b ∈ [BuildState.idle, .building (now - 1#32) Causes.ofInterval
        { cells := SnrSet.fresh, margin := 24, boost := 0, localBands := [], peerBands := none, pairs := Vector.replicate 3 true }],
      ∀ bad ∈ [1, 2],
      let e : Entry := { sampled with
        build := { BuildRecord.fresh with state := b, deadline := some now, boost := 1 }
        rx := { RxState.fresh with window := List.replicate bad false } }
      (holding e).Live ∧ (holding e).Rested ∧ (holding e).entry 3 = some e ∧ e.state = .heard ∧ badCount e.rx.window = bad ∧
        (holding e).roleSlot 3 .rxPending = none ∧ (holding e).roleSlot 3 .rxCurrent = none) ∧
      hasEligible run.settings.pairs sampled.snr = true := by decide +kernel

/-- `linked` with a TX-ACTIVE grid of the peer and a worked tracker, the peer with an offset. -/
def loaded (offset : Option MainsSlot) (trusted : Bool) : State :=
  { holding { peer with offset := { SlotOffset.fresh with held := offset }, peerTrusted := trusted } with
    tracker := workedTracker, pool := run.pool.set 47 (some ⟨3, .txActive, oneColumn 1 144000⟩) }

theorem witness_GridsBuiltAndLoaded_loading :
    (linked.roleGrid 3 .txActive = none ∧ linked.entry 3 = some peer) ∧
      (∀ s ∈ [loaded none true, loaded (some 4) false, loaded (some 4) true],
        s.roleGrid 3 .txActive = some (oneColumn 1 144000) ∧ s.trusted = true) ∧
      (loaded (some 4) true).entry 3 = some { peer with offset := { SlotOffset.fresh with held := some 4 } } ∧
      (run.trusted = false) ∧ (columnSum (oneColumn 1 0).floorColumn = 7680) ∧
      (oneColumn 1 0).columns ≠ [] ∧ (tens 768).length = 768 ∧
      (Loading.robust.segmentBits 480 ≤ (Loading.robust.symbolBits 96).sum) ∧
      (let l := Loading.floor { oneColumn 1 0 with columns := [some (tens 0)] }
       (l.symbolBits 96).sum < l.segmentBits 1) := by decide +kernel

theorem witness_GridsBuiltAndLoaded_reception :
    (∀ f ∈ [false, true],
      let r := { reception 192 (.used { headerOf .data run.settings.station with floor := f } .processed
          (.latched { slot := 47, grid := oneColumn 1 144000 })) with columns := [0] }
      r.columns[0]? = some 0 ∧ (oneColumn 1 144000).columns[0]? = some (some (tens 768))) ∧
      (768 : Nat) ≤ [384, 384].sum := by decide +kernel

/-- The peer as an issuer of a grid whose part 0 is in flight. -/
def issuing (attempts : Nat) (rest : PartPlace) (spent : Bool) : State :=
  let e : Entry := { peer with
    store := { GridRecord.fresh with issue := .sending, parts := [⟨0, .onList, true, attempts⟩, ⟨1, rest, false, 0⟩] }
    build := { BuildRecord.fresh with retrySpent := spent } }
  { holding e with pool := twoGrids, control := [.gridPart 3 1#8 0] }

theorem witness_IssueOutcomes :
    (∀ s ∈ [issuing 4 .accepted false, issuing 5 .onList true, issuing 5 .unplaced false],
      s.roleSlot 3 .rxPending = some 0 ∧ s.pool[(0 : SlotIx)] = some ⟨3, .rxPending, oneColumn 1 9000⟩ ∧ s.control.length < 16) ∧
      (oneColumn 1 9000).tag = 1#8 ∧ run.settings.partRetry = 6 ∧
      (∀ a ∈ [4, 5], ∀ p ∈ [PartPlace.accepted, .onList],
        ((issuing a p false).entry 3).bind (fun e => e.store.parts.find? fun y => y.index == 0 && y.inFlight) =
          some ⟨0, .onList, true, a⟩) ∧
      linked.partInFlight 3 1#8 0 = none ∧ (issuing 4 .accepted false).roleSlot 3 .rxCurrent = some 47 ∧
      (({ linked with pool := run.pool.set 9 (some ⟨3, .rxPending, oneColumn 1 9000⟩) } : State).roleSlot 3 .rxCurrent = none) := by
  decide +kernel

theorem witness_IssueOutcomes_receiver :
    (linked.findEntry wait.receiver = some 3 ∧ linked.entry 3 = some peer ∧ run.findEntry wait.receiver = none) ∧
      (let e := { peer with hold := some (now + 5#32) }
       (holding e).entry 3 = some e ∧ (holding e).findEntry wait.receiver = some 3) ∧
      ({ wait with kind := .grid } : ResponseWait).kind = .grid ∧ wait.kind = .data ∧
      (let s := loaded none true
       s.roleSlot 3 .txActive = some 47 ∧ s.roleGrid 3 .txActive = some (oneColumn 1 144000) ∧ (oneColumn 1 144000).tag ≠ 2#8) ∧
      (let l : Latched := { slot := 0, grid := oneColumn 1 9000 }
       (issuing 4 .accepted false).pool[l.slot] = some { entry := 3, role := .rxPending, grid := l.grid } ∧
         (issuing 4 .accepted false).pool[(47 : SlotIx)] ≠ some { entry := 3, role := .rxPending, grid := l.grid }) := by
  decide +kernel

/-- A part of a grid of two columns. -/
def halfPart (k : Fin 4) : GridPart :=
  { tag := 5#8, k := 2, index := k, pair := 0, map := #v[0, 1, 0, 0, 0, 0], rate := 9000, column := tens 768 }

/-- The grid whose first column has arrived. -/
def halfGrid : Grid :=
  { tag := 5#8, pair := 0, map := #v[0, 1, 0, 0, 0, 0], columns := [some (tens 768), none], rate := 9000, issueTime := now }

/-- `linked` with one slot of the pool held. -/
def pooling (r : Role) (g : Grid) : State := { linked with pool := run.pool.set 0 (some ⟨3, r, g⟩) }

theorem witness_PartsAssembled :
    (let s := { linked with settings := { run.settings with bands := [⟨767, 1, 0⟩] } }
     exceedsCaps s.settings.bands part.column = true ∧ s.roleSlot 3 .txAssembling = none) ∧
      (pooling .txAssembling halfGrid).roleSlot 3 .txAssembling = some 0 ∧
      (pooling .txAssembling { halfGrid with tag := 6#8 }).roleGrid 3 .txActive = none ∧
      (halfPart 1).pair = halfGrid.pair ∧ (halfPart 1).k = halfGrid.columns.length ∧ (halfPart 1).map = halfGrid.map ∧
      (halfPart 1).rate = halfGrid.rate ∧ none ∈ halfGrid.columns.set 0 (some (halfPart 0).column) ∧
      none ∉ halfGrid.columns.set 1 (some (halfPart 1).column) ∧
      (pooling .txActive { halfGrid with columns := [some (tens 768), some (tens 9)] }).roleSlot 3 .txActive = some 0 ∧
      (let s : State := { linked with pool := Vector.replicate 48 (some ⟨4, .txActive, halfGrid⟩) }
       s.roleSlot 3 .txAssembling = none ∧ s.freeSlot = none ∧ s.roleGrid 3 .txActive = none) ∧
      linked.freeSlot = some 0 := by decide +kernel

theorem witness_PartsAssembled_lawful (r : Role) (g : Grid) : PoolLawful (pooling r g).pool :=
  PoolLawful.put 0 _ (fun i j g h hi => by rw [show run.pool = State.reset.pool from rfl, reset_pool_free] at hi; cases hi)
    fun j k _ hk => by rw [show run.pool = State.reset.pool from rfl, reset_pool_free] at hk; cases hk

theorem witness_PartsAssembled_frameEnd :
    let h := headerOf .grid run.settings.station
    let s := receiving { linked with mac := { Mac.reset with duty := some duty } } (ending .grid run.settings.station .processed .robust)
    s.Live ∧ s.Rested ∧ s.lineTime = (now - BitVec.ofNat 32 h.duration).plus (192 + 32 * h.payloadSymbols) ∧
      s.mac.state = .receiving ∧ s.mac.duty = some duty ∧ s.findEntry h.tx = some 3 := by decide

/-- A NOTE from the peer that names this station with a request, the peer, and two more. -/
def peerNote : NotePayload :=
  { relay := true, bands := [⟨0, 1, 0⟩]
    items := [⟨run.settings.station, 9000, some ⟨1, 0b100001#6⟩⟩, ⟨peerAddr, 1, none⟩, ⟨0x66#48, 180000, none⟩, ⟨0x66#48, 1, none⟩] }

set_option maxRecDepth 20000 in
theorem witness_NoteIntake :
    (let h := { headerOf .note Addr.broadcast with symbols := 3 }
     let s := receiving linked (reception 288 (.used h .processed .robust))
     s.Live ∧ s.Rested ∧ s.lineTime = (now - 288#32).plus (192 + 32 * h.symbols) ∧ s.mac.state = .receiving ∧
       s.findEntry h.tx = some 3 ∧ s.entry 3 = some peer) ∧
      readNote 3 (noteBytes peerNote ++ List.replicate 9 0#8) = some peerNote ∧ readNote 3 (List.replicate 72 1#8) = none ∧
      (dropDuplicates peerNote.items).length = 3 ∧
      ((peerNote.items.find? fun y => y.addr == run.settings.station).bind fun y => y.request) = some ⟨1, 0b100001#6⟩ := by
  decide +kernel

theorem witness_NoteNaming :
    ((holding remotePeer).findEntry peerAddr = some 3 ∧ peerAddr ≠ run.settings.station ∧ remotePeer.state = .remote) ∧
      (linked.findEntry peerAddr = some 3 ∧ peer.state ≠ .remote) ∧
      ((fullTable .heard).findEntry peerAddr = none ∧ (fullTable .heard).emptyIndex = none) ∧
      (linked.findEntry 0x66#48 = none ∧ linked.emptyIndex = some 0) := by decide +kernel

theorem witness_AdmissionAndInspection_inspect :
    let record := fun (origin final : Addr) (hop : Nat) =>
      carriageBytes { frame 0 with origin := origin, final := final, hop := hop } ++ List.replicate 64 0#8
    (record peerAddr run.settings.station 1).length = 80 ∧ fieldAt 14 2 (record peerAddr run.settings.station 1) = 64 ∧
      addrAt 0 (record peerAddr run.settings.station 1) = peerAddr ∧ addrAt 6 (record peerAddr run.settings.station 1) = run.settings.station ∧
      (byteAt 13 (record peerAddr run.settings.station 1)).toNat = 3 ∧ addrAt 0 (record run.settings.station peerAddr 0) = run.settings.station ∧
      (byteAt 12 (record 0x66#48 peerAddr 0)).toNat = 0 ∧ (byteAt 12 (record 0x66#48 peerAddr 1)).toNat = 1 ∧
      linked.findEntry (addrAt 6 (record 0x66#48 peerAddr 0)) = some 3 ∧ peer.state = .heard ∧ run.settings.relay = true ∧
      (byteAt 13 ([] : List Byte)).toNat = 0 ∧ run.findEntry peerAddr = none ∧ linked.findEntry peerAddr = some 3 := by
  decide +kernel

theorem witness_HostFrameQueuedOrReplicated_replicated :
    (let b := ethFrame 0xFFFFFFFFFFFF#48 deviceA 0x0800 []
     b.length = 64 ∧ fcsMatches b = true ∧ (ethView b).dst.isGroup = true ∧ (ethView b).etherType ≠ 0x8808 ∧
       (ethView b).dst ≠ run.settings.station ∧ (ethView b).src.isGroup = false) ∧
      run.findDevice deviceB = none ∧ (ethView aToB).src ≠ (ethView aToB).dst ∧
      (mapping .localHost).findDevice deviceB = some 5 ∧ run.findDevice deviceA = none ∧ run.addressMap[(0 : MapIx)] = none ∧
      (let receivers := fun (s : State) => (List.finRange 24).filterMap fun i =>
         (s.entry i).bind fun e => if e.state ≠ .stale ∧ e.route ≠ .noRoute then some e.addr else none
       receivers run = [] ∧ receivers linked = [peerAddr]) ∧
      ((admission (frame 0) linked).1 = true) ∧
      (admission (frame 0) { linked with queues := run.queues.set 2 (List.replicate 32 (frame 0)) }).1 = false := by decide +kernel

theorem witness_Port_requests_waiting :
    (let r : Request := { source := deviceA, tag := 9#16, kind := 1#8, body := .configRead }
     (∀ d ∈ [[], [(⟨[], 64⟩ : Delivered)]],
       let s := porting { Port.reset .rgmii with hold := some now, delivery := d, requests := [r] }
       s.Live ∧ s.Rested ∧ s.port.hold = some s.lineTime ∧ s.port.sending = none ∧ s.port.response = none ∧ s.port.requests ≠ []) ∧
     (∀ d ∈ [[], [(⟨[], 64⟩ : Delivered)]],
       let s := porting { Port.reset .rgmii with
         sending := some .response, response := some (response false), delivery := d, requests := [r] }
       s.Live ∧ s.Rested ∧ s.restartSent = false ∧ s.port.pausePending = none ∧ s.port.hold = none ∧ s.port.requests ≠ [])) ∧
      (let s := porting { Port.reset .rmii with sending := some .delivered, delivery := [⟨[], 64⟩], hold := some (now + 1#32) }
       s.Rested ∧ s.port.sending = some .delivered ∧ s.port.hold ≠ none) ∧
      (let s := { porting { Port.reset .rmii with sending := some .response, response := some (response true) } with
         restart := { run.restart with restarts := 65535 } }
       s.Live ∧ s.port.sending = some .response ∧ s.restart.restarts = 65535) := by decide

theorem witness_RequestsServed_windows :
    (∀ w ∈ [{ windowAt 3 with source := .snr 2 }, windowAt 3],
      (asking (.windowRead w)).Live ∧ (asking (.windowRead w)).Rested ∧ (asking (.windowRead w)).port.requests.map (·.body) = [.windowRead w]) ∧
      linked.entry (Fin.ofNat 24 (windowAt 3).index) = some peer ∧ (windowAt 23).index < 24 ∧ 24 ≤ (windowAt 24).index ∧
      linked.roleGrid (Fin.ofNat 24 (windowAt 3).index) .rxCurrent = none ∧
      (pooling .rxCurrent halfGrid).roleGrid (Fin.ofNat 24 (windowAt 3).index) .rxCurrent = some halfGrid := by decide +kernel

theorem witness_RequestsServed_ranges :
    (∀ k, ((fun _ => List.replicate 1396 0#8 : Nat → List Byte) k).length ≤ 1396) ∧
      (0 : Nat) ≤ min 0 (24 - 1) ∧ min 23 (24 - 1) < 24 ∧ (127 : Nat) ≤ min 200 (128 - 1) :=
  ⟨fun _ => Nat.le_of_eq List.length_replicate, by decide⟩

set_option maxRecDepth 20000 in
/-- R194, R210: a range clipped at the last index, whole: the first index, the number of reports, the next index and the done flag. -/
theorem test_empty_range : (rangeContent run 24 (fun _ => [1#8, 2#8]) 22 99) = [22#8, 2#8, 24#8, 1#8, 1#8, 2#8, 1#8, 2#8] := by
  decide +kernel

/-- R191: the service of a second request of one kind within the microsecond. -/
theorem test_second_service_same_instant : ({ asking .configRead with raised := [.configRead] } : State).fresh = [.configRead] := by decide

/-- R20, R21: where the parts of a frame lie, and a header symbol on the line. -/
theorem test_frame_parts :
    [0, 63, 64, 191, 192, 223, 224].map (framePart 1) =
      [some .preamble, some .preamble, some (.header 0), some (.header 3), some (.payload 0), some (.payload 0), none] ∧
      carrierCentre 0 = 2016 ∧ carrierCentre 767 = 29628 ∧ groupCarriers 191 = [191, 383, 575, 767] := by decide

/-- R19: a column of levels 2, 0 and 1 takes three bits, and a band capped at 0 silences its carriers. -/
theorem test_placing :
    placeBits [2, 0, 1] [true, false, true, true] = [.bits [true, false], .silent, .bits [true]] ∧
      silence [⟨1, 1, 0⟩] [.known, .known, .known] = [.known, .silent, .known] := by decide

theorem witness_HeaderAndLineSignal :
    ∀ k ∈ [FrameKind.data, .grid, .note, .sound],
      let s : State := { run with line := { sending := some (sentNow k), reception := none } }
      s.line.sending = some (sentNow k) ∧ (sentNow k).start.dist s.lineTime = 300 := by decide

theorem witness_SegmentsWalkedAndJoined :
    (∀ r ∈ [{ RxState.fresh with assembling := false }, { RxState.fresh with assembling := true },
        { RxState.fresh with assembling := true, joined := some ⟨List.replicate 1058 0#8, 1088⟩ },
        { RxState.fresh with assembling := true, joined := some ⟨List.replicate 1059 0#8, 1088⟩ }],
      r.expected = none) ∧
      (List.replicate 1058 0#8 ++ List.replicate 480 0#8).length = 1538 ∧
      (let e := { expecting 0 [] with rx := { (expecting 0 []).rx with assembling := false } }
       (holding e).entry 3 = some e ∧ e.rx.expected = some 10#12 ∧ e.rx.reorder = [] ∧ e.rx.joined = none ∧ (holding e).rxCharge = 0 ∧
         (frame 0).eth.length ≤ 1522 ∧ (frame 0).pieces = 1) := by decide +kernel

theorem witness_ControlPayloadsRoundTrip_note :
    (let n : NotePayload := { peerNote with items := peerNote.items.map fun x => { x with rate := 180000 } }
     n.bands.length ≤ 8 ∧ (∀ b ∈ n.bands, b.Lawful) ∧ n.items.length ≤ 23 ∧
       (∀ x ∈ n.items, x.addr ≠ Addr.broadcast ∧ x.rate ≤ Config.maxRate) ∧
       (n.items.all fun x => x.request.all fun q => q.slots != 0#6) = true ∧ 8 + 3 * n.bands.length + 11 * n.items.length ≤ 24 * 3) := by
  decide

/-! ### Witnesses of the clauses on processed headers, the search for a candidate, aging, and the contents of responses -/

theorem witness_HeaderOfStation_processed :
    (∀ h ∈ [headerOf .sound Addr.broadcast, { headerOf .note Addr.broadcast with phase := 444#10 },
        { headerOf .note Addr.broadcast with trusted := false }, headerOf .grid run.settings.station,
        headerOf .data run.settings.station, { headerOf .data run.settings.station with tag := 9#8 }],
      usedHeader ((reception 192 .awaited).headerCopies [(0, .decoded (headerBytes h))]) = some h ∧ h.house = run.settings.house ∧
        h.Addressed run ∧ h.tx ≠ run.settings.station ∧ h.tx ≠ Addr.broadcast) ∧
      (reception 192 .awaited).Samples (headerOf .sound Addr.broadcast) ∧
      ¬(reception 192 .awaited).Samples { headerOf .note Addr.broadcast with trusted := false } ∧
      ¬(reception 192 .awaited).Samples (headerOf .data run.settings.station) ∧
      (∀ k : SlotIx, (run.pool[k]).all (fun g => g.entry != 0) = true) ∧
      ({ run with pool := twoGrids } : State).pool[(0 : SlotIx)] = some ⟨3, .rxPending, oneColumn 1 9000⟩ := by decide +kernel

/-- `linked` in RUNNING with nothing on its control list, and frames in Q3. -/
def queued (e : Entry) (q : List HostFrame) : State := { holding e with queues := run.queues.set 2 q }

/-- The peer with one marked segment of the host frame `id`, NUMBERED with it. -/
def resending (id : Nat) : Entry :=
  { unacking [listed 7 id 0, { listed 8 id 0 with marked := true }] with
    tx := { next := 9#12, numbered := [⟨frame id, 7#12⟩], unacked := [listed 7 id 0, { listed 8 id 0 with marked := true }] } }

theorem witness_PeriodBegins_control :
    (let wants := run.estimator.wants.set 1 ((Vector.replicate 6 0).set 2 1)
     let s : State := { run with estimator := { run.estimator with wants := wants }, control := [.sound 1, .note], tracker := workedTracker }
     s.control = [.sound 1] ++ .note :: [] ∧ s.controlEligible (.sound 1) = false ∧ s.controlEligible .note = true) ∧
      (let e := { peer with store := { nextTag := 2#8, issue := .sending, parts := [⟨0, .onList, true, 0⟩, ⟨1, .onList, false, 0⟩] } }
       let s : State := { holding e with pool := twoGrids }
       s.entry 3 = some e ∧ s.roleGrid 3 .rxPending = some (oneColumn 1 9000) ∧ s.controlEligible (.gridPart 3 1#8 0) = false ∧
         s.controlEligible (.gridPart 3 1#8 1) = true) := by decide +kernel

theorem witness_PeriodBegins_queues :
    (let lost : HostFrame := { frame 7 with final := 0x66#48 }
     let s := queued peer [lost, lost, frame 0]
     s.queues[(2 : QueueIx)] = [lost, lost] ++ [frame 0] ∧ s.findEntry lost.final = none ∧ s.findEntry (frame 0).final = some 3 ∧
       s.nextHop (frame 0) = some 3 ∧ s.entry 3 = some peer ∧ peer.tx.windowRoom (frame 0).pieces = true) ∧
      (let blocked := unacking [listed 67 1 0]
       (queued blocked [frame 0]).entry 3 = some blocked ∧ blocked.tx.windowRoom (frame 0).pieces = false ∧
         ∀ x ∈ blocked.tx.unacked, x.marked = false) ∧
      (let marked := unacking [{ listed 67 1 0 with marked := true }]
       marked.tx.windowRoom (frame 0).pieces = false ∧ ∃ x ∈ marked.tx.unacked, x.marked = true) ∧
      (∀ r ∈ [Route.direct, .via 5, .noRoute], (holding { peer with route := r }).entry 3 = some { peer with route := r }) ∧
      ({ frame 0 with hop := 1 } : HostFrame).hop ≠ 0 ∧ (queued stalePeer []).findEntry peerAddr = some 3 ∧
      run.queues[(2 : QueueIx)] = [] ++ [] := by decide +kernel

theorem witness_PeriodBegins_resends :
    (holding (resending 1)).entry 3 = some (resending 1) ∧
      (resending 1).tx.unacked = [listed 7 1 0] ++ { listed 8 1 0 with marked := true } :: [] ∧
      ((resending 1).tx.numbered.find? fun z => z.frame.id == 1) = some ⟨frame 1, 7#12⟩ ∧
      (∀ j z, (holding (resending 1)).entry j = some z → decide (j = 3) = true) ∧ run.resendCandidate = none :=
  ⟨by decide +kernel, rfl, by decide +kernel, every_entry _ (by decide +kernel), by decide +kernel⟩

/-- R41, R56, R57: a candidate that does not fit at the period start: a SOUND with 959 µs of the allowance left, beside one with 960. -/
theorem witness_PeriodBegins_limited :
    (∀ x ∈ [(959, false), (960, true)],
      let s := { transmitting (.control (.sound 1)) [.sound 1] x.1 [] with mac := Mac.reset, queues := run.queues }
      s.startUp = .running ∧ s.mac.thermalWait = false ∧ s.thermal.limited = true ∧
        (findCandidate s).1 = some ⟨.control (.sound 1), 3⟩ ∧ s.candidateFits ⟨.control (.sound 1), 3⟩ = x.2) ∧
      (∀ n ∈ [223, 224], leftOver (transmitting (.queueHead 2 3) [] n []) = n) ∧
      (transmitting (.queueHead 2 3) [] 224 []).firstOffered 3 (some 2) = some 80 ∧
      (let s := queued peer [frame 0]
       (findCandidate s).1 ≠ none ∧ s.holdsCandidate = false ∧ s.mac.state = .idle ∧ s.startUp = .running ∧
         s.mac.thermalWait = false) := by decide +kernel

/-- `run` with `n` host frames of charge 512 in Q3, the pause state and the transmitter as named. -/
def charged (n : Nat) (on : Bool) (sending : Option HostSending) : State :=
  { run with
    queues := run.queues.set 2 (List.replicate n { frame 0 with eth := List.replicate 464 0#8 })
    port := { Port.reset .rgmii with pauseOn := on, sending := sending } }

set_option maxRecDepth 20000 in
/-- R189: the thresholds 163,840 and 131,072, and the charges beside them. -/
theorem witness_PortTimers_thresholds :
    ([320, 321, 256, 255].map fun n => (charged n false none).txCharge) = [163840, 164352, 131072, 130560] ∧
      (∀ x ∈ [none, some HostSending.response], (charged 0 true x).evalDue = false ∧ (charged 0 true x).settings.pauseEnable = true ∧
        (charged 0 true x).port.pauseOn = true) := by decide +kernel

theorem witness_BuildCompletes_reference :
    (∀ p ∈ [run.pool.set 0 (some ⟨3, .rxPending, oneColumn 0 144000⟩), run.pool.set 47 (some ⟨3, .rxCurrent, oneColumn 1 135529⟩),
        run.pool.set 47 (some ⟨3, .rxCurrent, oneColumn 1 153600⟩)],
      let s : State := { holding (building Causes.ofInterval (snapshot 150)) with pool := p }
      s.Live ∧ s.Rested ∧ (s.reference 3).isSome = true ∧ s.control.length ≤ 12) ∧
      (∀ r ∈ [135529, 153600], r ≤ (max 144000 r - min 144000 r) * 16) ∧
      (∀ r ∈ [135530, 153599], ¬ r ≤ (max 144000 r - min 144000 r) * 16) ∧
      (let s : State := { run with pool := Vector.replicate 48 (some ⟨3, .rxPending, oneColumn 0 144000⟩) }
       s.roleSlot 3 .rxPending = some 0 ∧ (s.pool.set 0 none)[(0 : SlotIx)] = none) ∧
      (building Causes.ofUnknownGrid (snapshot 150)).build.state = .building (now - 1000#32) Causes.ofUnknownGrid (snapshot 150) := by
  decide +kernel

theorem witness_BuildCompletes_remembered :
    ∀ st ∈ [EntryState.heard, .linked, .stale], ∀ c ∈ [Causes.ofInterval, Causes.ofUnknownGrid],
      let b := building Causes.ofInterval (snapshot 150)
      let e := { b with state := st, build := { b.build with remembered := some c } }
      (holding e).Live ∧ (holding e).Rested ∧ (holding e).entry 3 = some e ∧ e.build.remembered = some c ∧
        (∀ (p : Pair) (m : MainsSlot), Cell.old now e.snr[p][m] = false) := by decide +kernel

/-- A cell of three samples whose last lies `n` µs back. -/
def cellOf (n : Nat) : Cell := { count := 3, last := now - BitVec.ofNat 32 n, avgs := List.replicate 768 100 }

/-- R63: 30,000,000 µs back a cell stands, 1 µs more and it is old; the peer with an old cell in the worked slot 2, and on another pair. -/
theorem witness_FrameEndSamplesSound_aged :
    Cell.old now (cellOf 30000000) = false ∧ Cell.old now (cellOf 30000001) = true ∧
      (let worked := (Vector.replicate 6 (cellOf 0)).set 2 (cellOf 30000001)
       let e := { peer with snr := (SnrSet.fresh.set 0 worked).set 1 (Vector.replicate 6 (cellOf 30000001)) }
       let s : State := receiving { holding e with tracker := workedTracker } (ending .sound Addr.broadcast .processed .robust)
       s.Live ∧ s.Rested ∧ s.frameEndDue = true ∧ s.mac.state = .receiving ∧ s.findEntry peerAddr = some 3 ∧ s.entry 3 = some e ∧
         s.trusted = true ∧ e.snr.oldCount now (fun _ _ => true) = 7 ∧
         (let t : State := { s with note := { deadline := some now, placed := false } }
          t.Live ∧ t.Rested ∧ t.note.deadline = some t.lineTime ∧ t.control.length < 16 ∧ .note ∉ t.control)) := by decide +kernel

set_option maxRecDepth 20000 in
/-- R192, R210: bytes of a STATUS response, written from the table of 11.4. -/
theorem test_status_fields :
    let s : State := { porting { Port.reset .rgmii with pauseOn := true, hold := some now } with
      tracker := workedTracker, estimator := { run.estimator with placed := some ⟨1, true⟩ }, control := [.note, .gridPart 3 1#8 0],
      attention := { run.attention with relayDrop := true } }
    Carries (statusContent s) 0 5 0x000F424002 ∧ Carries (statusContent s) 5 3 (0x050000 + 10004) ∧ Carries (statusContent s) 10 1 48 ∧
      Carries (statusContent s) 29 1 1 ∧ Carries (statusContent s) 42 4 0x02010003 ∧ Carries (statusContent s) 52 1 32 := by decide +kernel

/-- An entry with every field of its report present, of 8 bands and 23 reach items. -/
def fullEntry : Entry :=
  { unacking [listed 7 1 0] with
    lastNamed := some now, hold := some now, route := .via 5, peerBands := some (List.replicate 8 ⟨0, 1, 0⟩)
    reach := some (List.replicate 23 { addr := 0x66#48, rate := 9000 })
    build := { BuildRecord.fresh with last := .heldBack 2 4 9000 }, rx := { RxState.fresh with expected := some 9#12 } }

set_option maxRecDepth 20000 in
theorem witness_RequestsServed_reports :
    (let s : State := { holding fullEntry with pool := twoGrids }
     s.entry 3 = some fullEntry ∧ (fullEntry.peerBands.getD []).length = 8 ∧ (fullEntry.reach.getD []).length = 23 ∧
       (stationReport s 3).length = 344 ∧ s.roleSlot 3 .rxCurrent = some 47 ∧ s.roleSlot 3 .txActive = none) ∧
      (∀ i : EntryIx, i ≠ 3 → (holding fullEntry).entry i = none) ∧ (stationReport linked 3).length = 113 ∧
      (mapReport (mapping .localHost) 5).length = 17 ∧ (mapping .localHost).addressMap[(0 : MapIx)] = none ∧
      (List.replicate 8 (⟨0, 1, 0⟩ : Band)).length ≤ 8 ∧ (List.replicate 2000 0#8 : List Byte).length = 2000 := by decide +kernel

/-- A grid of two columns that differ on carriers 766 and 767, slot 4 mapped to the first and slot 5 to the second. -/
def corner : Grid :=
  let column := fun (a b : Level) => List.replicate 766 (0 : Level) ++ [a, b]
  { tag := 5#8, pair := 2, map := #v[1, 1, 1, 1, 0, 1], columns := [some (column 1 2), some (column 3 4)], rate := 9000, issueTime := now }

/-- A window of carriers 766 on and slots 4 on, by extents that pass the ends. -/
def cornerWindow (o : WalkOrder) (resume : Nat) : WindowRequest :=
  { source := .grid .rxCurrent, index := 3, extentMode := true, order := o, carrierStart := 766, carrierStop := 5, slotStart := 4,
    slotStop := 9, resume := resume }

set_option maxRecDepth 20000 in
/-- R198 to R200: the window is clipped to four cells, which each order walks as R199 says; a resume position takes the rest, and one past
the end none. -/
theorem test_window_walk :
    let cells := fun o p => (windowContent (cornerWindow o p) (gridView .rxCurrent corner)).drop 50
    cells ⟨false, false, false⟩ 0 = [1#8, 3#8, 2#8, 4#8] ∧ cells ⟨true, false, false⟩ 0 = [1#8, 2#8, 3#8, 4#8] ∧
      cells ⟨true, true, false⟩ 0 = [2#8, 1#8, 4#8, 3#8] ∧ cells ⟨false, false, true⟩ 0 = [3#8, 1#8, 4#8, 2#8] ∧
      cells ⟨false, false, false⟩ 3 = [4#8] ∧ cells ⟨false, false, false⟩ 9 = [] ∧
      ((windowContent (cornerWindow ⟨false, false, false⟩ 3) (gridView .rxCurrent corner)).drop 4).take 16 =
        [0x02#8, 0xFE#8, 0x02#8, 0xFF#8, 4#8, 5#8, 0#8, 4#8, 0#8, 3#8, 0#8, 1#8, 0#8, 4#8, 1#8, 63#8] := by decide +kernel

/-- A serial memory with a factory block and an image, each closed by its check word; `fields` are memory bytes 21..96. -/
def memoryOf (factory : Addr) (fields : List Byte) : List Byte :=
  let block := addrBytes factory
  let image := [0x5A#8, 0x3C#8, 0#8, 84#8, 1#8] ++ fields ++ [0#8]
  block ++ beBytes 2 (0xFFFF - wordSum block) ++ List.replicate 8 0#8 ++ image ++ beBytes 2 (0xFFFF - wordSum image)

/-- Image fields outside their ranges: no pair, a group address, margin 61, nine bands (the second past carrier 767, the first of width 0 and
cap 11), queues 0 and 7, depth 65, lifetime 9, access priority 4, tier order 6, intervals, duty 95, and limits of 0 and 16. -/
def wildFields : List Byte :=
  [0x01#8] ++ addrBytes 0x010000000001#48 ++ [0#8, 7#8] ++ [61#8, 9#8] ++ beBytes 3 (767 * 2 ^ 14 + 11) ++ beBytes 3 (768 * 2 ^ 14 + 16) ++
    List.replicate 18 0x00#8 ++ [0x07#8, 0x12#8, 0x34#8, 0x56#8, 7#8] ++
    (List.replicate 6 [65#8, 0#8, 9#8, 4#8]).flatten ++ [6#8, 0b101#8] ++ beBytes 2 249 ++ beBytes 2 2001 ++
    [0#8, 95#8, 0#8, 16#8, 0#8, 16#8]

set_option maxRecDepth 20000 in
/-- R204, R205: what is taken from that image, by the third column of the table of R205, and the number of fields replaced. -/
theorem test_image_taken :
    let m := memoryOf 0x0200000000F1#48 wildFields
    let c := loadSettings m
    m.length = 100 ∧ imageValid m = true ∧ factoryValid m = true ∧ c.station = 0x0200000000F1#48 ∧ c.addrSource = .factory ∧
      c.relay = true ∧ c.pauseEnable = false ∧ c.pairs = #v[true, false, false] ∧ c.house = 7#16 ∧ c.margin = 60 ∧
      c.bands = ⟨767, 1, 10⟩ :: List.replicate 6 ⟨0, 1, 0⟩ ∧ c.defaultQueue = 2 ∧ c.vlan = #v[2, 2, 0, 1, 2, 3, 4, 5] ∧
      c.queues = Vector.replicate 6 ⟨64, 10, 3⟩ ∧ c.tierOrder = 0 ∧ c.leads = #v[true, false, true] ∧ c.noteMs = 250 ∧ c.soundMs = 2000 ∧
      c.rebuildS = 1 ∧ c.dutyPercent = 90 ∧ c.holdPeriods = 1 ∧ c.deferralLimit = 15 ∧ c.segmentRetry = 1 ∧ c.partRetry = 15 ∧
      c.clamped = 1 + 1 + 1 + (1 + 2 + 1 + 6) + 1 + 2 + 18 + 1 + 1 + 1 + 1 + 1 + 1 + 1 + 1 + 1 := by decide +kernel

set_option maxRecDepth 20000 in
theorem witness_StartUpSequence_image :
    (let m := memoryOf 0#48 (wildFields.set 1 0x02#8)
     100 ≤ m.length ∧ imageValid m = true ∧ factoryValid m = false ∧ (loadSettings m).addrSource = .image) ∧
      imageValid (List.replicate 100 0xFF#8) = false ∧ (loadSettings (List.replicate 100 0xFF#8)).addrSource = .fallback := by
  decide +kernel

theorem witness_HeaderAndLineSignal_reception :
    (headerOf .sound Addr.broadcast).kind = .sound ∧ (headerOf .sound Addr.broadcast).pair ≠ 1 ∧
      (∀ f ∈ [false, true],
        let r := { reception 224 (.used { headerOf .data run.settings.station with floor := f } .processed (.latched latched)) with
          columns := [0] }
        r.header = .used { headerOf .data run.settings.station with floor := f } .processed (.latched latched) ∧
          r.columns.length = [List.replicate 768 ([] : List Int)].length) ∧
      (∀ k ∈ [FrameKind.grid, .resp, .note, .data],
        let r := reception 224 (.used (headerOf k run.settings.station) .processed .robust)
        r.header = .used (headerOf k run.settings.station) .processed .robust) ∧
      ([2, 0, 1] : Column)[2]? = some 1 ∧ 0 < (1 : Level).bits := by decide +kernel

/-! ### Witnesses of the clauses on routes, builds, triggers, the address map, a RESP overheard and a NOTE held back -/

/-- The entries of the worked sequence: relays at 2 and 7 with these reach lists, and the destination `d` at 5. -/
def routed (d : Entry) (p q : List ReachItem) : Vector (Option Entry) 24 :=
  let relayTo := fun (items : List ReachItem) => { peer with relay := true, reach := some items }
  ((run.table.set 2 (some (relayTo p))).set 5 (some d)).set 7 (some (relayTo q))

/-- The direct rates of that sequence, with `r` for the destination. -/
def routedRates (r : Nat) (i : EntryIx) : Nat := if i = 2 then 80000 else if i = 5 then r else if i = 7 then 50000 else 0

/-- R136, R137: trunc(80000 * 60000 / 140000) = 34285 and trunc(50000 * 70000 / 120000) = 29166; a tie of two vias goes to the lower. -/
theorem witness_RouteChoiceIsStable_cases :
    (∀ r ∈ [Route.direct, .via 2, .via 7, .via 9], ∀ st ∈ [EntryState.heard, .stale],
      let d : Entry := { peer with addr := 0xD#48, state := st, route := r }
      (routed d [⟨0xD#48, 60000⟩] [⟨0xD#48, 70000⟩])[(5 : EntryIx)] = some d ∧
      ViaBest (routed d [⟨0xD#48, 60000⟩] [⟨0xD#48, 70000⟩]) (routedRates 20000) 2 5 34285 ∧
      ViaValid (routed d [⟨0xD#48, 60000⟩] [⟨0xD#48, 70000⟩]) (routedRates 20000) 7 5 29166) ∧
      (let d : Entry := { peer with addr := 0xD#48 }
       ViaBest (routed d [⟨0xD#48, 50000⟩] [⟨0xD#48, 80000⟩]) (routedRates 20000) 2 5 30769) ∧
      (16 * 25000 = 20 * 20000 ∧ 20 * 20000 < 16 * 25001) ∧
      let d : Entry := { peer with addr := 0xD#48, route := .via 2 }
      (∀ p r, ¬ViaValid (routed d [⟨0xD#48, 0⟩] []) (routedRates 20000) p 5 r) := by
  refine ⟨fun r hr st hs => ⟨rfl, bestVia_some.1 ?_, viaRate_iff.1 ?_⟩, bestVia_some.1 (by decide +kernel), by decide, bestVia_none.1 (by decide +kernel)⟩
  · revert st; revert r; decide +kernel
  · revert st; revert r; decide +kernel

theorem witness_RecomputedRoutesAreValid_cases :
    let s := fun (d : Entry) => { run with table := routed d [⟨0xD#48, 60000⟩] [] }
    (let d : Entry := { peer with addr := 0xD#48, state := .stale }
     ((recompute (s d)).entry 5).map (·.route) = some (.via 2)) ∧
      (let d : Entry := { peer with addr := 0xE#48, state := .stale }
       ((recompute (s d)).entry 5).map (·.route) = some .noRoute) ∧
      (recompute (s { peer with addr := 0xD#48, hold := some now })).directRate 5 = 0 ∧
      (recompute (s { peer with addr := 0xD#48 })).directRate 5 = 6000 ∧ run.entry 0 = none := by decide +kernel

/-- A column of 768 carriers at one level. -/
def level (l : Level) : Column := List.replicate 768 l

/-- R88, R89: four columns of which one passes, a slot that passes none with three and with four. Sums by hand: 768 a bit. -/
theorem test_place :
    (let g : MergeState := { columns := [⟨level 2, 1⟩, ⟨level 1, 2⟩], map := [0, 1, 1] }
     g.place (level 1) = { columns := [⟨level 2, 1⟩, ⟨level 1, 3⟩], map := [0, 1, 1, 1] }) ∧
      (let g : MergeState := { columns := [⟨level 1, 1⟩, ⟨level 2, 1⟩, ⟨level 3, 1⟩], map := [0, 1, 2] }
       (g.place (level 7)).map = [0, 1, 2, 3] ∧ (g.place (level 7)).columns.length = 4) ∧
      (let g : MergeState := { columns := [⟨level 1, 1⟩, ⟨level 2, 1⟩, ⟨level 4, 1⟩, ⟨level 7, 1⟩], map := [0, 1, 2, 3] }
       g.place (level 5) = { columns := [⟨level 1, 1⟩, ⟨level 2, 1⟩, ⟨level 4, 2⟩, ⟨level 7, 1⟩], map := [0, 1, 2, 3, 2] }) := by
  decide +kernel

theorem witness_GridsBuiltAndLoaded_builds :
    (let x := snapshot 150
     eligiblePair x.pairs x.cells 1 = true ∧ eligiblePair x.pairs x.cells 0 = false ∧ x.total 1 = 36864 ∧
       (x.cells[(1 : Pair)][(0 : MainsSlot)]).avgs[767]? = some 150) ∧
      ((snapshot 39).total 1 = 0 ∧ (snapshot 40).total 1 = 4608) ∧
      (let x := { snapshot 150 with localBands := [⟨0, 768, 7⟩], peerBands := some [⟨0, 768, 5⟩] }
       ((x.vectors 1)[(0 : MainsSlot).val]?.bind fun v => v[0]?) = some 4) := by decide +kernel

/-- R78, R80, R96: an error trigger at boost 30 raises it to 32 and starts a forced build without the decay; a running build remembers it. -/
theorem witness_FrameEndAnswersRefusal_trigger :
    (∀ st ∈ [EntryState.heard, .linked, .stale],
      let e := { peer with state := st, build := { BuildRecord.fresh with boost := 30 } }
      (holding e).entry 3 = some e ∧ e.build.state = .idle ∧
        (((trigger 3 Causes.ofError (holding e)).entry 3).map fun x => x.build.boost) = some (if st = .stale then 30 else 32) ∧
        (trigger 3 Causes.ofError (holding e)).count .buildsForced = if st = .stale then 0 else 1) ∧
      (let e := building Causes.ofInterval (snapshot 150)
       (holding e).entry 3 = some e ∧ e.build.state = .building (now - 1000#32) Causes.ofInterval (snapshot 150) ∧
         (((trigger 3 Causes.ofError (holding e)).entry 3).bind fun x => x.build.remembered) = some Causes.ofError) := by decide +kernel

theorem witness_FrameEndOpensGap_resp :
    ∀ f ∈ [FilterCase.overheard, .foreign, .clash],
      let s := receiving run (ending .resp 0x55#48 f .robust)
      s.Live ∧ s.Rested ∧ s.mac.state = .receiving ∧ f ≠ .processed ∧ (headerOf .resp 0x55#48).kind = .resp ∧
        s.lineTime = (now - BitVec.ofNat 32 (headerOf .resp 0x55#48).duration).plus (192 + 32 * (headerOf .resp 0x55#48).payloadSymbols) := by
  decide

/-- `run` with all 128 map entries held, 7 and 9 the oldest, and device B at index `i`. -/
def fullMap (i : MapIx) : State :=
  let held := fun (k : MapIx) =>
    let age : BitVec 32 := if k = 7 ∨ k = 9 then 100#32 else 0#32
    let device : Addr := if k = i then deviceB else BitVec.ofNat 48 (4096 + k.val)
    ({ device := device, target := .station peerAddr, learned := now - age } : MapEntry)
  { run with addressMap := Vector.ofFn fun k => some (held k) }

set_option maxRecDepth 20000 in
/-- R180: of two equally old entries the lower index is the oldest. -/
theorem witness_HostFrameQueuedOrReplicated_full :
    (∀ i ∈ [(7 : MapIx), 8], (fullMap i).Live ∧ (fullMap i).Rested ∧ (fullMap i).findDevice deviceB = some i ∧
      (fullMap i).findDevice deviceA = none ∧ (∀ j : MapIx, (fullMap i).addressMap[j] ≠ none) ∧ (fullMap i).oldestMap = 7 ∧
      ∀ j : MapIx, j ≠ i → ((fullMap i).addressMap[j]).map (·.device) ≠ some deviceB) := by decide +kernel

theorem oldest_of {s : State} {k : MapIx} (h : s.oldestMap = k) (hf : ∀ j : MapIx, s.addressMap[j] ≠ none) : s.MapOldest k :=
  h ▸ oldestMap_oldest hf

theorem witness_AdmissionAndInspection_full :
    (∀ i ∈ [(7 : MapIx), 8], (fullMap i).findDevice deviceA = none ∧ (fullMap i).MapOldest 7) ∧
      (mapping (.station 0x66#48)).findDevice deviceB = some 5 :=
  ⟨fun i hi =>
    have h := witness_HostFrameQueuedOrReplicated_full i hi
    ⟨h.2.2.2.1, oldest_of h.2.2.2.2.2.1 h.2.2.2.2.1⟩, by decide +kernel⟩

/-- R140, R57: a NOTE on the list that does not fit at its transmit instant: the old cells are aged and counted, and the thermal wait set. -/
theorem test_note_held_back :
    let e := { peer with snr := SnrSet.fresh.set 0 (Vector.replicate 6 (cellOf 30000001)) }
    let s := fun (left : Nat) =>
      { transmitting (.control .note) [.note] left [] with table := run.table.set 3 (some e) }
    (∀ left ∈ [223, 224], (s left).thermal.limited = true ∧ leftOver (s left) = left ∧ .note ∈ (s left).control ∧
      (transmit (s left)).count .cellsAged = 6 ∧ (((transmit (s left)).entry 3).map fun x => x.snr == SnrSet.fresh) = some true) ∧
      (transmit (s 223)).mac.thermalWait = true ∧ (transmit (s 223)).line.sending = none ∧
      (transmit (s 224)).mac.state = .sending := by decide +kernel

/-! ### Witnesses of the clauses on events that are due, tags, waits, caps and room on the control list -/

/-- Parts at the instant of an event of their own timing, and the event: of the tracker, the MAC, an entry, a frame, the map and the port. -/
def dueNow : List (State × Instr) :=
  [(tracked { workedTracker with lastCrossing := some (now - 10404#32) }, .windowExpiry),
    (accessing { Mac.reset with state := .deferring, gap := some (.response now) }, .gapDeadline),
    (holding { peer with lastHeard := some (now - 15000000#32) }, .entryAgingDeadline 3),
    ({ run with queues := run.queues.set 2 [{ frame 7 with expiry := now }] }, .frameExpiry 7),
    ({ run with addressMap := run.addressMap.set 5 (some ⟨deviceB, .localHost, now - 300000000#32⟩) }, .mapAging 5),
    (porting { Port.reset .rmii with pauseOn := true, refresh := some now }, .pauseRefresh)]

set_option maxRecDepth 20000 in
/-- R1: each event is raised at its instant, and not 1 µs before it. -/
theorem witness_IdleStepRaisesOrAdvances_due :
    ∀ x ∈ dueNow, x.2 ∈ x.1.fresh ∧ x.2 ∉ ({ x.1 with lineTime := now - 1#32 } : State).fresh := by decide +kernel

/-- R1: an event is not raised a second time at its instant. -/
theorem witness_IdleStepRaisesOrAdvances_raised :
    ({ accessing { Mac.reset with state := .deferring, gap := some (.quiet now) } with raised := [.gapDeadline] } : State).fresh = [] ∧
      (atBoundary false 0 false .idle .running).boundaryDue = true := by decide +kernel

/-- R191: a request is served with the response buffer empty, and waits while it is full. -/
theorem witness_IdleStepRaisesOrAdvances_service :
    (asking .restart).fresh = [.restart] ∧ (asking (.status 0x40#8)).fresh = [.status] ∧
      (asking (.status 1#8)).fresh = [.attentionClear] ∧
      (porting { (asking .restart).port with response := some (response false) }).fresh = [] := by decide +kernel

/-- R12, R13: with a last crossing and no H the phase runs over 10,000 µs; past the expected crossing the projection wraps; with no last
crossing both are at their ends. -/
theorem witness_PhaseRunsFromCrossing_all :
    (let k : Tracker := { Tracker.reset with lastCrossing := some now }
     k.h = none ∧ ([0, 9990, 9991, 10000].map fun n => k.phase (now.plus n)) = [0, 1022, 1023, 1023] ∧ k.projectedPhase (now.plus 10000) = 0) ∧
      (let k : Tracker := { workedTracker with h := some 9600 }
       ([9600, 14400, 19199].map fun n => (k.projectedPhase (LineTime.plus 81018#32 n), (k.projectedSlot (LineTime.plus 81018#32 n)).val)) =
         [(0, 0), (512, 3), (1023, 5)]) ∧
      (Tracker.reset.lastCrossing = none ∧ Tracker.reset.phase now = 1023 ∧ Tracker.reset.slot now = 5) := by decide

/-- R23: the copy of the lowest pair that is readable is used, whatever the order in which the copies are given. -/
theorem witness_HeaderNotUsed_copies :
    let h := headerOf .note Addr.broadcast
    let k := { headerOf .sound Addr.broadcast with pair := 1 }
    (usedHeader [(0, badCopy), (1, malformedCopy)] = none ∧ usedHeader [(0, badCopy), (1, malformedCopy), (2, headerBytes h)] = some h ∧
      usedHeader [(1, headerBytes k), (2, headerBytes h)] = some k) ∧
      (((reception 192 .awaited).headerCopies [(2, .decoded (headerBytes h)), (0, .decoded badCopy), (1, .decoded (headerBytes k))]).map
        fun x => x.1) = [0, 1, 2] := by decide +kernel

/-- R110: a tag of 0, one of each grid of the entry, one of neither, one with another pair, and one of a station without an entry. -/
theorem witness_HeaderOfKnownStation_tags :
    let s := { linked with pool := twoGrids }
    let h := fun (tag : Byte) (p : Pair) => { headerOf .data run.settings.station with tag := tag, pair := p }
    s.resolveTag (h 0 0) = .robust ∧ s.resolveTag (h 2 0) = .latched { slot := 47, grid := { oneColumn 0 9000 with tag := 2#8 } } ∧
      s.resolveTag (h 1 1) = .latched { slot := 0, grid := oneColumn 1 9000 } ∧ s.resolveTag (h 1 0) = .unresolved ∧
      s.resolveTag (h 3 0) = .unresolved ∧ ({ run with pool := twoGrids } : State).resolveTag (h 0 0) = .unresolved ∧
      s.findEntry peerAddr = some 3 ∧ s.roleSlot 3 .rxCurrent = some 47 ∧ s.roleSlot 3 .rxPending = some 0 := by decide +kernel

/-- R159 to R163: the verdicts of a frame with a damaged and two intact segments, the second of them the one expected. -/
theorem witness_FrameEndAnswersRefusal_takeData :
    let s := holding (expecting 1 [])
    let r := takeData 3 10#12 [.damaged 9#12, .intact 50#12 true true [0#8], .intact 10#12 true false [0#8]] s
    s.entry 3 = some (expecting 1 []) ∧ r.1 = [false, true, true] ∧ r.2.count .damagedSegments = 1 ∧
      ((r.2.entry 3).map fun e => (e.rx.expected, e.rx.reorder.map (·.seq), e.rx.window)) =
        some (some 12#12, [50#12], [false, true, true]) := by decide +kernel

/-- R161: nothing to deliver before the first floor and with the segment expected not stored. -/
theorem witness_FrameEndAnswersRefusal_deliver :
    (let e := { expecting 1 [] with rx := { (expecting 1 []).rx with expected := none } }
     (holding e).entry 3 = some e ∧ e.rx.expected = none) ∧
      ((holding (expecting 1 [])).entry 3 = some (expecting 1 []) ∧ ∀ x ∈ (expecting 1 []).rx.reorder, x.seq ≠ 10#12) ∧
      (let e := { expecting 2 [] with rx := { (expecting 2 []).rx with expected := some 11#12 } }
       (holding e).entry 3 = some e ∧ ((deliverAll 3 (holding e)).entry 3).bind (·.rx.expected) = some 13#12) := by decide +kernel

/-- R39, R49, R50: a wait after DATA and one after a GRID part, with and without a frame in flight, and a duty with and without a RESP. -/
theorem witness_FrameEndResolvesWait_outcomes :
    (∀ k ∈ [FrameKind.data, .grid],
      let w : ResponseWait := { wait with kind := k }
      ∀ y ∈ [none, some { entry := 3, seqs := [7#12], tag := 2#8 }],
        let s := { awaiting peerAddr (reception 500 .failed) with mac := { Mac.reset with state := .awaitingResponse, wait := some w }, inFlight := y }
        s.mac.wait = some w ∧ w.kind = k ∧ s.inFlight = y ∧ (noResponseOutcome s).count .noResponse = 1) ∧
      (∀ b ∈ [some accepted, none], (accessing { Mac.reset with duty := some { duty with resp := b } }).mac.duty = some { duty with resp := b }) ∧
      (accessing Mac.reset).mac.duty = none ∧
      (∀ k ∈ [FrameKind.data, .grid, .sound, .note],
        let r := ending k run.settings.station .processed .robust
        let s := receiving linked r
        s.Live ∧ s.line.reception = some r ∧ s.mac.state ≠ .awaitingResponse ∧
          s.lineTime = r.frameStart.plus (192 + 32 * (headerOf k run.settings.station).payloadSymbols)) ∧
      (linked.inFlight = none ∧ (segmentResponse [true, false] linked).count .ignoredEntries = 2) := by decide +kernel

/-- R133, R134: the seventh and the eighth no-response send, without and with the hold set, and the last streak. -/
theorem witness_ResponseWaitRunsOut_streak :
    (∀ n ∈ [6, 7, 255],
      let e := { peer with streak := n }
      (holding e).entry 3 = some e ∧ ((noResponseSend 3 (holding e)).entry 3).map (·.streak) = some (min 255 (n + 1)) ∧
        (noResponseSend 3 (holding e)).count .directHolds = if n = 6 then 0 else 1) ∧
      (let e := { peer with streak := 7, hold := some (now + 5#32) }
       (noResponseSend 3 (holding e)).count .directHolds = 0 ∧ (holding e).entry 3 = some e) := by decide +kernel

/-- R60: a SOUND with the tracker untrusted in the receive stamp, at the frame end, and one of a STALE entry and of no entry. -/
theorem witness_FrameEndSamplesSound_untrusted :
    let r := ending .sound Addr.broadcast .processed .robust
    (∀ x ∈ [(linked, true), ({ linked with tracker := workedTracker }, false), (holding stalePeer, true), (run, true)],
      let s := receiving x.1 { r with stampTrusted := x.2 }
      s.Live ∧ s.Rested ∧ s.line.reception = some { r with stampTrusted := x.2 } ∧ s.mac.state = .receiving ∧
        s.lineTime = r.frameStart.plus (192 + 32 * (headerOf .sound Addr.broadcast).symbols)) ∧
      linked.trusted = false ∧ ({ linked with tracker := workedTracker } : State).trusted = true ∧ linked.findEntry peerAddr = some 3 ∧
      (holding stalePeer).findEntry peerAddr = some 3 ∧ stalePeer.state = .stale ∧ run.findEntry peerAddr = none := by decide +kernel

/-- A sender of grid parts whose list holds 16 entries, a NOTE among them, with its first part unplaced. -/
def crowded (first : PartPlace) : State :=
  let e : Entry := { peer with store := { GridRecord.fresh with issue := .sending, parts := [⟨0, first, false, 0⟩, ⟨1, .unplaced, false, 0⟩] } }
  { holding e with
    pool := twoGrids, control := .note :: List.replicate 15 (.sound 0)
    line := { sending := some (sentNow .note), reception := none } }

/-- R105, R178: a list that held 16 when its NOTE leaves; the lowest unplaced part is then offered, and the part after it once more room is
there. -/
theorem witness_SentFrameEnds_room :
    (let s := crowded .unplaced
     s.Live ∧ s.Rested ∧ s.line.sending = some (sentNow .note) ∧ s.lineTime = (sentNow .note).stop ∧ .note ∈ s.control ∧ s.control.length = 16 ∧
       (leaveControl (fun c => c == .note) s).control = List.replicate 15 (.sound 0) ++ [.gridPart 3 1#8 0] ∧
       (leaveControl (fun c => c.isSound) s).control = [.note, .gridPart 3 1#8 0, .gridPart 3 1#8 1]) ∧
      (∀ p ∈ [PartPlace.unplaced, .onList, .accepted],
        ((crowded p).entry 3).isSome = true ∧ (crowded p).roleGrid 3 .rxPending = some (oneColumn 1 9000)) ∧
      ((leaveControl (fun c => c == .note) { crowded .unplaced with control := .note :: List.replicate 14 (.sound 0) }).control.length = 14) ∧
      (run.entry 3 = none ∧ (holding peer).roleGrid 3 .rxPending = none) ∧ (∀ x ∈ [ControlEntry.note], (x == .sound 0) = false) := by
  decide +kernel

/-- R56, R148: a SOUND with 960 µs left; a window of 32 and of 33; and the counters of a composition that 4 symbols shorten. -/
theorem witness_Transmit_counters :
    (let s := transmitting (.control (.sound 1)) [.sound 1] 960 []
     s.mac.candidate = some { kind := .control (.sound 1), priority := 2 } ∧ .sound 1 ∈ s.control ∧ s.thermal.limited = true ∧
       960 ≤ leftOver s ∧ (transmit s).line.sending.isSome = true ∧ (transmit s).count (.framesSent .sound) = 1) ∧
      (∀ x ∈ [(0, true), (68, true), (67, false)],
        (unacking (if x.1 = 0 then [] else [listed x.1 1 0])).tx.windowRoom 1 = x.2) ∧
      (let u := [{ listed 7 1 0 with marked := true }, { listed 8 1 1 with marked := true }]
       let s := transmitting (.resends 3) [] 224 u
       s.entry 3 = some (unacking u) ∧
         (∀ x ∈ [(4, 1, 0, 1), (96, 1, 1, 0)],
           ((composeData 3 none 2 x.1 80 s).map fun r =>
             [r.2.count .segmentsSent, r.2.count .segmentsResent, r.2.count .thermalShortening]) =
               some [BitVec.ofNat 32 x.2.1, BitVec.ofNat 32 x.2.2.1, BitVec.ofNat 32 x.2.2.2])) := by decide +kernel

/-- `run` with a last sound and a control list. -/
def sounded (l : Option LineTime) (control : List ControlEntry) : State :=
  { run with control := control, estimator := { run.estimator with lastSound := l } }

/-- R69: a want with no last sound, one 20,000 µs back and one 19,999 µs; and with the list full. -/
theorem witness_SoundPlacement_wants :
    ((wantAttempt (sounded none (List.replicate 15 .note))).estimator.placed = some ⟨0, true⟩ ∧
        (wantAttempt (sounded (some (now - 20000#32)) [])).estimator.placed = some ⟨0, true⟩) ∧
      (wantAttempt (sounded (some (now - 20000#32)) (List.replicate 16 .note))).count .placedSoundRefusal = 1 ∧
      (wantAttempt (sounded (some (now - 19999#32)) [])).estimator.placed = none := by decide +kernel

/-- `run` with pair 0 placed and wanted in slot 0 alone, in its slot 5. -/
def wanted : State :=
  { run with estimator := { run.estimator with
      wants := run.estimator.wants.set 0 ((Vector.replicate 6 0).set 0 1), placed := some ⟨0, false⟩ } }

/-- R67, R71: a request that makes the placed pair eligible, and one that does not. -/
theorem witness_SoundPlacement_eligible :
    (soundRequested (some 0) ⟨0, 0b100000#6⟩ wanted).evalDue = true ∧
      (soundRequested (some 0) ⟨0, 0b000010#6⟩ wanted).evalDue = false := by decide +kernel

/-- R85, R113: "Worked caps": a column at the caps of carriers 410 and 430, and one a level above each; a cap of 0 and no cap. -/
theorem witness_PartsAssembled_caps :
    let bands : List Band := [⟨400, 40, 6⟩, ⟨420, 100, 5⟩, ⟨600, 10, 0⟩]
    let at_ := fun (k : Nat) (l : Level) => (level 0).set k l
    (∀ x ∈ [(410, (5 : Level)), (430, 4), (605, 0), (700, 7)], exceedsCaps bands (at_ x.1 x.2) = false) ∧
      (∀ x ∈ [(410, (6 : Level)), (430, 5), (605, 1)], exceedsCaps bands (at_ x.1 x.2) = true) := by decide +kernel

/-- R176: a part whose evaluation is due. -/
theorem witness_PortTimers_evaluation : ({ run with evalDue := true } : State).evalDue = true := rfl

/-- R54, R57: a boundary that ends the thermal wait of an IDLE station, with the guard COOL and with a hold of 1, 2 and 255, in RUNNING and in
LISTENING. -/
theorem witness_DutyBoundaryTable_wait :
    (∀ su ∈ [StartUp.running, .listening], ∀ x ∈ [(false, 0), (true, 1), (true, 2), (true, 255)],
      let s := atBoundary x.1 x.2 true .idle su
      s.Live ∧ s.Rested ∧ s.lineTime = s.thermal.nextBoundary ∧ s.startUp ≠ .loading ∧ s.mac.thermalWait = true ∧ s.mac.state = .idle) ∧
      (dutyBoundaryEffect true (atBoundary false 0 true .idle .running)).mac.thermalWait = false ∧
      (dutyBoundaryEffect true (atBoundary false 0 true .idle .running)).attention.thermalLimited = true := by decide +kernel

/-- R53, R206: a lock in LISTENING and a load completion in LOCKED, of a station that is IDLE and of one that is not. -/
theorem witness_StartUpSequence_running :
    ∀ st ∈ [MacState.idle, .receiving],
      (let s := { seeking 9600 (some 10000) 7 with startUp := .listening, mac := { Mac.reset with state := st } }
       s.Live ∧ s.Rested ∧ s.tracker.state = .seeking ∧ s.tracker.lockCount = 7 ∧ seekDistance s = some 9600 ∧ s.mac.state = st) ∧
      (let s := { held .holdover .synthetic 9600 1 3 with startUp := .listening, mac := { Mac.reset with state := st } }
       s.Live ∧ s.Rested ∧ s.tracker.lawful = true ∧ fromExpected s = some (-400) ∧ s.mac.state = st) ∧
      (let s : State := { State.reset with tracker := workedTracker, mac := { Mac.reset with state := st } }
       s.Live ∧ s.Rested ∧ s.startUp = .loading ∧ s.tracker.state = .locked ∧ s.mac.state = st) := by decide +kernel

/-- R210: the bodies that a request's bytes spell, each kind one byte short and at its shortest, and the coded arguments of a WINDOW READ at
the ends of their ranges. -/
theorem witness_HostFramesEndingAtPort_requests :
    let body := fun (d : List Byte) => (readRequest { dst := deviceB, src := deviceA, vlan := none, etherType := 0x88B5, data := d }).body
    let window := fun (source role mode order : Byte) (rest : List Byte) =>
      body ([0#8, 9#8, 4#8, source, 5#8, role, mode, order, 1#8, 2#8, 3#8, 4#8, 6#8, 7#8, 8#8] ++ rest)
    let reads := fun (x : WindowSource) (mode : Bool) (o : WalkOrder) => RequestBody.windowRead
      { source := x, index := 5, extentMode := mode, order := o, carrierStart := 258, carrierStop := 772, slotStart := 6, slotStop := 7,
        resume := 2057 }
    ([[0, 9, 1], [0, 9, 2], [0, 9, 3, 4], [0, 9, 5, 4], [0, 9, 0, 1], [0, 9, 8, 1]].map body = List.replicate 6 .malformed) ∧
      ([[0, 9, 1, 255], [0, 9, 2, 0], [0, 9, 2, 5], [0, 9, 3, 23, 24], [0, 9, 5, 127, 1], [0, 9, 6], [0, 9, 7]].map body =
        [.status 255, .counters false, .counters true, .stationTable 23 24, .addressMap 127 1, .configRead, .restart]) ∧
      ([window 0 0 0 0 [], window 0 4 0 0 [9], window 1 3 0 0 [9], window 2 0 0 0 [9], window 0 0 2 0 [9], window 0 0 0 8 [9]] =
        List.replicate 6 .malformed) ∧
      ([window 0 0 0 1 [9], window 0 1 1 2 [9], window 0 2 0 4 [9], window 0 3 0 7 [9], window 1 2 1 0 [9]] =
        [reads (.grid .rxCurrent) false ⟨true, false, false⟩, reads (.grid .rxPending) true ⟨false, true, false⟩,
          reads (.grid .txActive) false ⟨false, false, true⟩, reads (.grid .txAssembling) false ⟨true, true, true⟩,
          reads (.snr 2) true ⟨false, false, false⟩]) := by decide +kernel

/-- R186: a frame of 64 bytes with the VLAN tag of priority 7, and one without a tag. -/
theorem witness_HostFramesEndingAtPort_view :
    (let b : List Byte := addrBytes deviceB ++ addrBytes deviceA ++ [0x81, 0x00, 0xE0, 0x05, 0x08, 0x00] ++ List.replicate 42 1#8 ++ [0, 0, 0, 0]
     b.length = 64 ∧ ethView b = { dst := deviceB, src := deviceA, vlan := some 7, etherType := 0x0800, data := List.replicate 42 1#8 }) ∧
      ethView aToB = { dst := deviceB, src := deviceA, vlan := none, etherType := 0x0800, data := List.replicate 46 1#8 } := by
  decide +kernel

/-- R188, R189, R191, R210: what the transmitter sends: nothing, a full pause, a response without content and one with 47 bytes, and a
delivered frame. -/
theorem witness_HostTransmissionEnds_output :
    let presents := fun (x : Option HostSending) =>
      (porting { Port.reset .rmii with
        sending := x, response := some { response false with content := List.replicate 47 5#8, status := .noGrid }, delivery := [⟨aToB, 64⟩] }).hostOutput
    presents none = none ∧ presents (some .delivered) = some aToB ∧
      (presents (some (.pause 0xFFFF#16))).map (fun b => (b.take 20, b.length)) =
        some ([0x01, 0x80, 0xC2, 0x00, 0x00, 0x01] ++ addrBytes run.settings.station ++ [0x88, 0x08, 0x00, 0x01, 0xFF, 0xFF, 0x00, 0x00], 64) ∧
      (presents (some .response)).map (fun b => (b.take 21, b.length)) =
        some (addrBytes deviceA ++ addrBytes run.settings.station ++ [0x88, 0xB5, 0x00, 0x09, 0x01, 0x03, 0x00, 0x2F, 0x05], 71) := by
  decide +kernel

/-- R203: each flag alone asserts ATTN in LISTENING and RUNNING; none does in LOADING or while a reset holds the part. -/
theorem witness_StatusAndCountersServed_attn :
    let none_ := State.reset.attention
    ∀ a ∈ [{ none_ with configDefault := true }, { none_ with trackerUntrusted := true }, { none_ with poolExhausted := true },
        { none_ with thermalLimited := true }, { none_ with tableFull := true }, { none_ with relayDrop := true }],
      ({ run with attention := a } : State).attn = true ∧ ({ run with attention := a, startUp := .listening } : State).attn = true ∧
        ({ State.reset with attention := a } : State).attn = false ∧ ({ run with attention := a, held := some .pin } : State).attn = false ∧
        run.attn = false := by decide

/-- R177: a list of 15 and of 16, and the entries that stand against another. -/
theorem witness_SentFrameEnds_takes :
    let list := fun (l : List ControlEntry) => ({ run with control := l } : State)
    (list (List.replicate 15 (.gridPart 3 1#8 0))).controlTakes .note = true ∧
      (list (List.replicate 16 (.gridPart 3 1#8 0))).controlTakes .note = false ∧ (list [.note]).controlTakes .note = false ∧
      (list [.sound 1]).controlTakes (.sound 0) = false ∧ (list [.gridPart 3 1#8 0]).controlTakes (.gridPart 3 1#8 0) = false ∧
      (list [.gridPart 3 1#8 0]).controlTakes (.gridPart 3 1#8 1) = true ∧ (list [.gridPart 3 1#8 0]).controlTakes (.gridPart 3 2#8 0) = true ∧
      (list [.gridPart 3 1#8 0]).controlTakes (.gridPart 4 1#8 0) = true := by decide

/-- A list of 16, the first of it part 0 of entry 3's issue, with part 0 of entry 7's issue unplaced. -/
def brimming (e : Entry) : State :=
  let other : Entry := { peer with addr := 0x77#48, store := { GridRecord.fresh with issue := .sending, parts := [⟨0, .unplaced, false, 0⟩] } }
  { run with
    table := (run.table.set 3 (some e)).set 7 (some other)
    pool := twoGrids.set 5 (some ⟨7, .rxPending, oneColumn 1 9000⟩)
    control := .gridPart 3 1#8 0 :: List.replicate 15 (.sound 0) }

/-- R178: the parts that an outcome, a removal or a replacement takes off a list of 16 leave room for the part of another issue. -/
theorem witness_EntryDeadlines_room :
    (∀ e ∈ [stalePeer, remotePeer],
      let s := brimming e
      s.Live ∧ s.Rested ∧ s.entry 3 = some e ∧ s.agingDue 3 = true ∧ s.control.length = 16) ∧
      ((brimming stalePeer).leftBy 3).control = List.replicate 15 (.sound 0) ++ [.gridPart 7 1#8 0] ∧
      (((brimming stalePeer).leftBy 3).entry 7).map (·.store.parts) = some [⟨0, .onList, false, 0⟩] ∧
      (let s := receiving { fullTable .stale with control := .gridPart 23 1#8 0 :: List.replicate 15 (.sound 0) } (reception 192 .awaited)
       s.Live ∧ s.Rested ∧ s.findEntry peerAddr = none ∧ s.control.length = 16 ∧ (s.leftBy 23).control = List.replicate 15 (.sound 0)) := by
  decide +kernel

/-- R107 to R109, R112: an issue whose part in flight stands on a list of 16; taken, it promotes or leaves the others, and at the retry limit
it is abandoned. -/
theorem witness_IssueOutcomes_room :
    let e := fun (attempts : Nat) (rest : PartPlace) =>
      { peer with store := { GridRecord.fresh with issue := .sending, parts := [⟨0, .onList, true, attempts⟩, ⟨1, rest, false, 0⟩] } }
    (∀ x ∈ [e 4 .accepted, e 5 .accepted, e 5 .onList],
      let s := brimming x
      s.entry 3 = some x ∧ s.roleSlot 3 .rxPending = some 0 ∧ s.pool[(0 : SlotIx)] = some ⟨3, .rxPending, oneColumn 1 9000⟩ ∧
        (x.store.parts.find? fun y => y.index == 0 && y.inFlight).isSome = true) ∧
      (∀ st ∈ [RespStatus.accepted, .noRoom, .capConflict],
        (partAnswered (some (.gridPart 3 1#8 0)) st (brimming (e 5 .accepted))).control =
          List.replicate 15 (.sound 0) ++ [.gridPart 7 1#8 0]) := by decide +kernel

/-- R104, R105: a grid of two columns issued with a list of 16, of 15 and of 13, the old grid pending and not. -/
theorem witness_BuildCompletes_room :
    let b : BuiltGrid := { pair := 1, map := #v[0, 1, 0, 0, 0, 0], columns := [tens 768, tens 768], rate := 144000 }
    let at_ := fun (n : Nat) (pool : Vector (Option HeldGrid) 48) =>
      { holding (building Causes.ofInterval (snapshot 150)) with pool := pool, control := List.replicate n (.sound 0) }
    (∀ n ∈ [13, 15, 16], ∀ p ∈ [twoGrids, run.pool],
      (at_ n p).Live ∧ (at_ n p).Rested ∧ (at_ n p).control.length = n ∧
        (issueGrid 3 b (at_ n p)).control = List.replicate n (.sound 0) ++
          ([.gridPart 3 (if (at_ n p).roleSlot 3 .rxPending = none then 1#8 else 3#8) 0,
            .gridPart 3 (if (at_ n p).roleSlot 3 .rxPending = none then 1#8 else 3#8) 1].take (16 - n))) := by decide +kernel

end Sys2Proof.Tests
end

/-! ## Proofs: the mains tracker

Line times at a span from one another, the half-cycle filter, what a ZC edge does in each class, and the statements of R3, R5, R7 and R8. -/

section

/-! ### Line times at a span from one another -/

namespace Sys2Proof

theorem LineTime.plus_plus (c : LineTime) (a b : Nat) : (c.plus a).plus b = c.plus (a + b) := by
  unfold LineTime.plus
  rw [BitVec.add_assoc, ← BitVec.ofNat_add]

theorem LineTime.dist_plus (c : LineTime) {n : Nat} (h : n < 2 ^ 32) : c.dist (c.plus n) = n := by
  unfold LineTime.dist LineTime.plus
  rw [BitVec.add_comm, BitVec.add_sub_cancel, BitVec.toNat_ofNat, Nat.mod_eq_of_lt h]

/-- A line time is not reached again within one turn of the counter. -/
theorem LineTime.ne_plus (c : LineTime) {n : Nat} (h0 : 0 < n) (h : n < 2 ^ 32) : c ≠ c.plus n := by
  intro e
  have hd := LineTime.dist_plus c h
  rw [← e, LineTime.dist, BitVec.sub_self] at hd
  exact absurd hd (Nat.ne_of_lt h0)

/-- The signed offset between two instants less than half a turn after a third. -/
theorem LineTime.offset_plus_plus (c : LineTime) {a b : Nat} (ha : a < 2 ^ 31) (hb : b < 2 ^ 31) :
    (c.plus a).offset (c.plus b) = (b : Int) - a := by
  have hsmall : ∀ z : Int, -2 ^ 31 ≤ z → z < 2 ^ 31 → z.bmod (2 ^ 32) = z := fun z h1 h2 =>
    Int.bmod_eq_of_le (by omega) (by omega)
  have hdiff : (c + BitVec.ofNat 32 b) - (c + BitVec.ofNat 32 a) = BitVec.ofNat 32 b - BitVec.ofNat 32 a := by bv_omega
  unfold LineTime.offset LineTime.plus
  rw [hdiff, BitVec.toInt_sub, BitVec.toInt_ofNat', BitVec.toInt_ofNat', hsmall a (by omega) (by omega),
    hsmall b (by omega) (by omega), hsmall _ (by omega) (by omega)]

end Sys2Proof

namespace Sys2Proof.Machine

/-! ### The half-cycle filter (R3) -/

/-- R3: the step of the filter, in the rule's words: a quarter of the difference truncated toward zero, and 1 toward the interval where that
is 0 and there is a difference. -/
def filterStep (h i : Nat) : Int :=
  let q : Int := ((i : Int) - h).tdiv 4
  if q = 0 then (if h < i then 1 else if i < h then -1 else 0) else q

/-- The filter adds its step and holds the result within the range. -/
theorem filterH_eq_step (h i : Nat) :
    (filterH h i : Int) =
      if (h : Int) + filterStep h i < 7500 then 7500 else if (h : Int) + filterStep h i > 11000 then 11000 else h + filterStep h i := by
  have hsign : ((i : Int) - h).sign = if h < i then 1 else if i < h then -1 else 0 := by
    rcases Nat.lt_trichotomy h i with hlt | rfl | hgt
    · rw [if_pos hlt, Int.sign_eq_one_of_pos (by omega)]
    · simp
    · rw [if_neg (Nat.lt_asymm hgt), if_pos hgt, Int.sign_eq_neg_one_of_neg (by omega)]
  unfold filterH filterStep Config.halfCycleMin Config.halfCycleMax
  dsimp only
  rw [hsign]
  omega

theorem filterStep_self (i : Nat) : filterStep i i = 0 := by
  simp [filterStep]

/-- Toward a longer interval the filter steps up by 1 at least, and not past it. -/
theorem filterStep_of_lt {h i : Nat} (hlt : h < i) : 1 ≤ filterStep h i ∧ filterStep h i ≤ (i : Int) - h := by
  unfold filterStep
  rw [Int.tdiv_eq_ediv_of_nonneg (by omega), if_pos hlt]
  dsimp only
  omega

/-- Toward a shorter interval the filter steps down by 1 at least, and not past it. -/
theorem filterStep_of_gt {h i : Nat} (hgt : i < h) : filterStep h i ≤ -1 ∧ (i : Int) - h ≤ filterStep h i := by
  unfold filterStep
  rw [← Int.neg_sub, Int.neg_tdiv, Int.tdiv_eq_ediv_of_nonneg (by omega), if_neg (Nat.lt_asymm hgt), if_pos hgt]
  dsimp only
  omega

/-- The distance that is left between an estimate and a measured interval. -/
def filterGap (h i : Nat) : Nat := ((i : Int) - h).natAbs

theorem filterGap_eq_zero {h i : Nat} : filterGap h i = 0 ↔ h = i := by
  unfold filterGap; omega

/-- One filtering toward an interval within the range leaves a smaller gap, until there is none. -/
theorem filterGap_filterH_le {h i : Nat} (h1 : 7500 ≤ i) (h2 : i ≤ 11000) : filterGap (filterH h i) i ≤ filterGap h i - 1 := by
  have hf := filterH_eq_step h i
  unfold filterGap
  rcases Nat.lt_trichotomy h i with hlt | rfl | hgt
  · have hstep := filterStep_of_lt hlt
    omega
  · rw [filterStep_self] at hf
    omega
  · have hstep := filterStep_of_gt hgt
    omega

/-- After `m` intervals of one length within the range, the gap has shrunk by `m`. -/
theorem filterGap_repeat_le {i : Nat} (h1 : 7500 ≤ i) (h2 : i ≤ 11000) (h m : Nat) :
    filterGap (Nat.repeat (fun x => filterH x i) m h) i ≤ filterGap h i - m := by
  induction m with
  | zero => exact Nat.le_refl _
  | succ m ih =>
    calc filterGap (filterH (Nat.repeat (fun x => filterH x i) m h) i) i
        ≤ filterGap (Nat.repeat (fun x => filterH x i) m h) i - 1 := filterGap_filterH_le h1 h2
      _ ≤ filterGap h i - m - 1 := Nat.sub_le_sub_right ih 1

/-- Settles O10: the filter adds the clamped step of R3, and the gap to a steady interval within the range shrinks to 0. -/
theorem halfCycleFilter : Obligations.HalfCycleFilter := by
  refine ⟨filterH_eq_step, fun h i h1 h2 => ⟨filterGap h i, fun m hm => ?_⟩⟩
  have hgap := filterGap_repeat_le h1 h2 h m
  exact filterGap_eq_zero.1 (by omega)

/-! ### The record: expected crossing, class of an edge, and what an edge does -/

section
variable {t : Tracker} {c x now : LineTime} {h : Nat}

theorem Tracker.expected_of (hc : t.lastCrossing = some c) (hh : t.h = some h) : t.expected = some (c.plus h) := by
  simp [Tracker.expected, hc, hh]

/-- LOCKED stands on a real crossing with both counts 0. -/
theorem Tracker.lawful_locked (hw : t.lawful = true) (hs : t.state = .locked) :
    t.lastKind = .real ∧ t.missCount = 0 ∧ t.disturbedCount = 0 := by
  simp only [Tracker.lawful, hs, Bool.and_eq_true, decide_eq_true_eq] at hw
  obtain ⟨-, -, -, hkind, hmiss, hdisturbed⟩ := hw
  exact ⟨hkind, hmiss, hdisturbed⟩

theorem Tracker.classify_agreeing (h1 : -400 ≤ x.offset now) (h2 : x.offset now ≤ 400) : t.classify x now = .agreeing :=
  if_pos ⟨h1, h2⟩

/-- R6: an early edge after a real crossing is a glitch. -/
theorem Tracker.classify_early_of_real (hd : x.offset now < -400) (hk : t.lastKind = .real) : t.classify x now = .glitch := by
  unfold Tracker.classify Config.crossingWindow
  dsimp only
  rw [if_neg (by omega), if_pos (by omega), if_neg (by simp [hk])]

/-- R6: an early edge after a synthetic crossing is disturbed when it lies a half-cycle of the range after the last edge. -/
theorem Tracker.classify_early_of_proper {e : LineTime} (hd : x.offset now < -400) (hk : t.lastKind = .synthetic)
    (he : t.lastEdge = some e) (h1 : 7500 ≤ e.dist now) (h2 : e.dist now ≤ 11000) : t.classify x now = .disturbed := by
  unfold Tracker.classify Config.crossingWindow
  dsimp only
  rw [if_neg (by omega), if_pos (by omega), if_pos ⟨hk, by simp [he, h1, h2, Config.halfCycleMin, Config.halfCycleMax]⟩]

/-- R8: in LOCKED the window expires at X + 400 and at no other instant. -/
theorem Tracker.expiryDue_locked_iff (hs : t.state = .locked) (he : t.expected = some x) :
    t.expiryDue now = true ↔ now = x.plus 400 := by
  simp [Tracker.expiryDue, hs, he, Config.crossingWindow]

/-- At the instant of its last crossing LOCKED has no window to expire. -/
theorem Tracker.expiryDue_locked_of_crossed_now (hs : t.state = .locked) (hc : t.lastCrossing = some now) (hh : t.h = some h)
    (hmax : h ≤ 11000) : t.expiryDue now = false := by
  refine Bool.eq_false_iff.2 fun hdue => ?_
  have hnow := (Tracker.expiryDue_locked_iff hs (Tracker.expected_of hc hh)).1 hdue
  rw [LineTime.plus_plus] at hnow
  exact LineTime.ne_plus now (by omega) (by omega) hnow

/-- R7: the record after an agreeing edge in LOCKED, with H filtered. -/
theorem Tracker.crossing_locked_agreeing (hw : t.lawful = true) (hs : t.state = .locked) (hc : t.lastCrossing = some c) (hh : t.h = some h)
    (hk : t.classify (c.plus h) now = .agreeing) :
    t.crossing now =
      ({ t with h := some (filterH h (c.dist now)), lastCrossing := some now, lastKind := .real }, false) := by
  obtain ⟨-, hmiss, hdisturbed⟩ := Tracker.lawful_locked hw hs
  simp [Tracker.crossing, hs, Tracker.expected_of hc hh, hk, Tracker.agree, hc, hh, hmiss, hdisturbed]

theorem Tracker.crossing_locked_glitch (hs : t.state = .locked) (he : t.expected = some x) (hk : t.classify x now = .glitch) :
    t.crossing now = (t, true) := by
  simp [Tracker.crossing, hs, he, hk]

/-- R9: a disturbed edge in HOLDOVER short of the fourth. -/
theorem Tracker.crossing_holdover_disturbed (hs : t.state = .holdover) (he : t.expected = some x)
    (hk : t.classify x now = .disturbed) (hn : t.disturbedCount < 3) :
    t.crossing now = ({ t with disturbedCount := t.disturbedCount + 1 }, true) := by
  simp [Tracker.crossing, hs, he, hk]
  omega

/-- R4: an edge in SEEKING with no reference, or more than 11,000 µs after it, is a new reference with lock count 0. -/
theorem Tracker.crossing_seeking_restart (hs : t.state = .seeking) (hc : ∀ ref, t.lastCrossing = some ref → 11000 < ref.dist now) :
    t.crossing now = ({ t with lastCrossing := some now, lastKind := .real, lockCount := 0 }, false) := by
  have hseek : t.seekCrossing now = (t.takeReference now t.h 0, false) := by
    unfold Tracker.seekCrossing
    cases hl : t.lastCrossing with
    | none => rfl
    | some ref =>
      have hlate := hc ref hl
      have hmin : ¬ref.dist now < Config.halfCycleMin := by unfold Config.halfCycleMin; omega
      exact (if_neg hmin).trans (if_pos hlate)
  simp [Tracker.crossing, hs, hseek, Tracker.takeReference]

end

/-! ### The commands of the tracker -/

section
variable {s : State}

/-- R11: the attention flag is raised only when trust is lost. -/
theorem setTracker_of_trust_kept {r : Tracker} (h : s.tracker.trusted = true → r.trusted = true) :
    setTracker r s = { s with tracker := r } := by
  unfold setTracker
  cases hs : s.tracker.trusted with
  | false => rfl
  | true => simp [h hs]

/-- A ZC edge that neither loses trust nor enters LOCKED: the record is written with the last edge, a glitch is counted, and at rest
nothing follows. -/
theorem exec_zcCrossing_of_crossing {r : Tracker} {g : Bool} (hl : s.Live) (hr : s.Rested)
    (hc : s.tracker.crossing s.lineTime = (r, g)) (htrust : s.tracker.trusted = true → r.trusted = true)
    (hlock : r.state = .locked → s.tracker.state = .locked) :
    exec .zcCrossing s =
      let t : State := { s with tracker := { r with lastEdge := some s.lineTime } }
      .next (if g then bump .zcGlitches t else t) := by
  have hset : setTracker { r with lastEdge := some s.lineTime } s = { s with tracker := { r with lastEdge := some s.lineTime } } :=
    setTracker_of_trust_kept htrust
  have heffect : crossingEffect s =
      if g then bump .zcGlitches { s with tracker := { r with lastEdge := some s.lineTime } }
      else { s with tracker := { r with lastEdge := some s.lineTime } } := by
    unfold crossingEffect
    dsimp only
    rw [hc, hset, if_neg (by simpa using hlock)]
  calc exec .zcCrossing s
      = .next (settled crossingEffect s) := whenLive_of_live hl _
    _ = _ := congrArg _ (settled_eq heffect (by split <;> exact hr) (by split <;> exact txCharge_congr rfl rfl))

theorem exec_referenceDrop_of_due (hl : s.Live) (hd : s.tracker.dropDue s.lineTime = true) :
    exec .referenceDrop s = .next (dropReference s) :=
  live_due (b := fun s => s.tracker.dropDue s.lineTime) hl hd

theorem exec_windowExpiry_of_due (hl : s.Live) (hd : s.tracker.expiryDue s.lineTime = true) :
    exec .windowExpiry s = .next (expireWindow s) :=
  live_due (b := fun s => s.tracker.expiryDue s.lineTime) hl hd

theorem exec_windowExpiry_of_not_due (hl : s.Live) (hd : s.tracker.expiryDue s.lineTime = false) :
    exec .windowExpiry s = .next s := by
  calc exec .windowExpiry s
      = .next (whenDue (s.tracker.expiryDue s.lineTime) expireWindow s) := whenLive_of_live hl _
    _ = .next s := by rw [hd]; rfl

/-- R7: the answer to an agreeing edge in LOCKED. -/
theorem exec_zcCrossing_locked_agreeing {c : LineTime} {h : Nat} (hl : s.Live) (hr : s.Rested) (hw : s.tracker.lawful = true)
    (hs : s.tracker.state = .locked) (hc : s.tracker.lastCrossing = some c) (hh : s.tracker.h = some h)
    (h1 : -400 ≤ (c.plus h).offset s.lineTime) (h2 : (c.plus h).offset s.lineTime ≤ 400) :
    exec .zcCrossing s = .next { s with tracker := { s.tracker with
      h := some (filterH h (c.dist s.lineTime)), lastCrossing := some s.lineTime, lastKind := .real,
      lastEdge := some s.lineTime } } :=
  exec_zcCrossing_of_crossing hl hr (Tracker.crossing_locked_agreeing hw hs hc hh (Tracker.classify_agreeing h1 h2)) id fun _ => hs

/-- R4: the answer to an edge in SEEKING with no reference, or more than 11,000 µs after it. -/
theorem exec_zcCrossing_seeking_restart (hl : s.Live) (hr : s.Rested) (hs : s.tracker.state = .seeking)
    (hc : ∀ ref, s.tracker.lastCrossing = some ref → 11000 < ref.dist s.lineTime) :
    exec .zcCrossing s = .next { s with tracker := { s.tracker with
      lastCrossing := some s.lineTime, lastKind := .real, lastEdge := some s.lineTime, lockCount := 0 } } :=
  exec_zcCrossing_of_crossing hl hr (Tracker.crossing_seeking_restart hs hc) id id

end

/-! ### The statements -/

/-- Settles O14: the drop leaves SEEKING with no reference, and an edge at that instant restarts with or without the drop, since 11,001 µs
is past the longest half-cycle. -/
theorem referenceDropped : Obligations.ReferenceDropped := by
  intro s ref hl hr hs hc hd t
  have hdue : s.tracker.dropDue s.lineTime = true := by simp [Tracker.dropDue, hs, hc, hd]
  have hdrop : dropReference s = t := setTracker_of_trust_kept id
  have hlate : ∀ r, s.tracker.lastCrossing = some r → 11000 < r.dist s.lineTime := fun r e => by
    cases hc.symm.trans e
    omega
  have hbefore := exec_zcCrossing_seeking_restart hl hr hs hlate
  have hafter := exec_zcCrossing_seeking_restart (s := t) hl hr hs nofun
  exact ⟨hdrop ▸ exec_referenceDrop_of_due hl hdue, fun _ => rfl, hafter.trans hbefore.symm, hafter⟩

/-- Settles O12, by the class of the edge. -/
theorem crossingInLocked : Obligations.CrossingInLocked := by
  intro s c h hl hr hw hs hc hh k now d
  obtain ⟨hreal, -, -⟩ := Tracker.lawful_locked hw hs
  refine ⟨fun h1 h2 => ⟨_, exec_zcCrossing_locked_agreeing hl hr hw hs hc hh h1 h2, rfl, hs, rfl⟩, fun hearly => ?_⟩
  exact exec_zcCrossing_of_crossing hl hr
    (Tracker.crossing_locked_glitch hs (Tracker.expected_of hc hh) (Tracker.classify_early_of_real hearly hreal)) id fun _ => hs

/-- Settles O15: with the instants written as spans after the last crossing, the expiry falls on X + 400, an edge there agrees, the next
expiry lies a filtered H and 400 µs on, and after the expiry the edge lies h - 400 µs before the new expected crossing. -/
theorem expiryInLocked : Obligations.ExpiryInLocked := by
  intro s c h hl hr hw hs hc hh hnow t
  obtain ⟨hmin, hmax⟩ := Tracker.h_range hw h hh
  have hexp := Tracker.expected_of hc hh
  have hspan : s.lineTime = c.plus (h + 400) := hnow.trans (LineTime.plus_plus c h 400)
  have hexpire : expireWindow s = t := by
    have hrec : s.tracker.expire = t.tracker := by simp [Tracker.expire, hs, hexp, t]
    unfold expireWindow
    rw [hrec]
    exact setTracker_of_trust_kept fun _ => rfl
  refine ⟨?_, ?_, ?_, ?_⟩
  · exact hexpire ▸ exec_windowExpiry_of_due hl ((Tracker.expiryDue_locked_iff hs hexp).2 hnow)
  · exact Tracker.expected_of rfl hh
  · have hoffset : (c.plus h).offset s.lineTime = 400 := by
      rw [hspan, LineTime.offset_plus_plus c (by omega) (by omega)]; omega
    have hanswer := exec_zcCrossing_locked_agreeing hl hr hw hs hc hh (by omega) (by omega)
    obtain ⟨-, hf⟩ := filterH_range h (c.dist s.lineTime)
    refine ⟨_, hanswer, hs, rfl, exec_windowExpiry_of_not_due hl ?_⟩
    exact Tracker.expiryDue_locked_of_crossed_now hs rfl rfl hf
  · intro hedge hle
    have hoffset : ((c.plus h).plus h).offset s.lineTime < -400 := by
      rw [hspan, LineTime.plus_plus, LineTime.offset_plus_plus c (by omega) (by omega)]; omega
    have hdist : c.dist s.lineTime = h + 400 := by rw [hspan, LineTime.dist_plus c (by omega)]
    have hclass : t.tracker.classify ((c.plus h).plus h) s.lineTime = .disturbed :=
      Tracker.classify_early_of_proper hoffset rfl hedge (by omega) (by omega)
    have hcross := Tracker.crossing_holdover_disturbed (t := t.tracker) rfl (Tracker.expected_of rfl hh) hclass (Nat.zero_lt_succ 2)
    exact exec_zcCrossing_of_crossing (s := t) hl hr hcross (fun _ => rfl) nofun

end Sys2Proof.Machine
end

/-! ## Proofs: the queue of commands and the invariants

What a step is: a command at the front of the queue, or a tick. Every bound that a command keeps in its own state it keeps in the state
that a reset leaves too, and a tick writes none of the fields that a bound reads. -/

section

namespace Sys2Proof.Machine

/-! ### Lists and conditionals

What core Lean has under no name. -/

section
variable {α β : Type}

theorem ite_of_iff {γ : Sort _} {p q : Prop} [Decidable p] [Decidable q] {x y u v : γ} (h : p ↔ q) (hx : x = u) (hy : y = v) :
    (if p then x else y) = if q then u else v :=
  ite_congr (propext h) (fun _ => hx) fun _ => hy

theorem map_getD (l : List α) (d : α) (f : α → β) (n : Nat) : (l.map f).getD n (f d) = f (l.getD n d) := by
  rw [List.getD_eq_getElem?_getD, List.getElem?_map, Option.getD_map, List.getD_eq_getElem?_getD]

theorem ofFn_eq_finRange_map {n : Nat} (f : Fin n → α) : List.ofFn f = (List.finRange n).map f :=
  (List.map_ofFn (f := fun i => i) (g := f)).symm

theorem getElem_cons_eraseIdx {l : List α} {k : Nat} (h : k < l.length) : (l[k] :: l.eraseIdx k).Perm l := by
  have hsplit : l = l.take k ++ l[k] :: l.drop (k + 1) := by rw [List.getElem_cons_drop h, List.take_append_drop]
  rw [List.eraseIdx_eq_take_drop_succ]
  exact List.perm_middle.symm.trans (.of_eq hsplit.symm)

theorem sum_le_of_each {l : List Nat} {b : Nat} (h : ∀ n ∈ l, n ≤ b) : l.sum ≤ l.length * b := by
  induction l with
  | nil => exact Nat.zero_le _
  | cons n l ih =>
    have htail := ih fun k hk => h k (List.mem_cons_of_mem n hk)
    have hhead := h n List.mem_cons_self
    rw [List.sum_cons, List.length_cons, Nat.succ_mul]
    omega

/-- Induction on a list from its front to its end. -/
theorem snoc_induction {P : List α → Prop} (nil : P []) (snoc : ∀ l x, P l → P (l ++ [x])) (l : List α) : P l := by
  have hreversed : ∀ l : List α, P l.reverse := fun l => by
    induction l with
    | nil => exact nil
    | cons x l ih =>
      rw [List.reverse_cons]
      exact snoc _ _ ih
  exact List.reverse_reverse l ▸ hreversed l.reverse

end

theorem pair_cases (p : Pair) : p = 0 ∨ p = 1 ∨ p = 2 := by
  revert p
  decide

/-! ### A step is a command or a tick -/

/-- Settles O1: the queue is taken from its front. -/
theorem stepTakesFront : Obligations.StepTakesFront := by
  intro c rest s h
  simp only [step, h]

theorem step_of_empty {s : State} (h : s.pending = []) : step s = .next (tick s) := by
  simp only [step, h]

/-- What holds after every tick and every command from a state with `P` holds after every step. -/
theorem step_cases {P : State → Prop} {s t : State} (ht : P (tick s))
    (hc : ∀ (c : Instr) (rest : List Instr), s.pending = c :: rest → ∀ u, exec c { s with pending := rest } = .next u → P u)
    (hstep : step s = .next t) : P t := by
  cases hp : s.pending with
  | nil =>
    rw [step_of_empty hp] at hstep
    cases hstep
    exact ht
  | cons c rest => exact hc c rest hp t (stepTakesFront c rest s hp ▸ hstep)

/-- A tick writes the line time and the model's own fields alone. -/
theorem tick_fields (s : State) :
    ∃ now pending raised draws, tick s = { s with lineTime := now, pending := pending, raised := raised, draws := draws } := by
  unfold tick
  split
  · exact ⟨_, _, _, _, rfl⟩
  · dsimp only
    split
    · exact ⟨_, _, _, _, rfl⟩
    · exact ⟨_, _, _, _, rfl⟩

/-! ### Resets -/

/-- A command either answers a next state with `Kept`, or is a reset's begin, a reset's end, or a RESTART reset. -/
theorem exec_keeps_or_resets (c : Instr) (s : State) :
    Keeps s (exec c s) ∨ (∃ k, exec c s = .next (beginReset k s)) ∨ ∃ k b u, exec c s = .next (finishReset k b u) := by
  by_cases hpower : c = .powerReset
  · exact .inr (.inl ⟨.power, hpower ▸ rfl⟩)
  by_cases hpin : c = .pinReset
  · exact .inr (.inl ⟨.pin, hpin ▸ rfl⟩)
  by_cases hend : ∃ b, c = .resetEnd b
  · obtain ⟨b, rfl⟩ := hend
    cases hheld : s.held with
    | none => exact .inl ⟨s, by simp [exec, execResetEnd, endReset, hheld], .refl s⟩
    | some k => exact .inr (.inr ⟨k, b, s, by simp [exec, execResetEnd, endReset, hheld]⟩)
  by_cases hsent : ∀ b, c = .hostTxDone b → s.restartSent = false
  · exact .inl (exec_keeps c s hpower hpin (not_exists.1 hend) hsent)
  · simp only [Classical.not_forall, Bool.not_eq_false] at hsent
    obtain ⟨b, rfl, hrestart⟩ := hsent
    show Keeps s (whenLive s fun s => whenDue s.port.sending.isSome (hostTxEnd b) s) ∨ _ ∨
      ∃ k b' u, whenLive s (fun s => whenDue s.port.sending.isSome (hostTxEnd b) s) = .next (finishReset k b' u)
    unfold whenLive whenDue
    split
    · exact .inl ⟨s, rfl, .refl s⟩
    · dsimp only
      split
      · exact .inr (.inr ⟨.restart, b, txDone s, congrArg _ (hostTxEnd_restart b hrestart)⟩)
      · exact .inl ⟨s, rfl, .refl s⟩

/-- A property that commands keep below the resets, that every reset establishes, and that a tick does not touch, every step keeps. -/
theorem step_keeps {P : State → Prop} {s t : State} (hkept : ∀ {u v : State}, Kept u v → P u → P v)
    (hbegin : ∀ k u, P (beginReset k u)) (hfinish : ∀ k b u, P (finishReset k b u))
    (hown : ∀ u now pending raised draws, P u →
      P { u with lineTime := now, pending := pending, raised := raised, draws := draws })
    (hs : P s) (hstep : step s = .next t) : P t := by
  refine step_cases ?_ (fun c rest hp u hu => ?_) hstep
  · obtain ⟨now, pending, raised, draws, htick⟩ := tick_fields s
    exact htick ▸ hown s now pending raised draws hs
  · have hrest : P { s with pending := rest } := hown s s.lineTime rest s.raised s.draws hs
    rcases exec_keeps_or_resets c { s with pending := rest } with ⟨v, hv, hk⟩ | ⟨k, hv⟩ | ⟨k, b, w, hv⟩
    · cases hv.symm.trans hu
      exact hkept hk hrest
    · cases hv.symm.trans hu
      exact hbegin k _
    · cases hv.symm.trans hu
      exact hfinish k b w

/-! ### The reset state -/

theorem poolLawful_reset : PoolLawful State.reset.pool := by
  intro i j g h hi
  simp [State.reset] at hi

theorem settings_default_lawful : Settings.default.Lawful := by decide

/-- Settles O4, field by field. -/
theorem resetMeetsInvariants : Obligations.ResetMeetsInvariants :=
  ⟨⟨rfl, reset_port_rested _⟩, rfl, rfl, rfl, ⟨fun _ => rfl, nofun⟩, settings_default_lawful,
    ⟨Nat.zero_le 16, Nat.zero_le 4⟩, poolLawful_reset⟩

/-! ### The invariants -/

/-- Settles O5: every command leaves a part at rest at rest, and a tick writes neither the indicator's mark nor the port. -/
theorem stepKeepsRest : Obligations.StepKeepsRest := by
  intro s t hs hstep
  refine step_cases ?_ (fun c rest _ u hu => ?_) hstep
  · obtain ⟨now, pending, raised, draws, htick⟩ := tick_fields s
    exact htick ▸ hs
  · obtain ⟨v, hv, hrested⟩ := exec_rests c (s := { s with pending := rest }) hs
    cases hv.symm.trans hu
    exact hrested

/-- Settles O6. -/
theorem stepKeepsBackoffBound : Obligations.StepKeepsBackoffBound := fun _ _ =>
  step_keeps (P := fun s => s.mac.bounded = true) Kept.mac (fun _ _ => rfl) (fun _ _ _ => rfl) fun _ _ _ _ _ => id

/-- Settles O7. -/
theorem stepKeepsTracker : Obligations.StepKeepsTracker := fun _ _ =>
  step_keeps (P := fun s => s.tracker.lawful = true) Kept.tracker (fun _ _ => rfl) (fun _ _ _ => rfl) fun _ _ _ _ _ => id

theorem step_keeps_settings_and_thermal {s t : State} :
    (s.settings.Lawful ∧ s.thermal.lawful = true) → step s = .next t → t.settings.Lawful ∧ t.thermal.lawful = true :=
  step_keeps (P := fun s => s.settings.Lawful ∧ s.thermal.lawful = true)
    (fun k h => ⟨k.settings h.1, k.thermal h.1 h.2⟩) (fun _ _ => ⟨settings_default_lawful, rfl⟩)
    (fun _ _ _ => ⟨settings_default_lawful, rfl⟩) fun _ _ _ _ _ => id

theorem step_keeps_allowance {s t : State} : s.AllowanceHeld → step s = .next t → t.AllowanceHeld :=
  step_keeps (P := State.AllowanceHeld) Kept.allowance (fun _ _ => ⟨fun _ => rfl, nofun⟩) (fun _ _ _ => ⟨fun _ => rfl, nofun⟩)
    fun _ _ _ _ _ => id

/-- Settles O8. -/
theorem stepKeepsSettingsAndGuard : Obligations.StepKeepsSettingsAndGuard :=
  ⟨fun _ _ hsettings hthermal => step_keeps_settings_and_thermal ⟨hsettings, hthermal⟩, fun _ _ => step_keeps_allowance⟩

theorem step_keeps_lists {s t : State} : s.ListsBounded → step s = .next t → t.ListsBounded :=
  step_keeps (P := State.ListsBounded) (fun k h => ⟨k.control h.1, k.requests h.2⟩)
    (fun _ _ => ⟨Nat.zero_le 16, Nat.zero_le 4⟩) (fun _ _ _ => ⟨Nat.zero_le 16, Nat.zero_le 4⟩) fun _ _ _ _ _ => id

theorem step_keeps_pool {s t : State} : PoolLawful s.pool → step s = .next t → PoolLawful t.pool :=
  step_keeps (P := fun s => PoolLawful s.pool) Kept.pool (fun _ _ => poolLawful_reset) (fun _ _ _ => poolLawful_reset)
    fun _ _ _ _ _ => id

/-- Settles O9. -/
theorem stepKeepsLists : Obligations.StepKeepsLists :=
  ⟨fun _ _ => step_keeps_lists, fun _ _ => step_keeps_pool⟩

end Sys2Proof.Machine
end

/-! ## Proofs: the events of the part's own timing

When each event of the part's own clock is due, what a tick raises, and which events a part held in reset answers. -/

section

namespace Sys2Proof.Machine

/-! ### When each event is due, read from its test -/

section
variable {s : State} {t : Tracker} {now : LineTime}

theorem State.reached_iff {d : Option LineTime} : s.reached d = true ↔ d = some s.lineTime := beq_iff_eq

theorem Tracker.dropDue_iff : t.dropDue now = true ↔ t.state = .seeking ∧ ∃ ref, t.lastCrossing = some ref ∧ ref.dist now = 11001 := by
  unfold Tracker.dropDue
  cases t.state <;> cases t.lastCrossing <;> simp

theorem Tracker.expected_eq_some {x : LineTime} :
    t.expected = some x ↔ ∃ c h, t.lastCrossing = some c ∧ t.h = some h ∧ c.plus h = x := by
  unfold Tracker.expected
  cases t.lastCrossing <;> cases t.h <;> simp

theorem Tracker.expiryDue_iff : t.expiryDue now = true ↔ (t.state = .locked ∨ t.state = .holdover) ∧
    ∃ c h, t.lastCrossing = some c ∧ t.h = some h ∧ now = (c.plus h).plus 400 := by
  have hexp : (∃ c h, t.lastCrossing = some c ∧ t.h = some h ∧ now = (c.plus h).plus 400) ↔
      ∃ x, t.expected = some x ∧ now = x.plus 400 := by
    simp only [Tracker.expected_eq_some]
    constructor
    · rintro ⟨c, h, hc, hh, hnow⟩; exact ⟨_, ⟨c, h, hc, hh, rfl⟩, hnow⟩
    · rintro ⟨_, ⟨c, h, hc, hh, rfl⟩, hnow⟩; exact ⟨c, h, hc, hh, hnow⟩
  rw [hexp]
  unfold Tracker.expiryDue Config.crossingWindow
  cases t.state <;> cases t.expected <;> simp

theorem Tracker.syntheticDue_iff : t.syntheticDue now = true ↔ t.state = .freeRun ∧
    ∃ c h, t.lastCrossing = some c ∧ t.h = some h ∧ now = c.plus h := by
  have hexp : (∃ c h, t.lastCrossing = some c ∧ t.h = some h ∧ now = c.plus h) ↔ t.expected = some now := by
    simp only [Tracker.expected_eq_some, @eq_comm _ now]
  rw [hexp]
  unfold Tracker.syntheticDue
  cases t.state <;> cases t.expected <;> simp [@eq_comm _ now]

theorem State.signalSlot_isSome_iff : s.signalSlot.isSome = true ↔
    s.mac.state = .signal ∧ (s.lineTime = s.mac.periodStart.plus 40 ∨ s.lineTime = s.mac.periodStart.plus 80) := by
  unfold State.signalSlot
  split
  · split
    · simp [*]
    · split <;> simp [*]
  · simp [*]

theorem State.contentionSlot_iff : s.contentionSlot = true ↔ s.mac.state = .backoff ∧
    (s.mac.periodStart.plus 80).dist s.lineTime ≠ 0 ∧ (s.mac.periodStart.plus 80).dist s.lineTime % 40 = 0 := by
  simp [State.contentionSlot, and_assoc]

theorem State.soundPayloadDue_iff : s.soundPayloadDue = true ↔
    ∃ f, s.line.sending = some f ∧ f.header.kind = .sound ∧ s.lineTime = f.start.plus 192 := by
  unfold State.soundPayloadDue
  cases s.line.sending <;> simp

theorem State.sentEndDue_iff {which : FrameKind → Bool} : s.sentEndDue which = true ↔
    ∃ f, s.line.sending = some f ∧ which f.header.kind = true ∧ s.lineTime = f.stop := by
  unfold State.sentEndDue
  cases s.line.sending <;> simp

theorem FrameKind.contended_iff {k : FrameKind} : k.contended = true ↔ k ≠ .resp := by
  cases k <;> simp [FrameKind.contended]

theorem State.gapDue_iff : s.gapDue = true ↔
    s.mac.state = .deferring ∧ (s.mac.gap = some (.quiet s.lineTime) ∨ s.mac.gap = some (.response s.lineTime)) := by
  unfold State.gapDue
  rcases s.mac.gap with _ | ⟨d | d | d⟩ <;> simp [@eq_comm _ s.lineTime]

theorem State.watchDue_iff : s.watchDue = true ↔ s.mac.state = .deferring ∧ s.mac.gap = some (.toneWatch s.lineTime) := by
  unfold State.watchDue
  rcases s.mac.gap with _ | ⟨d | d | d⟩ <;> simp [@eq_comm _ s.lineTime]

theorem State.responseDue_iff : s.responseDue = true ↔ s.mac.state = .awaitingResponse ∧ s.line.reception = none ∧
    ∃ w, s.mac.wait = some w ∧ s.lineTime = w.frameEnd.plus 120 := by
  unfold State.responseDue
  cases s.mac.wait <;> simp [and_assoc]

theorem State.respDue_iff : s.respDue = true ↔ s.mac.state = .responding ∧ s.line.sending = none ∧
    ∃ d b, s.mac.duty = some d ∧ d.resp = some b ∧ s.lineTime = d.frameEnd.plus 60 := by
  unfold State.respDue
  cases s.mac.duty with
  | none => simp
  | some d => simp [Option.isSome_iff_exists, and_assoc]

theorem State.symbolDue_iff : s.symbolDue = true ↔
    ∃ r h f x, s.line.reception = some r ∧ r.header = .used h f x ∧ r.slots.length < h.payloadSymbols ∧
      s.lineTime = r.frameStart.plus (192 + 32 * r.slots.length) := by
  unfold State.symbolDue
  cases s.line.reception with
  | none => simp
  | some r => cases hr : r.header <;> simp [hr]

theorem State.boundaryDue_iff : s.boundaryDue = true ↔ s.lineTime = s.thermal.nextBoundary := beq_iff_eq

theorem State.completionDue_iff {i : EntryIx} : s.completionDue i = true ↔
    ∃ e start c x, s.entry i = some e ∧ e.build.state = .building start c x ∧ s.lineTime = start.plus 1000 := by
  unfold State.completionDue Config.buildSpan
  cases s.entry i with
  | none => simp
  | some e => cases he : e.build.state <;> simp [he]

theorem State.rebuildIsDue_iff {i : EntryIx} : s.rebuildIsDue i = true ↔
    ∃ e, s.entry i = some e ∧ e.build.deadline = some s.lineTime := by
  simp [State.rebuildIsDue, State.reached_iff, Option.bind_eq_some_iff]

theorem State.holdDue_iff {i : EntryIx} : s.holdDue i = true ↔ ∃ e, s.entry i = some e ∧ e.hold = some s.lineTime := by
  simp [State.holdDue, State.reached_iff, Option.bind_eq_some_iff]

theorem State.agingDue_iff {i : EntryIx} : s.agingDue i = true ↔ ∃ e, s.entry i = some e ∧
    (((e.state = .heard ∨ e.state = .linked) ∧ ∃ t, e.lastHeard = some t ∧ s.lineTime = t.plus 15000000) ∨
      (e.state = .stale ∧ ∃ t, e.lastHeard = some t ∧ s.lineTime = t.plus 60000000) ∨
      (e.state = .remote ∧ ∃ t, e.lastNamed = some t ∧ s.lineTime = t.plus 30000000)) := by
  unfold State.agingDue
  rw [State.reached_iff, Option.bind_eq_some_iff]
  exact exists_congr fun e => and_congr_right fun _ => beq_iff_eq.symm.trans (agingInstant_iff e _ _ _ _)

theorem State.mapDue_iff {i : MapIx} : s.mapDue i = true ↔ ∃ m, s.addressMap[i] = some m ∧ s.lineTime = m.learned.plus 300000000 :=
  mapInstant_iff _ _ _

theorem State.wantPointDue_iff : s.wantPointDue = true ↔ (∃ t, s.estimator.lastSound = some t ∧ s.lineTime = t.plus 20000) ∧
    ∃ (p : Pair) (m : MainsSlot), s.estimator.wants[p][m] ≠ 0 := by
  unfold State.wantPointDue State.at20ms Estimator.anyWant
  rw [Bool.and_eq_true]
  refine and_congr ?_ (by simp)
  cases s.estimator.lastSound <;> simp

theorem State.soundEligible_iff : s.soundEligible = true ↔ ∃ x, s.estimator.placed = some x ∧
    (s.estimator.wants[x.pair][s.slot] ≠ 0 ∨ ∀ m : MainsSlot, s.estimator.wants[x.pair][m] = 0) := by
  unfold State.soundEligible Estimator.slotTest
  cases s.estimator.placed <;> simp

theorem State.slotEligibleDue_iff : s.slotEligibleDue = true ↔ s.holdsCandidate = false ∧ ∃ x, s.estimator.placed = some x ∧
    (s.estimator.wants[x.pair][s.slot] ≠ 0 ∨ ∀ m : MainsSlot, s.estimator.wants[x.pair][m] = 0) := by
  unfold State.slotEligibleDue
  rw [Bool.and_eq_true, State.soundEligible_iff, Bool.not_eq_true', and_comm]

theorem State.listeningDue_iff : s.listeningDue = true ↔ s.startUp = .listening ∧ s.listening = some s.lineTime := by
  simp [State.listeningDue, State.reached_iff]

/-- R156: a frame is held for sending in a queue or NUMBERED to an entry. -/
theorem State.mem_dueFrames_iff {c : Instr} : c ∈ s.dueFrames ↔ ∃ f : HostFrame, c = .frameExpiry f.id ∧ f.expiry = s.lineTime ∧
    ((∃ q : QueueIx, f ∈ s.queues[q]) ∨ ∃ i e x, s.entry i = some e ∧ x ∈ e.tx.numbered ∧ x.frame = f) := by
  have hqueued (f : HostFrame) : f ∈ s.queues.toList.flatten ↔ ∃ q : QueueIx, f ∈ s.queues[q] := by
    simp only [List.mem_flatten, Vector.mem_toList_iff, Vector.mem_iff_getElem]
    constructor
    · rintro ⟨_, ⟨q, hq, rfl⟩, hf⟩; exact ⟨⟨q, hq⟩, hf⟩
    · rintro ⟨q, hf⟩; exact ⟨_, ⟨q.val, q.isLt, rfl⟩, hf⟩
  have hnumbered (f : HostFrame) :
      f ∈ s.table.toList.flatMap (fun e => (e.map fun x => x.tx.numbered.map (·.frame)).getD []) ↔
        ∃ i e x, s.entry i = some e ∧ x ∈ e.tx.numbered ∧ x.frame = f := by
    simp only [List.mem_flatMap, Vector.mem_toList_iff, Vector.mem_iff_getElem]
    constructor
    · rintro ⟨_, ⟨i, hi, rfl⟩, hf⟩
      cases he : s.table[i] with
      | none => simp [he] at hf
      | some e =>
        simp only [he, Option.map_some, Option.getD_some, List.mem_map] at hf
        obtain ⟨x, hx, hxf⟩ := hf
        exact ⟨⟨i, hi⟩, e, x, he, hx, hxf⟩
    · rintro ⟨i, e, x, he, hx, rfl⟩
      refine ⟨some e, ⟨i.val, i.isLt, he⟩, ?_⟩
      simpa using ⟨x, hx, rfl⟩
  unfold State.dueFrames
  simp only [List.mem_map, List.mem_filter, List.mem_append, hqueued, hnumbered, beq_iff_eq]
  exact exists_congr fun f => ⟨fun ⟨⟨hf, hx⟩, hc⟩ => ⟨hc.symm, hx, hf⟩, fun ⟨hc, hx, hf⟩ => ⟨⟨hf, hx⟩, hc.symm⟩⟩

end

/-! ### What is fresh -/

/-- The events of the part's own timing that fall now are those that `State.Due` names. -/
theorem State.mem_dueEvents_iff {s : State} {c : Instr} : c ∈ s.dueEvents ↔ s.Due c := by
  unfold State.dueEvents State.dueLine State.dueEntry State.dueOthers
  simp only [List.mem_append, List.mem_flatMap, List.mem_map, List.mem_filter, List.mem_finRange, true_and, mem_dueIf,
    Tracker.dropDue_iff, Tracker.expiryDue_iff, Tracker.syntheticDue_iff, State.signalSlot_isSome_iff, State.contentionSlot_iff,
    State.soundPayloadDue_iff, State.sentEndDue_iff, FrameKind.contended_iff, State.gapDue_iff, State.watchDue_iff,
    State.responseDue_iff, State.respDue_iff, State.symbolDue_iff, State.boundaryDue_iff, State.completionDue_iff,
    State.rebuildIsDue_iff, State.agingDue_iff, State.holdDue_iff, State.mem_dueFrames_iff, State.mapDue_iff,
    State.reached_iff, State.wantPointDue_iff, State.slotEligibleDue_iff, State.listeningDue_iff, Bool.and_eq_true, beq_iff_eq]
  cases c
  case frameExpiry id => simp [State.Due, @eq_comm _ id]
  all_goals simp only [State.Due, reduceCtorEq, and_false, false_and, exists_false, or_false, false_or, and_true,
    Instr.contentionSlotEnd.injEq, Instr.dutyBoundary.injEq, Instr.buildCompletion.injEq, Instr.rebuildDeadline.injEq,
    Instr.entryAgingDeadline.injEq, Instr.holdExpiry.injEq, Instr.mapAging.injEq, exists_eq_right,
    exists_eq_right']
  case contentionSlotEnd | dutyBoundary => exact and_comm

theorem RequestBody.service_eq (b : RequestBody) : b.service = match b with
    | .status c => if RequestBody.isStatusClear (.status c) then Instr.attentionClear else .status
    | .counters c => if c then .countersClear else .counters
    | .stationTable .. => .stationTable
    | .windowRead _ => .windowRead
    | .addressMap .. => .addressMap
    | .configRead => .configRead
    | .restart => .restart
    | .malformed => .unknownRequest := by
  cases b with
  | status c => by_cases h : c &&& 0x3F#8 = 0#8 <;> simp [RequestBody.service, RequestBody.isStatusClear, h]
  | _ => rfl

/-- R191: the request at the head is served while the response buffer is empty. -/
theorem State.mem_dueService_iff {s : State} {c : Instr} : c ∈ s.dueService ↔
    ∃ r rest, s.port.requests = r :: rest ∧ s.port.response = none ∧ c = r.body.service := by
  unfold State.dueService
  cases s.port.requests with
  | nil => simp
  | cons r rest =>
    cases s.port.response with
    | some x => simp
    | none =>
      simp only [RequestBody.service_eq]
      cases hb : r.body <;> simp [hb]

theorem State.mem_fresh_iff {s : State} {c : Instr} : c ∈ s.fresh ↔ (s.Due c ∧ c ∉ s.raised) ∨
    ∃ r rest, s.port.requests = r :: rest ∧ s.port.response = none ∧ c = r.body.service := by
  simp [State.fresh, State.mem_dueEvents_iff, State.mem_dueService_iff]

/-- The free order takes each of the events once. -/
theorem freeOrder_perm (fuel n : Nat) (cs : List Instr) : (freeOrder fuel n cs).Perm cs := by
  induction fuel generalizing n cs with
  | zero => exact .refl _
  | succ fuel ih =>
    match cs with
    | [] => exact .refl _
    | [c] => exact .refl _
    | c :: d :: cs =>
      have hk : Config.eventOrder n % (c :: d :: cs).length < (c :: d :: cs).length := Nat.mod_lt _ (by simp)
      show ((c :: d :: cs).getD _ c :: freeOrder fuel (n + 1) ((c :: d :: cs).eraseIdx _)).Perm _
      rw [← List.getElem_eq_getD (h := hk)]
      exact ((ih _ _).cons _).trans (getElem_cons_eraseIdx hk)

/-- Settles O2: the three branches of a tick, and what is fresh. -/
theorem idleStepRaisesOrAdvances : Obligations.IdleStepRaisesOrAdvances := by
  refine ⟨fun s hp => ?_, fun s c => State.mem_fresh_iff⟩
  rw [step_of_empty hp]
  refine ⟨fun hheld => ?_, fun hlive hfresh => ?_, fun hlive hfresh => ?_⟩
  · simp [tick, Option.isSome_iff_ne_none.2 hheld]
  · simp [tick, hlive, hfresh]
  · exact ⟨_, freeOrder_perm s.fresh.length s.draws s.fresh, by simp [tick, hlive, hfresh]⟩

/-! ### A part held in reset -/

theorem whenLive_of_held {s : State} (h : s.held ≠ none) (f : State → State) : whenLive s f = .next s := by
  unfold whenLive; rw [if_pos (Option.isSome_iff_ne_none.2 h)]

/-- Settles O3: every command but the resets is guarded by `whenLive`, and keeps the line time, the queue and the hold. -/
theorem heldAndLiveEvents : Obligations.HeldAndLiveEvents := by
  refine ⟨fun c s hheld hpower hpin hend => ?_, fun c s t ht hpower hpin hend hsent => ?_⟩
  · cases c
    case powerReset => exact absurd rfl hpower
    case pinReset => exact absurd rfl hpin
    case resetEnd b => exact absurd rfl (hend b)
    all_goals exact whenLive_of_held hheld _
  · obtain ⟨u, hu, hkept⟩ := exec_keeps c s hpower hpin hend hsent
    cases hu.symm.trans ht
    exact ⟨hkept.lineTime, hkept.pending, hkept.held⟩

end Sys2Proof.Machine
end

/-! ## Proofs: SEEKING, HOLDOVER and FREE-RUN, the phase readings and the slot offsets

What a ZC edge does in the states of the tracker beside LOCKED, what entering RUNNING leaves, and the statements of R4, R9, R10, R12, R13
and R17. -/

section

namespace Sys2Proof.Machine

/-! ### What ends a command, as statements speak of it -/

theorem Ended.endedAs {u t : State} (h : Ended u t) (hu : u.evalDue = false) (ht : t.evalDue = false) : t = u.endedAs t := by
  unfold Ended at h
  rw [ht, ← hu] at h
  exact h

/-! ### Entry to RUNNING (R53, R206) -/

theorem enterRunning_of_idle {s : State} (h : s.mac.state = .idle) : enterRunning s = beginPeriod { s with startUp := .running } :=
  if_pos h

theorem enterRunning_of_not_idle {s : State} (h : s.mac.state ≠ .idle) : enterRunning s = { s with startUp := .running } :=
  if_neg h

theorem enterRunning_ended (s : State) : Ended { s with startUp := .running } (enterRunning s) := by
  by_cases h : s.mac.state = .idle
  · rw [enterRunning_of_idle h]
    exact (Ended.refl _).beginPeriod
  · rw [enterRunning_of_not_idle h]
    exact Ended.refl _

/-- A command whose effect ends with the entry to RUNNING: from a state at rest, what the entry leaves stands. -/
theorem settled_enterRunning {f : State → State} {s x : State} (hf : f s = enterRunning x) (hr : x.Rested)
    (hq : x.queues = s.queues) (ht : x.table = s.table) :
    let entered : State := { x with startUp := .running }
    (x.mac.state ≠ .idle → settled f s = entered) ∧
    (x.mac.state = .idle → settled f s = settle s.txCharge (beginPeriod entered)) ∧
    settled f s = entered.endedAs (settled f s) := by
  intro entered
  refine ⟨fun hbusy => ?_, fun hidle => ?_, ?_⟩
  · exact settled_at_rest (t := entered) (hf.trans (enterRunning_of_not_idle hbusy)) hr hq ht
  · exact congrArg (settle s.txCharge) (hf.trans (enterRunning_of_idle hidle))
  · have hended : Ended entered (settle s.txCharge (enterRunning x)) := (enterRunning_ended x).settle _
    rw [← hf] at hended
    exact hended.endedAs hr.1 (settle_eval _ _)

/-! ### The record: what an edge does in SEEKING, HOLDOVER and FREE-RUN -/

section
variable {t : Tracker} {c x ref now : LineTime} {h : Nat}

theorem Tracker.crossing_seeking_glitch (hs : t.state = .seeking) (hc : t.lastCrossing = some ref) (hi : ref.dist now < 7500) :
    t.crossing now = (t, true) := by
  simp [Tracker.crossing, hs, Tracker.seekCrossing, hc, Config.halfCycleMin, hi]

/-- R4: an edge a half-cycle of the range after the reference, with nothing to agree with, opens a run. -/
theorem Tracker.crossing_seeking_opens (hs : t.state = .seeking) (hc : t.lastCrossing = some ref) (h1 : 7500 ≤ ref.dist now)
    (h2 : ref.dist now ≤ 11000)
    (hopen : t.lockCount = 0 ∨ ∃ h, t.h = some h ∧ ¬(ref.dist now ≤ h + 400 ∧ h ≤ ref.dist now + 400)) :
    t.crossing now = (t.takeReference now (some (ref.dist now)) 1, false) := by
  have hmin : ¬ref.dist now < Config.halfCycleMin := Nat.not_lt.2 h1
  have hmax : ¬ref.dist now > Config.halfCycleMax := Nat.not_lt.2 h2
  unfold Tracker.crossing Tracker.seekCrossing
  simp only [hs, hc, if_neg hmin, if_neg hmax]
  rcases hopen with hzero | ⟨h, hh, hfar⟩
  · rw [hzero]
  · rw [hh]
    cases t.lockCount with
    | zero => rfl
    | succ n => exact if_neg hfar

/-- R4: an agreeing edge of a run lengthens it. -/
theorem Tracker.crossing_seeking_agreeing {n : Nat} (hs : t.state = .seeking) (hc : t.lastCrossing = some ref) (hh : t.h = some h)
    (hn : t.lockCount = n + 1) (h1 : 7500 ≤ ref.dist now) (h2 : ref.dist now ≤ 11000) (ha : ref.dist now ≤ h + 400)
    (hb : h ≤ ref.dist now + 400) :
    t.crossing now = (t.takeReference now (some (filterH h (ref.dist now))) (n + 2), false) := by
  have hmin : ¬ref.dist now < Config.halfCycleMin := Nat.not_lt.2 h1
  have hmax : ¬ref.dist now > Config.halfCycleMax := Nat.not_lt.2 h2
  have hnear : ref.dist now ≤ h + Config.crossingWindow ∧ h ≤ ref.dist now + Config.crossingWindow := ⟨ha, hb⟩
  unfold Tracker.crossing Tracker.seekCrossing
  simp only [hs, hc, if_neg hmin, if_neg hmax, hn, hh, if_pos hnear]

theorem Tracker.takeReference_of_lt {o : Option Nat} {n : Nat} (hn : n < 8) :
    t.takeReference now o n = { t with h := o, lastCrossing := some now, lastKind := .real, lockCount := n } :=
  if_neg (by omega)

theorem Tracker.takeReference_eight {o : Option Nat} : t.takeReference now o 8 =
    { t with state := .locked, h := o, lastCrossing := some now, lastKind := .real, lockCount := 8, missCount := 0,
             disturbedCount := 0 } := rfl

/-- HOLDOVER stands on a synthetic crossing, with 1 to 15 misses and at most 3 disturbed crossings. -/
theorem Tracker.lawful_holdover (hw : t.lawful = true) (hs : t.state = .holdover) :
    t.lastKind = .synthetic ∧ t.missCount ≤ 15 ∧ t.disturbedCount ≤ 3 := by
  simp only [Tracker.lawful, hs, Bool.and_eq_true, decide_eq_true_eq] at hw
  obtain ⟨-, -, -, hkind, -, hmiss, hdisturbed⟩ := hw
  exact ⟨hkind, hmiss, hdisturbed⟩

theorem Tracker.lawful_freeRun (hw : t.lawful = true) (hs : t.state = .freeRun) :
    t.lastKind = .synthetic ∧ t.missCount = 16 := by
  simp only [Tracker.lawful, hs, Bool.and_eq_true, decide_eq_true_eq] at hw
  obtain ⟨-, -, -, hkind, hmiss⟩ := hw
  exact ⟨hkind, hmiss⟩

/-- R6: an early edge that lies no half-cycle of the range after the last edge is a glitch. -/
theorem Tracker.classify_early_of_improper (hd : x.offset now < -400)
    (hproper : ¬∃ e, t.lastEdge = some e ∧ 7500 ≤ e.dist now ∧ e.dist now ≤ 11000) : t.classify x now = .glitch := by
  unfold Tracker.classify Config.crossingWindow Config.halfCycleMin Config.halfCycleMax
  dsimp only
  rw [if_neg (by omega), if_pos (by omega), if_neg]
  rintro ⟨-, hp⟩
  cases he : t.lastEdge with
  | none => simp [he] at hp
  | some e => exact hproper ⟨e, he, by simpa [he] using hp⟩

theorem Tracker.crossing_holdover_agreeing (hs : t.state = .holdover) (hc : t.lastCrossing = some c) (hh : t.h = some h)
    (hk : t.classify (c.plus h) now = .agreeing) :
    t.crossing now = ({ t with state := .locked, h := some (filterH h (c.dist now)), lastCrossing := some now, lastKind := .real,
                               missCount := 0, disturbedCount := 0 }, false) := by
  simp [Tracker.crossing, hs, Tracker.expected_of hc hh, hk, Tracker.agree, hc, hh]

theorem Tracker.crossing_holdover_glitch (hs : t.state = .holdover) (he : t.expected = some x) (hk : t.classify x now = .glitch) :
    t.crossing now = (t, true) := by
  simp [Tracker.crossing, hs, he, hk]

/-- R9: the fourth disturbed edge starts SEEKING. -/
theorem Tracker.crossing_holdover_fourth (hs : t.state = .holdover) (he : t.expected = some x)
    (hk : t.classify x now = .disturbed) (hn : t.disturbedCount = 3) : t.crossing now = (t.seekFrom now, true) := by
  simp [Tracker.crossing, hs, he, hk, hn]

theorem Tracker.crossing_freeRun (hs : t.state = .freeRun) : t.crossing now = (t.seekFrom now, false) := by
  simp [Tracker.crossing, hs]

end

/-! ### The commands of the tracker -/

section
variable {s : State}

/-- R11: a change from a trusted state to an untrusted one raises the flag. -/
theorem setTracker_of_trust_lost {r : Tracker} (h : s.tracker.trusted = true) (hr : r.trusted = false) :
    setTracker r s = { s with tracker := r, attention := { s.attention with trackerUntrusted := true } } := by
  simp [setTracker, h, hr, raiseTrackerUntrusted]

/-- R4, R9, R53, R206: an edge that enters LOCKED; in LISTENING it enters RUNNING too. -/
theorem exec_zcCrossing_of_lock {r : Tracker} (hl : s.Live) (hr : s.Rested) (hc : s.tracker.crossing s.lineTime = (r, false))
    (hlocked : r.state = .locked) (hbefore : s.tracker.state ≠ .locked) :
    let locked : Tracker := { r with lastEdge := some s.lineTime }
    (s.startUp ≠ .listening → exec .zcCrossing s = .next { s with tracker := locked }) ∧
    (s.startUp = .listening →
      let entered : State := { s with tracker := locked, startUp := .running }
      (s.mac.state ≠ .idle → exec .zcCrossing s = .next entered) ∧
      (s.mac.state = .idle → exec .zcCrossing s = .next (settle s.txCharge (beginPeriod entered))) ∧
      ∃ t, exec .zcCrossing s = .next t ∧ t = entered.endedAs t) := by
  intro locked
  have hexec : exec .zcCrossing s = .next (settled crossingEffect s) := whenLive_of_live hl _
  have hset : setTracker locked s = { s with tracker := locked } := by
    refine setTracker_of_trust_kept fun _ => ?_
    show r.trusted = true
    simp [Tracker.trusted, hlocked]
  have heffect : crossingEffect s = lockEndsListening { s with tracker := locked } := by
    unfold crossingEffect
    dsimp only
    rw [hc, hset, if_pos (by simp [hlocked, hbefore])]
    rfl
  refine ⟨fun hup => ?_, fun hup => ?_⟩
  · rw [hexec, settled_at_rest (heffect.trans (if_neg hup)) hr rfl rfl]
  · obtain ⟨hbusy, hidle, hended⟩ := settled_enterRunning (heffect.trans (if_pos hup)) hr rfl rfl
    exact ⟨fun h => hexec.trans (congrArg _ (hbusy h)), fun h => hexec.trans (congrArg _ (hidle h)), _, hexec, hended⟩

/-- R9, R11: an edge that ends the trusted condition counts as a glitch and raises the flag. -/
theorem exec_zcCrossing_of_trust_lost {r : Tracker} (hl : s.Live) (hr : s.Rested) (hc : s.tracker.crossing s.lineTime = (r, true))
    (htrusted : s.tracker.trusted = true) (hlost : r.trusted = false) :
    exec .zcCrossing s = .next (bump .zcGlitches { s with
      tracker := { r with lastEdge := some s.lineTime }
      attention := { s.attention with trackerUntrusted := true } }) := by
  have hset : setTracker { r with lastEdge := some s.lineTime } s = { s with
      tracker := { r with lastEdge := some s.lineTime }
      attention := { s.attention with trackerUntrusted := true } } := setTracker_of_trust_lost htrusted hlost
  have hstate : r.state ≠ .locked := fun h => by simp [Tracker.trusted, h] at hlost
  have heffect : crossingEffect s = bump .zcGlitches { s with
      tracker := { r with lastEdge := some s.lineTime }
      attention := { s.attention with trackerUntrusted := true } } := by
    unfold crossingEffect
    dsimp only
    rw [hc, hset, if_neg (by simp [hstate])]
    rfl
  calc exec .zcCrossing s
      = .next (settled crossingEffect s) := whenLive_of_live hl _
    _ = _ := congrArg _ (settled_at_rest heffect hr rfl rfl)

theorem exec_freeRunSynthetic_of_due (hl : s.Live) (hd : s.tracker.syntheticDue s.lineTime = true) :
    exec .freeRunSynthetic s = .next (placeSynthetic s) :=
  live_due (b := fun s => s.tracker.syntheticDue s.lineTime) hl hd

end

/-! ### The statements on the tracker -/

/-- Settles O11, by the distance of the edge from the reference and the lock count. -/
theorem crossingInSeeking : Obligations.CrossingInSeeking := by
  intro s hl hr hs k now answer restart
  have hunlocked : s.tracker.state ≠ .locked := by simp [hs]
  have hopens (ref : LineTime) (hc : k.lastCrossing = some ref) (h1 : 7500 ≤ ref.dist now) (h2 : ref.dist now ≤ 11000)
      (hopen : k.lockCount = 0 ∨ ∃ h, k.h = some h ∧ ¬(ref.dist now ≤ h + 400 ∧ h ≤ ref.dist now + 400)) :
      exec .zcCrossing s = answer { restart with h := some (ref.dist now), lockCount := 1 } := by
    have hcross := Tracker.crossing_seeking_opens hs hc h1 h2 hopen
    rw [Tracker.takeReference_of_lt (by omega)] at hcross
    exact exec_zcCrossing_of_crossing hl hr hcross id fun h => h
  refine ⟨fun hnone => ?_, ?_⟩
  · exact exec_zcCrossing_seeking_restart hl hr hs fun ref href => by cases hnone.symm.trans href
  intro ref hc i
  refine ⟨fun hi => ?_, fun hi => ?_, fun h1 h2 hzero => ?_, fun h hh h1 h2 hrun =>
    ⟨fun hfar => ?_, fun ha hb hseven => ?_, fun ha hb hseven => ?_⟩⟩
  · exact exec_zcCrossing_of_crossing hl hr (Tracker.crossing_seeking_glitch hs hc hi) id id
  · exact exec_zcCrossing_seeking_restart hl hr hs fun r href => by cases hc.symm.trans href; exact hi
  · exact hopens ref hc h1 h2 (.inl hzero)
  · exact hopens ref hc h1 h2 (.inr ⟨h, hh, hfar⟩)
  · obtain ⟨n, hn⟩ : ∃ n, k.lockCount = n + 1 := ⟨k.lockCount - 1, by omega⟩
    have hcross := Tracker.crossing_seeking_agreeing hs hc hh hn h1 h2 ha hb
    rw [Tracker.takeReference_of_lt (by omega)] at hcross
    rw [hn]
    exact exec_zcCrossing_of_crossing hl hr hcross id fun h => h
  · have hcross := Tracker.crossing_seeking_agreeing hs hc hh hseven h1 h2 ha hb
    rw [Tracker.takeReference_eight] at hcross
    exact exec_zcCrossing_of_lock hl hr hcross rfl hunlocked

/-- Settles O13, by the class of the edge and by the misses so far. -/
theorem holdoverEvents : Obligations.HoldoverEvents := by
  refine ⟨?_, ?_⟩
  · intro s c h hl hr hw hs hc hh k now d proper
    obtain ⟨hkind, -, -⟩ := Tracker.lawful_holdover hw hs
    have hexp := Tracker.expected_of hc hh
    have htrusted : s.tracker.trusted = true := by simp [Tracker.trusted, hs]
    refine ⟨fun h1 h2 => ?_, fun hearly hproper => ?_, fun hearly hproper hn => ?_, fun hearly hproper hn => ?_⟩
    · exact exec_zcCrossing_of_lock hl hr
        (Tracker.crossing_holdover_agreeing hs hc hh (Tracker.classify_agreeing h1 h2)) rfl (by simp [hs])
    · exact exec_zcCrossing_of_crossing hl hr
        (Tracker.crossing_holdover_glitch hs hexp (Tracker.classify_early_of_improper hearly hproper)) id id
    · obtain ⟨e, he, h1, h2⟩ := hproper
      exact exec_zcCrossing_of_crossing hl hr
        (Tracker.crossing_holdover_disturbed hs hexp (Tracker.classify_early_of_proper hearly hkind he h1 h2) hn) id id
    · obtain ⟨e, he, h1, h2⟩ := hproper
      exact exec_zcCrossing_of_trust_lost hl hr
        (Tracker.crossing_holdover_fourth hs hexp (Tracker.classify_early_of_proper hearly hkind he h1 h2) hn) htrusted rfl
  · intro s c h hl hw hs hc hh hnow placed
    have hexp := Tracker.expected_of hc hh
    have hdue : s.tracker.expiryDue s.lineTime = true := Tracker.expiryDue_iff.2 ⟨.inr hs, c, h, hc, hh, hnow⟩
    have htrusted : s.tracker.trusted = true := by simp [Tracker.trusted, hs]
    rw [exec_windowExpiry_of_due hl hdue]
    unfold expireWindow
    refine ⟨fun hmiss => ?_, fun hmiss => ?_⟩
    · have hexpire : s.tracker.expire = { placed with missCount := s.tracker.missCount + 1 } := by
        simp [Tracker.expire, hs, hexp, placed]
        omega
      rw [hexpire]
      exact congrArg _ (setTracker_of_trust_kept fun _ => htrusted)
    · have hexpire : s.tracker.expire = { placed with state := .freeRun, missCount := 16 } := by
        simp [Tracker.expire, hs, hexp, placed, hmiss]
      rw [hexpire]
      exact congrArg _ (setTracker_of_trust_lost htrusted rfl)

/-- Settles O16: FREE-RUN is not trusted, so that neither event raises the flag. -/
theorem freeRunPlacesAndLeaves : Obligations.FreeRunPlacesAndLeaves := by
  intro s c h hl hr hw hs hc hh sought placed
  obtain ⟨-, hmiss⟩ := Tracker.lawful_freeRun hw hs
  have huntrusted : s.tracker.trusted = false := by simp [Tracker.trusted, hs]
  have hseeks (u : State) (hlu : u.Live) (hru : u.Rested) (hsu : u.tracker.state = .freeRun) :
      exec .zcCrossing u = .next { u with tracker := { u.tracker.seekFrom u.lineTime with lastEdge := some u.lineTime } } :=
    exec_zcCrossing_of_crossing hlu hru (Tracker.crossing_freeRun hsu) (fun h => by simp [Tracker.trusted, hsu] at h) nofun
  refine ⟨huntrusted, hseeks s hl hr hs, fun hnow => ⟨?_, hmiss, hseeks placed hl hr hs⟩⟩
  have hdue : s.tracker.syntheticDue s.lineTime = true := Tracker.syntheticDue_iff.2 ⟨hs, c, h, hc, hh, hnow⟩
  rw [exec_freeRunSynthetic_of_due hl hdue]
  unfold placeSynthetic
  rw [Tracker.expected_of hc hh, ← hnow, setTracker_of_trust_kept (by simp [huntrusted])]

/-! ### The phase readings (R12, R13) -/

section
variable {k : Tracker} {c : LineTime} {n : Nat}

theorem Tracker.phase_plus (hc : k.lastCrossing = some c) (hn : n < 2 ^ 32) :
    k.phase (c.plus n) = min 1023 (n * 1024 / k.phaseH) := by
  simp [Tracker.phase, hc, LineTime.dist_plus c hn]

theorem Tracker.projectedPhase_plus (hc : k.lastCrossing = some c) (hn : n < 2 ^ 32) :
    k.projectedPhase (c.plus n) = n % k.phaseH * 1024 / k.phaseH := by
  have hmod : (if n ≥ k.phaseH then n % k.phaseH else n) = n % k.phaseH := by
    split
    · rfl
    · exact (Nat.mod_eq_of_lt (by omega)).symm
  simp [Tracker.projectedPhase, hc, LineTime.dist_plus c hn, hmod]

theorem slotOfPhase_val {f : Nat} (h : f ≤ 1023) : (slotOfPhase f).val = f * 6 / 1024 :=
  Nat.mod_eq_of_lt (by omega)

/-- A fraction of the half-cycle is below 1024. -/
theorem fraction_lt {m h : Nat} (hm : m < h) : m * 1024 / h < 1024 :=
  Nat.div_lt_of_lt_mul (by omega)

end

/-- Settles O17: the two readings as fractions of the span since the crossing. -/
theorem phaseRunsFromCrossing : Obligations.PhaseRunsFromCrossing := by
  refine ⟨?_, ?_, ?_⟩
  · intro k c h hw hc hh
    obtain ⟨hmin, hmax⟩ := Tracker.h_range hw h hh
    have hH : k.phaseH = h := by simp [Tracker.phaseH, hh]
    have hphase (n : Nat) (hn : n < 2 ^ 32) : k.phase (c.plus n) = min 1023 (n * 1024 / h) := by
      rw [Tracker.phase_plus hc hn, hH]
    refine ⟨?_, fun m n hmn hn => ?_, fun n hle hn => ?_, fun n hlt => ?_⟩
    · simp [Tracker.phase, hc, LineTime.dist]
    · have hmono : m * 1024 / h ≤ n * 1024 / h := Nat.div_le_div_right (by omega)
      rw [hphase m (by omega), hphase n hn]
      omega
    · have hfull : 1024 ≤ n * 1024 / h := (Nat.le_div_iff_mul_le (by omega)).2 (by omega)
      have h1023 : k.phase (c.plus n) = 1023 := by rw [hphase n hn]; omega
      exact ⟨h1023, by rw [Tracker.slot, h1023]; rfl⟩
    · have hfraction := fraction_lt hlt
      rw [Tracker.projectedPhase_plus hc (by omega), hphase n (by omega), hH, Nat.mod_eq_of_lt hlt]
      omega
  · intro k c n hc hn h
    have hphase : k.phase (c.plus n) = min 1023 (n * 1024 / h) := Tracker.phase_plus hc hn
    have hprojected : k.projectedPhase (c.plus n) = n % h * 1024 / h := Tracker.projectedPhase_plus hc hn
    refine ⟨hphase, slotOfPhase_val ?_, fun hpos => ⟨hprojected, slotOfPhase_val ?_⟩⟩
    · rw [hphase]
      exact Nat.min_le_left _ _
    · rw [hprojected]
      exact Nat.le_of_lt_succ (fraction_lt (Nat.mod_lt n hpos))
  · intro k now hc
    have hphase : k.phase now = 1023 := by simp [Tracker.phase, hc]
    exact ⟨hphase, by rw [Tracker.slot, hphase]; rfl⟩

/-! ### The slot offsets (R17) -/

section
variable {o : SlotOffset} {k : MainsSlot}

theorem SlotOffset.apply_held (h : o.held = some k) : o.apply k = { o with confirm := 0 } := if_pos h

/-- The length of the run of candidates that a sample opens or continues. -/
def SlotOffset.run (o : SlotOffset) (k : MainsSlot) : Nat := if o.confirm ≥ 1 ∧ o.candidate = k then o.confirm + 1 else 1

theorem SlotOffset.apply_other (h : o.held ≠ some k) :
    o.apply k = if o.run k ≥ 3 then { held := some k, candidate := k, confirm := 0 }
      else { held := o.held, candidate := k, confirm := o.run k } := if_neg h

theorem SlotOffset.apply_keeps_held (h : o.held = some k) : (o.apply k).held = some k := by
  rw [SlotOffset.apply_held h]; exact h

end

/-- Settles O18; of three samples of one value the third stands in a run of three, unless the value is held before. -/
theorem offsetTakesThirdSample : Obligations.OffsetTakesThirdSample := by
  refine ⟨fun o k h => ?_, ?_, fun o k => ?_⟩
  · rw [SlotOffset.apply_held h]
    exact ⟨rfl, h⟩
  · intro o k h n
    refine ⟨fun hn => (SlotOffset.apply_other h).trans (if_neg (Nat.not_le.2 hn)), fun hn => ?_⟩
    rw [SlotOffset.apply_other h, if_pos (show o.run k ≥ 3 from hn)]
    exact ⟨rfl, rfl⟩
  · have hrun (p : SlotOffset) (hp : p.held ≠ some k) :
        (p.apply k).held = some k ∨ (p.apply k).held = p.held ∧ (p.apply k).candidate = k ∧ (p.apply k).confirm = p.run k := by
      rw [SlotOffset.apply_other hp]
      split
      · exact .inl rfl
      · exact .inr ⟨rfl, rfl, rfl⟩
    have hstep (p : SlotOffset) (hp : p.candidate = k) (h1 : p.confirm ≥ 1) : p.run k = p.confirm + 1 := if_pos ⟨h1, hp⟩
    have hopen : 1 ≤ o.run k := by unfold SlotOffset.run; split <;> omega
    by_cases h0 : o.held = some k
    · exact SlotOffset.apply_keeps_held (SlotOffset.apply_keeps_held (SlotOffset.apply_keeps_held h0))
    rcases hrun o h0 with h1 | ⟨hheld1, hcand1, hconf1⟩
    · exact SlotOffset.apply_keeps_held (SlotOffset.apply_keeps_held h1)
    have h1 : (o.apply k).held ≠ some k := hheld1 ▸ h0
    rcases hrun _ h1 with h2 | ⟨hheld2, hcand2, hconf2⟩
    · exact SlotOffset.apply_keeps_held h2
    have h2 : ((o.apply k).apply k).held ≠ some k := hheld2 ▸ h1
    rw [SlotOffset.apply_other h2, if_pos]
    rw [hstep _ hcand2 (by rw [hconf2, hstep _ hcand1 (by omega)]; omega), hconf2, hstep _ hcand1 (by omega)]
    omega

end Sys2Proof.Machine
end

/-! ## Proofs: receptions

What a frame start, a header that is not used, a payload symbol and the end of a reception that is not processed leave. -/

section

namespace Sys2Proof.Machine

/-- What ends a command does nothing where the effect leaves the indicator's mark, the port, the queues and the table. -/
theorem settle_at_rest {s t : State} (hs : s.Rested) (he : t.evalDue = s.evalDue) (hp : t.port = s.port) (hq : t.queues = s.queues)
    (ht : t.table = s.table) : settle s.txCharge t = t :=
  settle_of_rested (rested_congr hs he hp) (txCharge_congr hq ht)

/-! ### The frame start (R14, R23, R38, R45) -/

section
variable {s : State}

theorem State.detects_iff : s.detects = true ↔ s.startUp ≠ .loading ∧ s.line.sending = none ∧ s.line.reception = none := by
  simp [State.detects, and_assoc]

theorem exec_frameStart_of_detects (p : Pair) (b : Preamble) (hl : s.Live) (hd : s.detects = true) :
    exec (.frameStart p b) s = .next (macFrameStart (openReception p b s)) :=
  live_due (b := State.detects) (f := fun s => macFrameStart (openReception p b s)) hl hd

theorem exec_frameStart_of_not_detects (p : Pair) (b : Preamble) (hl : s.Live) (hd : s.detects ≠ true) :
    exec (.frameStart p b) s = .next s := by
  show whenLive s (fun s => whenDue s.detects (fun s => macFrameStart (openReception p b s)) s) = _
  rw [whenLive_of_live hl]
  exact congrArg _ (if_neg hd)

/-- R38: outside BACKOFF a frame start writes the MAC record alone. -/
theorem macFrameStart_listening (h : s.mac.state = .idle ∨ s.mac.state = .deferring) :
    macFrameStart s = { s with mac := { s.mac with state := .receiving, gap := none } } := by
  rcases h with h | h <;> simp [macFrameStart, h, modMac]

theorem macFrameStart_signal (h : s.mac.state = .signal) :
    macFrameStart s = { s with mac := { s.mac with state := .receiving, candidate := none } } := by
  simp [macFrameStart, h, modMac]

theorem macFrameStart_waiting (h : s.mac.state = .awaitingResponse ∨ s.mac.state = .responding) : macFrameStart s = s := by
  rcases h with h | h <;> simp [macFrameStart, h]

theorem macFrameStart_backoff (h : s.mac.state = .backoff) : macFrameStart s = deferToFrame s := by
  simp [macFrameStart, h]

theorem deferToFrame_below (h : s.mac.deferral + 1 < s.settings.deferralLimit) :
    deferToFrame s = bump .deferrals { s with mac :=
      { s.mac with state := .receiving, candidate := none, deferral := s.mac.deferral + 1 } } := by
  simp [deferToFrame, modMac, Nat.not_le.2 h]

theorem deferToFrame_limit (h : s.settings.deferralLimit ≤ s.mac.deferral + 1) :
    deferToFrame s = bump .stageRaises (bump .deferrals { s with mac :=
      { s.mac with state := .receiving, candidate := none, stage := min 5 (s.mac.stage + 1), deferral := 0 } }) := by
  simp [deferToFrame, modMac, h, stageUp]

/-- R44, R45: a frozen counter is used without a new draw. -/
theorem enterBackoff_frozen {n : Nat} (h : s.mac.backoff = some n) (hn : n ≠ 0) :
    enterBackoff s = { s with mac := { s.mac with state := .backoff, toneHeard := false } } := by
  simp [enterBackoff, h, modMac, hn]

end

/-- Settles O19, by the state of the MAC. -/
theorem frameStartOpensReception : Obligations.FrameStartOpensReception := by
  intro s p delay energies hl r answer
  let opened : State := { s with line := { s.line with reception := some r } }
  refine ⟨fun hup hsending hreception => ?_, fun hdeaf => ?_⟩
  · have hstart : exec (.frameStart p ⟨delay, energies⟩) s = .next (macFrameStart opened) :=
      exec_frameStart_of_detects p ⟨delay, energies⟩ hl (State.detects_iff.2 ⟨hup, hsending, hreception⟩)
    rw [hstart]
    exact ⟨fun h => congrArg _ (macFrameStart_listening (s := opened) h), fun h => congrArg _ (macFrameStart_signal (s := opened) h),
      fun h => congrArg _ (macFrameStart_waiting (s := opened) h)⟩
  · refine exec_frameStart_of_not_detects p ⟨delay, energies⟩ hl fun hd => ?_
    obtain ⟨hup, hsending, hreception⟩ := State.detects_iff.1 hd
    exact hdeaf.elim hup fun h => h.elim (fun h => h hsending) fun h => h hreception

/-- Settles O20, by whether the deferral reaches its limit. -/
theorem frameStartInBackoff : Obligations.FrameStartInBackoff := by
  refine ⟨?_, fun s n => enterBackoff_frozen⟩
  intro s p delay energies hl hup hsending hreception hback r opened
  have hstart : exec (.frameStart p ⟨delay, energies⟩) s = .next (deferToFrame opened) :=
    (exec_frameStart_of_detects p ⟨delay, energies⟩ hl (State.detects_iff.2 ⟨hup, hsending, hreception⟩)).trans
      (congrArg _ (macFrameStart_backoff (s := opened) hback))
  rw [hstart]
  exact ⟨fun h => congrArg _ (deferToFrame_below (s := opened) h), fun h => congrArg _ (deferToFrame_limit (s := opened) h)⟩

/-! ### The header event (R23, R25, R26) -/

section
variable {s : State} {r : Reception} {copies : List (Pair × List Byte)} {h : Header}

theorem usedHeader_eq_none (hc : ∀ c ∈ copies, headerCheck c.2 = false ∨ readHeader c.1 c.2 = none) : usedHeader copies = none :=
  List.findSome?_eq_none_iff.2 fun c hmem => by rcases hc c hmem with hx | hx <;> simp [hx]

/-- R23: the first copy that passes both tests is the one used. -/
theorem usedHeader_first {before after : List (Pair × List Byte)} {c : Pair × List Byte}
    (hb : ∀ d ∈ before, headerCheck d.2 = false ∨ readHeader d.1 d.2 = none) (hc : headerCheck c.2 = true)
    (hr : readHeader c.1 c.2 = some h) : usedHeader (before ++ c :: after) = some h := by
  unfold usedHeader
  rw [List.findSome?_append, show before.findSome? _ = none from usedHeader_eq_none hb]
  simp [hc, hr]

theorem setHeader_eq (x : HeaderState) (hr : s.line.reception = some r) :
    setHeader x s = { s with line := { s.line with reception := some { r with header := x } } } := by
  simp [setHeader, modLine, hr]

/-- R25: the header event with no header to use. -/
theorem takeHeader_unused (hr : s.line.reception = some r) (hu : usedHeader copies = none) :
    takeHeader copies s =
      bump (if copies.any fun c => headerCheck c.2 then .malformedHeaders else .headerCheckFailures)
        { s with line := { s.line with reception := some { r with header := .failed } } } := by
  unfold takeHeader
  simp only [hr, hu]
  exact setHeader_eq .failed hr

theorem filterCase_foreign (hh : h.house ≠ s.settings.house) : s.filterCase h = .foreign := if_pos hh

theorem filterCase_clash (hh : h.house = s.settings.house) (ht : h.tx = s.settings.station ∨ h.tx = Addr.broadcast) :
    s.filterCase h = .clash := by
  unfold State.filterCase
  rw [if_neg (not_not_intro hh), if_pos ht]

/-- R26: a foreign or a clashing header counts, and is kept with no grid tag resolved. -/
theorem takeHeader_foreign (hr : s.line.reception = some r) (hu : usedHeader copies = some h) (hc : s.filterCase h = .foreign) :
    takeHeader copies s = bump .foreignFrames
      { s with line := { s.line with reception := some { r with header := .used h .foreign .robust } } } := by
  simp [takeHeader, hr, hu, hc, filterEffect, State.headerResolution, setHeader_eq _ (s := bump _ s) hr]
  rfl

theorem takeHeader_clash (hr : s.line.reception = some r) (hu : usedHeader copies = some h) (hc : s.filterCase h = .clash) :
    takeHeader copies s = bump .addressClashes
      { s with line := { s.line with reception := some { r with header := .used h .clash .robust } } } := by
  simp [takeHeader, hr, hu, hc, filterEffect, State.headerResolution, setHeader_eq _ (s := bump _ s) hr]
  rfl

/-- The header event whose effect leaves the port, the queues and the table as they were. -/
theorem exec_headerEvent_at_rest {c : List (Pair × Demodulated)} {t : State} (hl : s.Live) (hs : s.Rested)
    (hr : s.line.reception = some r) (ha : r.header = .awaited) (hnow : s.lineTime = r.frameStart.plus 192)
    (ht : takeHeader (r.headerCopies c) s = t) (he : t.evalDue = s.evalDue) (hp : t.port = s.port) (hq : t.queues = s.queues)
    (htab : t.table = s.table) : exec (.headerEvent c) s = .next t := by
  rw [exec_headerEvent c hl hr ha hnow, ht]
  exact congrArg _ (settle_at_rest hs he hp hq htab)

/-- R23: the copies stand in pair order. -/
theorem headerCopies_sorted (r : Reception) (copies : List (Pair × Demodulated)) :
    (r.headerCopies copies).Pairwise fun c d => c.1 ≤ d.1 := by
  unfold Reception.headerCopies
  rw [List.pairwise_flatMap]
  refine ⟨fun p _ => ?_, ?_⟩
  · rw [List.pairwise_map]
    exact List.pairwise_of_forall fun _ _ => Fin.le_refl p
  · refine (finRange_sorted 3).imp fun {p q} hlt x hx y hy => ?_
    obtain ⟨_, -, rfl⟩ := List.mem_map.1 hx
    obtain ⟨_, -, rfl⟩ := List.mem_map.1 hy
    exact Fin.le_of_lt hlt

theorem mem_headerCopies_iff {copies : List (Pair × Demodulated)} {c : Pair × List Byte} :
    c ∈ r.headerCopies copies ↔ ∃ x ∈ copies, c = (x.1, r.headerBytes x.1 x.2) := by
  simp only [Reception.headerCopies, List.mem_flatMap, List.mem_finRange, true_and, List.mem_map, List.mem_filter, beq_iff_eq]
  constructor
  · rintro ⟨p, x, ⟨hx, rfl⟩, rfl⟩
    exact ⟨x, hx, rfl⟩
  · rintro ⟨x, hx, rfl⟩
    exact ⟨x.1, x, ⟨hx, rfl⟩, rfl⟩

end

/-- Settles O21. -/
theorem headerNotUsed : Obligations.HeaderNotUsed := by
  refine ⟨?_, ?_, fun r copies => ⟨headerCopies_sorted r copies, fun c => mem_headerCopies_iff⟩, ?_⟩
  · intro s r copies hl hs hr ha hnow failed
    have hexec (hu : usedHeader (r.headerCopies copies) = none) : exec (.headerEvent copies) s = .next
        (bump (if (r.headerCopies copies).any fun c => headerCheck c.2 then .malformedHeaders else .headerCheckFailures) failed) :=
      exec_headerEvent_at_rest hl hs hr ha hnow (takeHeader_unused hr hu) rfl rfl rfl rfl
    refine ⟨fun hnone => ?_, fun hsome hunread => ?_⟩
    · rw [hexec (usedHeader_eq_none fun c hc => .inl (hnone c hc)), if_neg]
      simpa using hnone
    · rw [hexec (usedHeader_eq_none fun c hc => (Bool.eq_false_or_eq_true _).symm.imp_right (hunread c hc)), if_pos]
      simpa using hsome
  · intro copies unread
    refine ⟨usedHeader_eq_none, fun before c after h hcopies hb hc hread => ?_⟩
    rw [hcopies]
    exact usedHeader_first hb hc hread
  · intro s r copies h hl hs hr ha hnow hu used
    refine ⟨fun hhouse => ?_, fun hhouse htx => ?_⟩
    · exact exec_headerEvent_at_rest hl hs hr ha hnow (takeHeader_foreign hr hu (filterCase_foreign hhouse)) rfl rfl rfl rfl
    · exact exec_headerEvent_at_rest hl hs hr ha hnow (takeHeader_clash hr hu (filterCase_clash hhouse htx)) rfl rfl rfl rfl

/-! ### Payload symbols (R36, R72, R120) -/

section
variable {s : State} {r : Reception} {h : Header} {f : FilterCase} {x : Resolution}

theorem exec_payloadSymbolStart_of_due (hl : s.Live) (hr : s.line.reception = some r) (hh : r.header = .used h f x)
    (hlt : r.slots.length < h.payloadSymbols) (hnow : s.lineTime = r.frameStart.plus (192 + 32 * r.slots.length)) :
    exec .payloadSymbolStart s = .next { s with line := { s.line with reception := some (r.noteSymbol s.slot) } } := by
  have hnote : noteSymbolNow s = { s with line := { s.line with reception := some (r.noteSymbol s.slot) } } := by
    simp [noteSymbolNow, modLine, hr]
  rw [← hnote]
  exact live_due (b := State.symbolDue) hl (State.symbolDue_iff.2 ⟨r, h, f, x, hr, hh, hlt, hnow⟩)

/-- R120: a per-slot grid-loaded frame takes the column of the slot. -/
theorem Reception.noteSymbol_latched {l : Latched} (m : MainsSlot) (hh : r.header = .used h f (.latched l)) (hfloor : h.floor = false) :
    r.noteSymbol m = { r with slots := r.slots ++ [m], columns := r.columns ++ [l.grid.map[m]] } := by
  simp [Reception.noteSymbol, hh, hfloor]

theorem Reception.noteSymbol_plain (m : MainsSlot) (hh : r.header = .used h f x)
    (hx : h.floor = true ∨ x = .robust ∨ x = .unresolved) : r.noteSymbol m = { r with slots := r.slots ++ [m] } := by
  rcases hx with hfloor | rfl | rfl
  · cases x <;> simp [Reception.noteSymbol, hh, hfloor]
  · simp [Reception.noteSymbol, hh]
  · simp [Reception.noteSymbol, hh]

end

/-- Settles O24. -/
theorem payloadSymbolNotesSlot : Obligations.PayloadSymbolNotesSlot := by
  refine ⟨?_, fun s f hl hf hk hnow => ?_⟩
  · intro s r h f x hl hr hh hlt hnow noted
    rw [exec_payloadSymbolStart_of_due hl hr hh hlt hnow]
    refine ⟨fun l hx hfloor => ?_, fun hx => ?_⟩
    · rw [Reception.noteSymbol_latched s.slot (hx ▸ hh) hfloor]
    · rw [Reception.noteSymbol_plain s.slot hh hx]
  · exact live_due (b := State.soundPayloadDue) (f := noteOwnSlot) hl (State.soundPayloadDue_iff.2 ⟨f, hf, hk, hnow⟩)

/-! ### The end of a reception that is not processed (R39) -/

section
variable {s : State} {r : Reception} {h : Header} {f : FilterCase} {x : Resolution}

/-- The part with its reception closed. -/
def State.closed (s : State) : State := { s with line := { s.line with reception := none } }

theorem resolveWait_of_not_waiting (hm : s.mac.state ≠ .awaitingResponse) : resolveWait s = s := if_neg hm

theorem exec_frameEnd_failed (payload : Demodulated) (readings : List (List Int)) (hl : s.Live) (hr : s.line.reception = some r)
    (hh : r.header = .failed) :
    exec (.frameEnd payload readings) s = .next (settle s.txCharge (enterQuietGap (resolveWait s.closed))) := by
  have hdue : s.frameEndDue = true := by simp [State.frameEndDue, hr, hh]
  have hend : endReception (s.payloadBytes payload) readings s = enterQuietGap (resolveWait s.closed) := by
    simp only [endReception, hr, hh]
    rfl
  have hexec : exec (.frameEnd payload readings) s = .next (settle s.txCharge (endReception (s.payloadBytes payload) readings s)) :=
    live_due (b := State.frameEndDue) (f := settled fun s => endReception (s.payloadBytes payload) readings s) hl hdue
  rw [hexec, hend]

/-- R39: a reception that this station does not process resolves an open wait and takes its next step. -/
theorem endReception_unprocessed (payload : List Byte) (readings : List (List Int)) (hr : s.line.reception = some r)
    (hh : r.header = .used h f x) (hf : f ≠ .processed) :
    endReception payload readings s = nextStep h f (resolveWait s.closed) := by
  simp only [endReception, hr, hh, if_neg hf]
  rfl

theorem nextStep_resp (hk : h.kind = .resp) : nextStep h f s = beginPeriod s := if_pos hk

theorem nextStep_broadcast (hk : h.kind = .sound ∨ h.kind = .note) : nextStep h f s = enterQuietGap s := by
  rcases hk with hk | hk <;> simp [nextStep, hk, FrameKind.unicast]

theorem nextStep_foreign (hk : h.kind = .data ∨ h.kind = .grid) : nextStep h .foreign s = enterQuietGap s := by
  rcases hk with hk | hk <;> simp [nextStep, hk]

theorem nextStep_processed (hk : h.kind = .data ∨ h.kind = .grid) : nextStep h .processed s = answerOrGap s := by
  rcases hk with hk | hk <;> simp [nextStep, hk, FrameKind.unicast]

theorem nextStep_overheard (hk : h.kind = .data ∨ h.kind = .grid) (h1 : f ≠ .foreign) (h2 : f ≠ .processed) :
    nextStep h f s = enterResponseGap s := by
  rcases hk with hk | hk <;> simp [nextStep, hk, FrameKind.unicast, h1, h2]

end

/-- Settles O25: with no wait open the reception closes and the next step follows. -/
theorem frameEndOpensGap : Obligations.FrameEndOpensGap := by
  intro s r payload readings hl hs hr hm gap
  have hwait : resolveWait s.closed = s.closed := resolveWait_of_not_waiting (by simp [State.closed, hm])
  have hquiet : settle s.txCharge (enterQuietGap s.closed) = enterQuietGap s.closed := settle_at_rest hs rfl rfl rfl rfl
  have hresponse : settle s.txCharge (enterResponseGap s.closed) = enterResponseGap s.closed := settle_at_rest hs rfl rfl rfl rfl
  refine ⟨fun hh => ?_, fun h f x hh hf hnow => ?_⟩
  · rw [exec_frameEnd_failed payload readings hl hr hh, hwait, hquiet]
    rfl
  · have hexec : exec (.frameEnd payload readings) s = .next (settle s.txCharge (nextStep h f s.closed)) := by
      rw [exec_frameEnd payload readings hl hr hh hnow, endReception_unprocessed _ _ hr hh hf, hwait]
    rw [hexec]
    refine ⟨fun hk => ?_, fun hk hforeign => ?_, fun hk hforeign => ?_, fun hk => ?_⟩
    · rw [nextStep_broadcast hk, hquiet]
      rfl
    · rw [hforeign, nextStep_foreign hk, hquiet]
      rfl
    · rw [nextStep_overheard hk hforeign hf, hresponse]
      rfl
    · rw [nextStep_resp hk]
      obtain ⟨st, c, tw, hst, hmac⟩ := begun_mac s.txCharge s.closed
      have hended : Ended s.closed (settle s.txCharge (beginPeriod s.closed)) := (Ended.refl _).beginPeriod.settle _
      refine ⟨_, rfl, rfl, ?_, ?_, ?_, hended.endedAs hs.1 (settle_eval _ _)⟩
      · rw [hmac]; rfl
      · rw [hmac]
      · rw [hmac]; exact hst

end Sys2Proof.Machine
end

/-! ## Proofs: headers of this house

The header event of a station with an entry, of a new one, and of one that finds no entry to take. -/

section

namespace Sys2Proof.Machine

/-! ### Offset samples and grid tags (R16, R110) -/

section
variable {s : State} {h : Header} {i : EntryIx}

/-- R16: a sample by its residual, the distance of six times the turn from the nearest whole slot. -/
theorem offsetSample_eq {fr ft : Nat} (hft : ft < 1024) :
    let d := (fr + 1024 - ft) % 1024
    let j := (6 * d + 512) / 1024
    offsetSample fr ft =
      if 256 < max (6 * d) (1024 * j) - min (6 * d) (1024 * j) then none else some (Fin.ofNat 6 (j % 6)) := by
  intro d j
  have hd : (fr + 1024 - ft % 1024) % 1024 = d := by rw [Nat.mod_eq_of_lt hft]
  have hresidual : (if 6 * d ≥ 1024 * j then 6 * d - 1024 * j else 1024 * j - 6 * d) =
      max (6 * d) (1024 * j) - min (6 * d) (1024 * j) := by split <;> omega
  have hturn : Fin.ofNat 6 j = Fin.ofNat 6 (j % 6) := Fin.ext (Nat.mod_mod j 6).symm
  unfold offsetSample
  rw [hd, ← hturn, ← hresidual]

/-- R110: the grid that a role's slot latches for a tag and a pair. -/
theorem State.latch_eq_some {e : EntryIx} {role : Role} {tag : Byte} {p : Pair} {l : Latched} :
    s.latch e role tag p = some l ↔
      s.roleSlot e role = some l.slot ∧ (s.pool[l.slot]).map (·.grid) = some l.grid ∧ l.grid.tag = tag ∧ l.grid.pair = p := by
  unfold State.latch
  obtain ⟨slot, grid⟩ := l
  cases hslot : s.roleSlot e role with
  | none => simp
  | some k =>
    dsimp only
    cases hk : s.pool[k] with
    | none =>
      refine ⟨nofun, ?_⟩
      rintro ⟨hk', hgrid, -⟩
      cases hk'
      simp [hk] at hgrid
    | some g =>
      constructor
      · intro heq
        dsimp only at heq
        split at heq
        · cases heq
          exact ⟨rfl, by rw [hk]; rfl, ‹_›⟩
        · cases heq
      · rintro ⟨hk', hgrid, htag⟩
        cases hk'
        rw [hk] at hgrid
        cases hgrid
        exact if_pos htag

theorem State.latch_eq_none {e : EntryIx} {role : Role} {tag : Byte} {p : Pair}
    (hn : ∀ l : Latched, ¬(s.roleSlot e role = some l.slot ∧ (s.pool[l.slot]).map (·.grid) = some l.grid ∧ l.grid.tag = tag ∧
      l.grid.pair = p)) : s.latch e role tag p = none :=
  Option.eq_none_iff_forall_ne_some.2 fun l hl => hn l (State.latch_eq_some.1 hl)

theorem resolveTag_of_unknown (hf : s.findEntry h.tx = none) : s.resolveTag h = .unresolved := by
  simp [State.resolveTag, hf]

/-- R110: a tag that is not 0, by what the entry's two receiving roles latch. -/
theorem resolveTag_of_tagged (hf : s.findEntry h.tx = some i) (ht : h.tag ≠ 0#8) :
    s.resolveTag h = match s.latch i .rxCurrent h.tag h.pair with
      | some l => .latched l
      | none =>
        match s.latch i .rxPending h.tag h.pair with
        | some l => .latched l
        | none => .unresolved := by
  unfold State.resolveTag
  simp only [hf, if_neg ht] <;> rfl

/-- R126: an entry is LINKED by its TX-ACTIVE or RX-CURRENT grid. -/
theorem State.heardState_eq : s.heardState i =
    if s.roleSlot i .txActive ≠ none ∨ s.roleSlot i .rxCurrent ≠ none then .linked else .heard := by
  simp [State.heardState, Option.isSome_iff_ne_none]

end

/-! ### What learning leaves (R127 to R129) -/

section
variable {s : State} {h : Header} {i : EntryIx} {e : Entry}

/-- R127: a REMOTE or STALE entry heard again changes its state, and the routes are formed again. -/
theorem learn_absent (trusted : Bool) (hf : s.findEntry h.tx = some i) (he : s.entry i = some e)
    (hst : e.state = .remote ∨ e.state = .stale) :
    learn h.tx trusted s = recompute (markEval (setEntry i (some { e with
      state := if e.state = .stale ∧ (s.roleSlot i .txActive ≠ none ∨ s.roleSlot i .rxCurrent ≠ none) then .linked else .heard
      lastHeard := some s.lineTime, peerTrusted := trusted
      lastNamed := if e.state = .remote then none else e.lastNamed }) s)) := by
  have hlearned : s.learnedState i e.state =
      if e.state = .stale ∧ (s.roleSlot i .txActive ≠ none ∨ s.roleSlot i .rxCurrent ≠ none) then .linked else .heard := by
    rcases hst with hst | hst
    · simp [State.learnedState, hst]
    · simp only [State.learnedState, hst, State.heardState_eq, true_and]
  have hchanged : s.learnedState i e.state ≠ e.state := by
    rw [hlearned]
    rcases hst with hst | hst
    · simp [hst]
    · rw [hst]; split <;> simp
  unfold learn
  simp only [hf, hearAgain, he]
  rw [if_neg hchanged, hlearned]

theorem EntryFrame.setEntry {x : State} (hx : EntryFrame s x) (j : EntryIx) (y : Option Entry) : EntryFrame s (setEntry j y x) :=
  hx.of rfl

theorem EntryFrame.markEval {x : State} (hx : EntryFrame s x) : EntryFrame s (markEval x) := hx.of rfl

theorem EntryFrame.bump {x : State} (hx : EntryFrame s x) (c : Counter) : EntryFrame s (bump c x) := hx.of rfl

theorem findEntry_recompute (a : Addr) : (recompute s).findEntry a = s.findEntry a :=
  findEntry_congr fun j => by rw [recompute_addr]

theorem recompute_others (i : EntryIx) : s.OthersKept (recompute s) i := fun j _ => recompute_unrouted s j

theorem OthersKept.trans {t u : State} (h1 : s.OthersKept t i) (h2 : t.OthersKept u i) : s.OthersKept u i := fun j hj =>
  (h2 j hj).trans (h1 j hj)

theorem OthersKept.of_entries {t : State} (hj : ∀ j, j ≠ i → t.entry j = s.entry j) : s.OthersKept t i := fun j hne => by
  rw [hj j hne]

/-- R137: an entry that is present always has a route. -/
theorem chooseRoute_present (table : Vector (Option Entry) 24) (rates : EntryIx → Nat) (d : EntryIx) (hp : e.state.present = true) :
    chooseRoute table rates d e ≠ .noRoute := by
  unfold chooseRoute
  dsimp only
  rw [hp]
  simp only [if_true, Bool.true_and]
  repeat' split
  all_goals simp

/-- R128: a new entry that is present has a route. -/
theorem createEntry_routed (hp : e.state.present = true) {x : Entry} (hx : (createEntry i e s).entry i = some x) :
    x.route ≠ .noRoute := by
  have hformed : (formRoute i (Machine.setEntry i (some e) s)).entry i = (Machine.setEntry i (some e) s).rerouted i :=
    entry_setEntry_self _ _ _
  unfold createEntry at hx
  dsimp only at hx
  rw [entry_mark, entry_bump, recompute_entry] at hx
  unfold State.rerouted at hx
  rw [hformed] at hx
  unfold State.rerouted at hx
  rw [entry_setEntry_self] at hx
  cases hx
  exact chooseRoute_present _ _ _ hp

/-- R129: the entry to replace, by the age of the STALE entries, or with none of them of the REMOTE ones. -/
theorem replaceable_of_oldest {age : Option LineTime → Nat} (hage : age = fun x => (x.map fun a => a.dist s.lineTime).getD 0)
    (ho : (∃ e, s.entry i = some e ∧ e.state = .stale ∧ ∀ (j : EntryIx) (x : Entry), s.entry j = some x → x.state = .stale →
        age x.lastHeard ≤ age e.lastHeard ∧ (j < i → age x.lastHeard < age e.lastHeard)) ∨
      ((∀ (j : EntryIx) (x : Entry), s.entry j = some x → x.state ≠ .stale) ∧
        ∃ e, s.entry i = some e ∧ e.state = .remote ∧ ∀ (j : EntryIx) (x : Entry), s.entry j = some x → x.state = .remote →
          age x.lastNamed ≤ age e.lastNamed ∧ (j < i → age x.lastNamed < age e.lastNamed))) :
    s.replaceable = some i := by
  subst hage
  have hstale (j : EntryIx) (x : Entry) (hx : s.entry j = some x) (hs : x.state ≠ .stale) : s.staleAge j = none := by
    simp [State.staleAge, hx, hs]
  unfold State.replaceable
  rcases ho with ⟨e, he, hst, hmax⟩ | ⟨hnone, e, he, hst, hmax⟩
  · have hold : oldestBy s.staleAge = some i := by
      refine oldestBy_some (a := (e.lastHeard.map fun t => t.dist s.lineTime).getD 0) (by simp [State.staleAge, he, hst]) fun j b hb => ?_
      unfold State.staleAge at hb
      split at hb
      · rename_i x hx
        split at hb
        · cases hb
          exact hmax j x hx ‹_›
        · cases hb
      · cases hb
    rw [hold]
  · have hold : oldestBy s.remoteAge = some i := by
      refine oldestBy_some (a := (e.lastNamed.map fun t => t.dist s.lineTime).getD 0) (by simp [State.remoteAge, he, hst]) fun j b hb => ?_
      unfold State.remoteAge at hb
      split at hb
      · rename_i x hx
        split at hb
        · cases hb
          exact hmax j x hx ‹_›
        · cases hb
      · cases hb
    have hno : oldestBy s.staleAge = none := oldestBy_none fun j => by
      cases hj : s.entry j with
      | none => simp [State.staleAge, hj]
      | some x => exact hstale j x hj (hnone j x hj)
    rw [hno, hold]

theorem replaceable_of_present (hp : ∀ (i : EntryIx) (e : Entry), s.entry i = some e → e.state = .heard ∨ e.state = .linked) :
    s.replaceable = none := by
  have hstale : oldestBy s.staleAge = none := oldestBy_none fun j => by
    cases hj : s.entry j with
    | none => simp [State.staleAge, hj]
    | some x => rcases hp j x hj with hx | hx <;> simp [State.staleAge, hj, hx]
  have hremote : oldestBy s.remoteAge = none := oldestBy_none fun j => by
    cases hj : s.entry j with
    | none => simp [State.remoteAge, hj]
    | some x => rcases hp j x hj with hx | hx <;> simp [State.remoteAge, hj, hx]
  simp [State.replaceable, hstale, hremote]

end

/-! ### The header event of a header of this house (R26, R27) -/

/-- R26, R27: what a header of this house does once its transmitter has been learned, by whether it is addressed to this station. -/
def State.afterLearn (s : State) (r : Reception) (h : Header) (y : State) : State :=
  if h.Addressed s then beginProcessed r h (sampleHeader r h y) else y

/-- R26: the header as the reception keeps it, resolved in the state `z`. -/
def State.keptHeader (s : State) (h : Header) (z : State) : HeaderState :=
  .used h (if h.Addressed s then .processed else .overheard) (if h.Addressed s ∧ h.kind = .data then z.resolveTag h else .robust)

section
variable {s : State} {r : Reception} {copies : List (Pair × Demodulated)} {h : Header}

/-- R27: which frames are processed is a matter of the receiver's address; a foreign or clashing header is none of these. -/
structure HeaderHeard (s : State) (r : Reception) (copies : List (Pair × Demodulated)) (h : Header) : Prop where
  live : s.Live
  rested : s.Rested
  reception : s.line.reception = some r
  awaited : r.header = .awaited
  now : s.lineTime = r.frameStart.plus 192
  used : usedHeader (r.headerCopies copies) = some h
  house : h.house = s.settings.house
  other : h.tx ≠ s.settings.station
  individual : h.tx ≠ Addr.broadcast

theorem HeaderHeard.answer (hh : HeaderHeard s r copies h) :
    exec (.headerEvent copies) s = .next (settle s.txCharge
      (setHeader (s.keptHeader h (s.afterLearn r h (learn h.tx h.trusted s))) (s.afterLearn r h (learn h.tx h.trusted s)))) := by
  rw [exec_headerEvent copies hh.live hh.reception hh.awaited hh.now,
    takeHeader_addr hh.reception hh.used hh.house hh.other hh.individual]
  rfl

theorem State.afterLearn_addressed {y : State} (ha : h.Addressed s) :
    s.afterLearn r h y = beginProcessed r h (sampleHeader r h y) := if_pos ha

theorem State.afterLearn_overheard {y : State} (ha : ¬h.Addressed s) : s.afterLearn r h y = y := if_neg ha

theorem State.keptHeader_overheard {z : State} (ha : ¬h.Addressed s) : s.keptHeader h z = .used h .overheard .robust := by
  simp only [State.keptHeader, ha, false_and, if_false]

theorem State.keptHeader_data {z : State} (ha : h.Addressed s) (hk : h.kind = .data) :
    s.keptHeader h z = .used h .processed (z.resolveTag h) := by
  simp only [State.keptHeader, ha, hk, true_and, if_true]

theorem State.keptHeader_control {z : State} (ha : h.Addressed s) (hk : h.kind ≠ .data) :
    s.keptHeader h z = .used h .processed .robust := by
  simp only [State.keptHeader, if_pos ha, hk, and_false, if_false]

theorem beginProcessed_data {y : State} (hk : h.kind = .data) : beginProcessed r h y =
    bump (.dataReceived h.priority) { y with mac := { y.mac with duty := some (h.duty r.frameStart) } } := by
  simp [beginProcessed, hk, openDuty, FrameKind.unicast, modMac]

theorem beginProcessed_grid {y : State} (hk : h.kind = .grid) :
    beginProcessed r h y = { y with mac := { y.mac with duty := some (h.duty r.frameStart) } } := by
  simp [beginProcessed, hk, openDuty, FrameKind.unicast, modMac]

theorem beginProcessed_other {y : State} (h1 : h.kind ≠ .data) (h2 : h.kind ≠ .grid) : beginProcessed r h y = y := by
  cases hk : h.kind <;> simp_all [beginProcessed, openDuty, FrameKind.unicast]

theorem sampleHeader_unicast {y : State} (h1 : h.kind ≠ .sound) (h2 : h.kind ≠ .note) : sampleHeader r h y = y := by
  cases hk : h.kind <;> simp_all [sampleHeader]

/-- R16: the sample of a SOUND or NOTE header of a station with an entry. -/
theorem sampleHeader_broadcast {y : State} {i : EntryIx} (hk : h.kind = .sound ∨ h.kind = .note) (hf : y.findEntry h.tx = some i) :
    sampleHeader r h y = takeOffsetSample i r.stampPhase r.stampTrusted h.phase.toNat h.trusted y := by
  rcases hk with hk | hk <;> simp [sampleHeader, hk, hf]

theorem sampleHeader_unknown {y : State} (hf : y.findEntry h.tx = none) : sampleHeader r h y = y := by
  cases hk : h.kind <;> simp [sampleHeader, hk, hf]

theorem dutyAfter_data (ha : h.Addressed s) (hk : h.kind = .data) : s.dutyAfter r h = some (h.duty r.frameStart) := by
  rw [duty_unicast (.inl hk)]
  exact if_pos ⟨ha, .inl hk⟩

theorem dutyAfter_grid (ha : h.Addressed s) (hk : h.kind = .grid) : s.dutyAfter r h = some (h.duty r.frameStart) := by
  rw [duty_unicast (.inr hk)]
  exact if_pos ⟨ha, .inr hk⟩

theorem dutyAfter_other (hn : ¬(h.Addressed s ∧ (h.kind = .data ∨ h.kind = .grid))) : s.dutyAfter r h = s.mac.duty := if_neg hn

/-- The header event whose transmitter has been learned at index `i` as the entry `x` in the state `y`: what the command answers. -/
theorem HeaderHeard.learned {y : State} {i : EntryIx} {x : Entry} (hh : HeaderHeard s r copies h)
    (hlearn : learn h.tx h.trusted s = y) (hy : EntryFrame s y) (hf : y.findEntry h.tx = some i) (hx : y.entry i = some x)
    (hc1 : ∀ p, y.count (.dataReceived p) = s.count (.dataReceived p)) (hc2 : y.count .misalignedOffsets = s.count .misalignedOffsets) :
    ∃ t z : State, exec (.headerEvent copies) s = .next t ∧ z.findEntry h.tx = some i ∧ z.pool = y.pool ∧ s.Told t r h ∧
      t.entry i = some { x with offset := if h.Addressed s then r.offsetAfter h x.offset else x.offset } ∧
      (∀ j, j ≠ i → t.entry j = y.entry j) ∧ t.pool = y.pool ∧ t.addressMap = y.addressMap ∧ t.inFlight = y.inFlight ∧
      t.control = y.control ∧
      (∀ c : Counter, (∀ p, (Counter.dataReceived p).index ≠ c.index) → Counter.misalignedOffsets.index ≠ c.index →
        Counter.unreachableDrops.index ≠ c.index → Counter.thermalDeferral.index ≠ c.index → t.count c = y.count c) ∧
      t = { s with line := { s.line with reception := some { r with header := s.keptHeader h z } }, table := t.table, pool := t.pool,
                   addressMap := t.addressMap, inFlight := t.inFlight, control := t.control }.endedAs t := by
  obtain ⟨hfind, hpool⟩ := findEntry_addressed (r := r) hy hf hx
  obtain ⟨htold, hentry, hothers, hp, hm, hi, hc, hcount, ht⟩ :=
    header_settled (s.keptHeader h (s.afterLearn r h y)) s.txCharge hh.reception hh.rested.1 hy hf hx hc1 hc2
  have hexec := hh.answer
  rw [hlearn] at hexec
  exact ⟨_, s.afterLearn r h y, hexec, hfind, hpool, htold, hentry, hothers, hp, hm, hi, hc, hcount, ht⟩

end

/-! ### A station with an entry -/

section
variable {s : State} {r : Reception} {copies : List (Pair × Demodulated)} {h : Header} {i : EntryIx} {e : Entry}

/-- R127: the header event of a REMOTE or STALE station. -/
theorem HeaderHeard.absent (hh : HeaderHeard s r copies h) (hf : s.findEntry h.tx = some i) (he : s.entry i = some e)
    (hst : e.state = .remote ∨ e.state = .stale) :
    let header := HeaderState.used h (if h.Addressed s then .processed else .overheard)
      (if h.Addressed s ∧ h.kind = .data then s.resolveTag h else .robust)
    ∃ t e', exec (.headerEvent copies) s = .next t ∧ t.entry i = some e' ∧
      e' = { e with
        state := if e.state = .stale ∧ (s.roleSlot i .txActive ≠ none ∨ s.roleSlot i .rxCurrent ≠ none) then .linked else .heard,
        lastHeard := some s.lineTime, peerTrusted := h.trusted,
        lastNamed := if e.state = .remote then none else e.lastNamed,
        offset := if h.Addressed s then r.offsetAfter h e.offset else e.offset,
        txRate := e'.txRate, route := e'.route } ∧
      s.OthersKept t i ∧ s.Told t r h ∧
      t = { s with table := t.table, line := { s.line with reception := some { r with header := header } } }.endedAs t := by
  intro header
  have hlearn := learn_absent h.trusted hf he hst
  let heard : Entry := { e with
    state := if e.state = .stale ∧ (s.roleSlot i .txActive ≠ none ∨ s.roleSlot i .rxCurrent ≠ none) then .linked else .heard
    lastHeard := some s.lineTime, peerTrusted := h.trusted
    lastNamed := if e.state = .remote then none else e.lastNamed }
  let w : State := markEval (setEntry i (some heard) s)
  have hy : EntryFrame s (recompute w) := (((EntryFrame.refl s).setEntry i _).markEval).recompute
  have hfind : (recompute w).findEntry h.tx = some i :=
    (findEntry_recompute h.tx).trans ((findEntry_set (x := heard) he rfl).trans hf)
  have hx : (recompute w).entry i = some { heard with txRate := w.directRate i, route := chooseRoute w.table w.directRate i heard } := by
    rw [recompute_entry, State.rerouted, show w.entry i = some heard from entry_setEntry_self i (some heard) s]
    rfl
  obtain ⟨hpool, hmap, hflight, hcontrol⟩ :
      (recompute w).pool = s.pool ∧ (recompute w).addressMap = s.addressMap ∧ (recompute w).inFlight = s.inFlight ∧
        (recompute w).control = s.control :=
    ⟨recompute_pool w, recompute_addressMap w, recompute_inFlight w, recompute_control w⟩
  obtain ⟨t, z, hexec, hzf, hzp, htold, hentry, hothers, hp, hm, hi, hc, -, ht⟩ :=
    hh.learned hlearn hy hfind hx (fun p => cnt_recompute (by revert p; decide) w) (cnt_recompute (by decide) w)
  refine ⟨t, _, hexec, hentry, rfl, ?_, htold, ?_⟩
  · refine OthersKept.trans (t := recompute w) ?_ (OthersKept.of_entries hothers)
    exact OthersKept.trans (OthersKept.of_entries (t := w) fun j hj => entry_setEntry_ne hj _ s) (recompute_others i)
  · have hkept : s.keptHeader h z = header := by
      unfold State.keptHeader
      rw [resolveTag_congr (hzf.trans hf.symm) (hzp.trans hpool)]
    rw [hkept, hp, hm, hi, hc, hpool, hmap, hflight, hcontrol] at ht
    exact ht


/-- R16, R26, R27, R51: the header event of a HEARD or LINKED station, by what the header is. -/
theorem HeaderHeard.present (hh : HeaderHeard s r copies h) (hf : s.findEntry h.tx = some i) (he : s.entry i = some e)
    (hst : e.state = .heard ∨ e.state = .linked) :
    let heard : State :=
      { s with table := s.table.set i (some { e with lastHeard := some s.lineTime, peerTrusted := h.trusted }) }
    let used := fun (f : FilterCase) (x : Resolution) =>
      { heard with line := { s.line with reception := some { r with header := .used h f x } } }
    (¬h.Addressed s → exec (.headerEvent copies) s = .next (used .overheard .robust)) ∧
    (h.Addressed s → h.kind = .resp → exec (.headerEvent copies) s = .next (used .processed .robust)) ∧
    (h.Addressed s → h.kind = .data → exec (.headerEvent copies) s = .next (bump (.dataReceived h.priority)
      { used .processed (s.resolveTag h) with mac := { s.mac with duty := some (h.duty r.frameStart) } })) ∧
    (h.Addressed s → h.kind = .grid → exec (.headerEvent copies) s =
      .next { used .processed .robust with mac := { s.mac with duty := some (h.duty r.frameStart) } }) ∧
    (h.Addressed s → h.kind = .sound ∨ h.kind = .note →
      (r.stampTrusted = false ∨ h.trusted = false → exec (.headerEvent copies) s = .next (used .processed .robust)) ∧
      (r.stampTrusted = true → h.trusted = true →
        (offsetSample r.stampPhase h.phase.toNat = none →
          exec (.headerEvent copies) s = .next (bump .misalignedOffsets (used .processed .robust))) ∧
        (∀ k, offsetSample r.stampPhase h.phase.toNat = some k →
          let sampled := { e with lastHeard := some s.lineTime, peerTrusted := h.trusted, offset := e.offset.apply k }
          exec (.headerEvent copies) s = .next { used .processed .robust with table := s.table.set i (some sampled) }))) := by
  intro heard used
  have hlearn : learn h.tx h.trusted s = heard := learned_known h.tx h.trusted hf he hst
  have hexec := hh.answer
  rw [hlearn] at hexec
  have hfind : heard.findEntry h.tx = some i := (findEntry_set (x := { e with lastHeard := some s.lineTime, peerTrusted := h.trusted }) he rfl).trans hf
  have hentry : heard.entry i = some { e with lastHeard := some s.lineTime, peerTrusted := h.trusted } :=
    entry_setEntry_self i _ s
  have hends {z t : State} {x : Entry} (hz : s.afterLearn r h heard = z) (ht : setHeader (s.keptHeader h z) z = t)
      (htable : t.table = s.table.set i (some x)) (hx : x.tx = e.tx) (hq : t.queues = s.queues) (hp : t.port = s.port)
      (hv : t.evalDue = s.evalDue) : exec (.headerEvent copies) s = .next t := by
    rw [hexec, hz, ht, settle_one x hh.rested he hx htable hq hp hv]
  refine ⟨fun ha => ?_, fun ha hk => ?_, fun ha hk => ?_, fun ha hk => ?_, fun ha hk => ⟨fun huntrusted => ?_, fun ht1 ht2 =>
    ⟨fun hoff => ?_, ?_⟩⟩⟩
  · refine hends (State.afterLearn_overheard ha) ?_ rfl rfl rfl rfl rfl
    rw [State.keptHeader_overheard ha]
    exact setHeader_eq _ hh.reception
  · have hz : s.afterLearn r h heard = heard := by
      rw [State.afterLearn_addressed ha, sampleHeader_unicast (by simp [hk]) (by simp [hk]), beginProcessed_other (by simp [hk]) (by simp [hk])]
    refine hends hz ?_ rfl rfl rfl rfl rfl
    rw [State.keptHeader_control ha (by simp [hk])]
    exact setHeader_eq _ hh.reception
  · have hz : s.afterLearn r h heard =
        bump (.dataReceived h.priority) { heard with mac := { s.mac with duty := some (h.duty r.frameStart) } } := by
      rw [State.afterLearn_addressed ha, sampleHeader_unicast (by simp [hk]) (by simp [hk]), beginProcessed_data hk]
    have hresolve : (bump (.dataReceived h.priority)
        { heard with mac := { s.mac with duty := some (h.duty r.frameStart) } }).resolveTag h = s.resolveTag h :=
      resolveTag_congr (hfind.trans hf.symm) rfl
    refine hends hz ?_ rfl rfl rfl rfl rfl
    rw [State.keptHeader_data ha hk, hresolve]
    exact setHeader_eq _ hh.reception
  · have hz : s.afterLearn r h heard = { heard with mac := { s.mac with duty := some (h.duty r.frameStart) } } := by
      rw [State.afterLearn_addressed ha, sampleHeader_unicast (by simp [hk]) (by simp [hk]), beginProcessed_grid hk]
    refine hends hz ?_ rfl rfl rfl rfl rfl
    rw [State.keptHeader_control ha (by simp [hk])]
    exact setHeader_eq _ hh.reception
  all_goals
    have hdata : h.kind ≠ .data := by rcases hk with hk | hk <;> simp [hk]
    have hgrid : h.kind ≠ .grid := by rcases hk with hk | hk <;> simp [hk]
    have hz : s.afterLearn r h heard = takeOffsetSample i r.stampPhase r.stampTrusted h.phase.toNat h.trusted heard := by
      rw [State.afterLearn_addressed ha, beginProcessed_other hdata hgrid, sampleHeader_broadcast hk hfind]
  · have hnone : takeOffsetSample i r.stampPhase r.stampTrusted h.phase.toNat h.trusted heard = heard := by
      refine if_neg fun hb => ?_
      obtain ⟨ht1, ht2⟩ := Bool.and_eq_true_iff.1 hb
      rcases huntrusted with hu | hu
      · simp [hu] at ht1
      · simp [hu] at ht2
    refine hends (hz.trans hnone) ?_ rfl rfl rfl rfl rfl
    rw [State.keptHeader_control ha hdata]
    exact setHeader_eq _ hh.reception
  · have hmisaligned : takeOffsetSample i r.stampPhase r.stampTrusted h.phase.toNat h.trusted heard = bump .misalignedOffsets heard := by
      simp [takeOffsetSample, ht1, ht2, hoff]
    refine hends (hz.trans hmisaligned) ?_ rfl rfl rfl rfl rfl
    rw [State.keptHeader_control ha hdata]
    exact setHeader_eq _ hh.reception
  · intro k hoff sampled
    have htaken : takeOffsetSample i r.stampPhase r.stampTrusted h.phase.toNat h.trusted heard =
        { s with table := s.table.set i (some sampled) } := by
      simp only [takeOffsetSample, ht1, ht2, hoff, Bool.and_self, if_true, modEntry, hentry, setEntry]
      simp only [heard, sampled, Vector.set_set, ht2]
    refine hends (hz.trans htaken) ?_ rfl rfl rfl rfl rfl
    rw [State.keptHeader_control ha hdata]
    exact setHeader_eq _ hh.reception

end

/-- Settles O22: the two readings, and the two kinds of entries. -/
theorem headerOfKnownStation : Obligations.HeaderOfKnownStation := by
  refine ⟨?_, ?_, ?_, ?_⟩
  · intro fr ft hfr hft d j residual
    rw [offsetSample_eq hft]
    exact ⟨fun h => if_pos h, fun h => if_neg (Nat.not_lt.2 h)⟩
  · intro s h
    refine ⟨resolveTag_of_unknown, ?_⟩
    intro i hf named
    refine ⟨resolveTag_zero hf, fun ht => ?_⟩
    rw [resolveTag_of_tagged hf ht]
    refine ⟨fun l hl => ?_, fun l hn hl => ?_, fun hn => ?_⟩
    · rw [State.latch_eq_some.2 hl]
    · rw [State.latch_eq_none hn, State.latch_eq_some.2 hl]
    · rw [State.latch_eq_none fun k => (hn k).1, State.latch_eq_none fun k => (hn k).2]
  · intro s r copies h i e hl hs hr ha hnow hu g1 g2 g3 hf he hst
    exact HeaderHeard.absent ⟨hl, hs, hr, ha, hnow, hu, g1, g2, g3⟩ hf he hst
  · intro s r copies h i e hl hs hr ha hnow hu g1 g2 g3 hf he hst heard used
    obtain ⟨hover, hresp, hdata, hgrid, hbroadcast⟩ := HeaderHeard.present ⟨hl, hs, hr, ha, hnow, hu, g1, g2, g3⟩ hf he hst
    refine ⟨fun h1 h2 => hover fun haddr => haddr.elim h1 h2, fun hrx hk => hresp (.inl hrx) hk, fun hrx hk => ?_, fun hrx hk => ?_,
      fun hrx hk => hbroadcast (.inr hrx) hk⟩
    · rw [← duty_unicast (.inl hk)]
      exact hdata (.inl hrx) hk
    · rw [← duty_unicast (.inr hk)]
      exact hgrid (.inl hrx) hk

end Sys2Proof.Machine
end

/-! ## Proofs: the header of a new station

The three ways in which a station without an entry is learned: at an empty index, in place of an entry, and not at all. -/

section

namespace Sys2Proof.Machine

section
variable {s : State} {r : Reception} {copies : List (Pair × Demodulated)} {h : Header} {i : EntryIx}

theorem learn_created (trusted : Bool) (hf : s.findEntry h.tx = none) (hi : s.emptyIndex = some i) :
    learn h.tx trusted s = createEntry i (Entry.fresh h.tx .heard (some s.lineTime) none trusted) s := by
  simp [learn, hf, hi, State.heardEntry]

theorem learn_replaced (trusted : Bool) (hf : s.findEntry h.tx = none) (hfull : s.emptyIndex = none) (hi : s.replaceable = some i) :
    learn h.tx trusted s =
      bump .replacements (createEntry i (Entry.fresh h.tx .heard (some s.lineTime) none trusted) (removeEntry i s)) := by
  simp [learn, hf, hfull, hi, State.heardEntry]

theorem learn_unentered (trusted : Bool) (hf : s.findEntry h.tx = none) (hfull : s.emptyIndex = none) (hi : s.replaceable = none) :
    learn h.tx trusted s = raiseTableFull (bump .heardNotEntered s) := by
  simp [learn, hf, hfull, hi]

/-- A new entry keeps the addresses at the other indexes. -/
theorem createEntry_addr {e : Entry} {j : EntryIx} (hj : j ≠ i) :
    ((createEntry i e s).entry j).map (·.addr) = (s.entry j).map (·.addr) := by
  have hothers := congrArg (Option.map (·.addr)) (create_others i e s j hj)
  rw [Option.map_map, Option.map_map] at hothers
  exact hothers

theorem createEntry_addr_self {e : Entry} : ((createEntry i e s).entry i).map (·.addr) = some e.addr := by
  obtain ⟨route, rate, hentry⟩ := create_entry i e s
  rw [hentry]
  rfl

/-- R110: what a station without grids resolves. -/
theorem keptHeader_gridless {z : State} (hf : z.findEntry h.tx = some i)
    (hp : ∀ (k : SlotIx) (g : HeldGrid), z.pool[k] = some g → g.entry ≠ i) :
    s.keptHeader h z = .used h (if h.Addressed s then .processed else .overheard)
      (if (h.Addressed s ∧ h.kind = .data) ∧ h.tag ≠ 0#8 then .unresolved else .robust) := by
  unfold State.keptHeader
  congr 1
  by_cases hd : h.Addressed s ∧ h.kind = .data
  · rw [if_pos hd]
    by_cases ht : h.tag = 0#8
    · rw [resolveTag_zero hf ht, if_neg fun hc => hc.2 ht]
    · rw [resolveTag_unresolved hf hp ht, if_pos ⟨hd, ht⟩]
  · rw [if_neg hd, if_neg fun hc => hd hc.1]

/-- R127, R129: a header of a station that finds no entry to take. -/
theorem HeaderHeard.unentered (hh : HeaderHeard s r copies h) (hf : s.findEntry h.tx = none) (hfull : s.emptyIndex = none)
    (hi : s.replaceable = none) :
    let data := h.Addressed s ∧ h.kind = .data
    let opened := fun (x : Resolution) =>
      let header := HeaderState.used h (if h.Addressed s then .processed else .overheard) x
      { s with line := { s.line with reception := some { r with header := header } } }
    let full := bump .heardNotEntered { opened (if data then .unresolved else .robust) with
      attention := { s.attention with tableFull := true },
      mac := { s.mac with duty := s.dutyAfter r h } }
    exec (.headerEvent copies) s = .next (if data then bump (.dataReceived h.priority) full else full) := by
  intro data opened full
  let y : State := raiseTableFull (bump .heardNotEntered s)
  have hy : y.findEntry h.tx = none := hf
  have hexec := hh.answer
  rw [learn_unentered h.trusted hf hfull hi] at hexec
  have hends {z t : State} (hz : s.afterLearn r h y = z) (ht : setHeader (s.keptHeader h z) z = t) (htable : t.table = s.table)
      (hq : t.queues = s.queues) (hp : t.port = s.port) (hv : t.evalDue = s.evalDue) :
      exec (.headerEvent copies) s = .next t := by
    rw [hexec, hz, ht, settle_at_rest hh.rested hv hp hq htable]
  by_cases ha : h.Addressed s
  · have hz : s.afterLearn r h y = beginProcessed r h y := by
      rw [State.afterLearn_addressed ha, sampleHeader_unknown hy]
    by_cases hk : h.kind = .data
    · have hdata : data := ⟨ha, hk⟩
      rw [if_pos hdata]
      refine hends (hz.trans (beginProcessed_data hk)) ?_ rfl rfl rfl rfl
      have hresolve : (bump (.dataReceived h.priority)
          { y with mac := { y.mac with duty := some (h.duty r.frameStart) } }).resolveTag h = .unresolved := resolveTag_of_unknown hf
      rw [State.keptHeader_data ha hk, hresolve]
      simp only [full, opened, if_pos ha, if_pos hdata, dutyAfter_data ha hk]
      exact setHeader_eq _ hh.reception
    · have hdata : ¬data := fun hd => hk hd.2
      rw [if_neg hdata]
      have hduty : beginProcessed r h y = { y with mac := { y.mac with duty := s.dutyAfter r h } } := by
        by_cases hg : h.kind = .grid
        · rw [beginProcessed_grid hg, dutyAfter_grid ha hg]
        · rw [beginProcessed_other hk hg, dutyAfter_other fun hc => hc.2.elim hk hg]
          rfl
      refine hends (hz.trans hduty) ?_ rfl rfl rfl rfl
      rw [State.keptHeader_control ha hk]
      simp only [full, opened, if_pos ha, if_neg hdata]
      exact setHeader_eq _ hh.reception
  · have hdata : ¬data := fun hd => ha hd.1
    rw [if_neg hdata]
    refine hends (State.afterLearn_overheard ha) ?_ rfl rfl rfl rfl
    rw [State.keptHeader_overheard ha]
    simp only [full, opened, if_neg ha, if_neg hdata, dutyAfter_other fun hc => ha hc.1]
    exact setHeader_eq _ hh.reception

/-- R127, R128: a header of a station that takes an empty index. -/
theorem HeaderHeard.created (hh : HeaderHeard s r copies h) (hf : s.findEntry h.tx = none) (hi : s.emptyIndex = some i) :
    let opened := fun (x : Resolution) =>
      let header := HeaderState.used h (if h.Addressed s then .processed else .overheard) x
      { s with line := { s.line with reception := some { r with header := header } } }
    ∃ (t : State) (e : Entry) (x : Resolution), exec (.headerEvent copies) s = .next t ∧ t.entry i = some e ∧
      e = { Entry.fresh h.tx .heard (some s.lineTime) none h.trusted with
        offset := if h.Addressed s then r.offsetAfter h SlotOffset.fresh else SlotOffset.fresh, route := e.route, txRate := e.txRate } ∧
      e.route ≠ .noRoute ∧ s.OthersKept t i ∧ s.Told t r h ∧
      (∀ j, j ≠ i → (t.entry j).map (·.addr) = (s.entry j).map (·.addr)) ∧
      t.count .entriesCreated = satInc (s.count .entriesCreated) ∧
      (¬(h.Addressed s ∧ h.kind = .data) ∨ h.tag = 0#8 → x = .robust) ∧
      (h.Addressed s → h.kind = .data → h.tag ≠ 0#8 → (∀ (k : SlotIx) (g : HeldGrid), s.pool[k] = some g → g.entry ≠ i) →
        x = .unresolved) ∧
      t = { opened x with table := t.table }.endedAs t := by
  intro opened
  let new := Entry.fresh h.tx .heard (some s.lineTime) none h.trusted
  obtain ⟨route, rate, hentry⟩ := create_entry i new s
  have hframe : EntryFrame s (createEntry i new s) := (EntryFrame.refl s).createEntry i new
  have hfind : (createEntry i new s).findEntry h.tx = some i :=
    findEntry_new hf createEntry_addr_self fun j hj => createEntry_addr hj
  obtain ⟨hpool, hmap, hflight, hcontrol⟩ := create_fields i new s
  obtain ⟨t, z, hexec, hzf, hzp, htold, ht1, hothers, hp, hm, hfl, hc, hcount, ht⟩ :=
    hh.learned (learn_created h.trusted hf hi) hframe hfind hentry
      (fun p => cnt_create (by revert p; decide) (by revert p; decide) i new s rfl) (cnt_create (by decide) (by decide) i new s rfl)
  have hroute : route ≠ .noRoute := createEntry_routed (e := new) rfl hentry
  refine ⟨t, _, if h.Addressed s ∧ h.kind = .data then z.resolveTag h else .robust, hexec, ht1, rfl, hroute, ?_, htold, fun j hj => ?_, ?_,
    fun hx => ?_, fun ha hk htag hno => ?_, ?_⟩
  · exact OthersKept.trans (create_others i new s) (OthersKept.of_entries hothers)
  · rw [hothers j hj, createEntry_addr hj]
  · rw [hcount _ (by decide) (by decide) (by decide) (by decide), cnt_create_self i new s rfl]
  · rcases hx with hx | hx
    · exact if_neg hx
    · rw [resolveTag_zero hzf hx, ite_self]
  · rw [if_pos ⟨ha, hk⟩]
    exact resolveTag_unresolved hzf (by rw [hzp, hpool]; exact hno) htag
  · rw [hp, hm, hfl, hc, hpool, hmap, hflight, hcontrol] at ht
    exact ht

theorem bump_entry (c : Counter) (y : State) (j : EntryIx) : (bump c y).entry j = y.entry j := rfl

/-- R127, R129, R132: a header of a station that takes the index of an entry. -/
theorem HeaderHeard.replaced {old : Entry} (hh : HeaderHeard s r copies h) (hf : s.findEntry h.tx = none) (hfull : s.emptyIndex = none)
    (hi : s.replaceable = some i) (hold : s.entry i = some old) :
    let data := h.Addressed s ∧ h.kind = .data
    let opened := fun (x : Resolution) =>
      let header := HeaderState.used h (if h.Addressed s then .processed else .overheard) x
      { s with line := { s.line with reception := some { r with header := header } } }
    ∃ (t : State) (e : Entry), exec (.headerEvent copies) s = .next t ∧ t.entry i = some e ∧
      e = { Entry.fresh h.tx .heard (some s.lineTime) none h.trusted with
        offset := if h.Addressed s then r.offsetAfter h SlotOffset.fresh else SlotOffset.fresh, route := e.route, txRate := e.txRate } ∧
      (s.control.length < 16 → s.OthersKept t i) ∧ s.Told t r h ∧
      (let left := s.leftBy i
       left.OthersKept t i ∧ t.control = left.control) ∧
      (∀ j, j ≠ i → (t.entry j).map (·.addr) = (s.entry j).map (·.addr)) ∧
      (∀ k : SlotIx, t.pool[k] = (s.pool[k]).filter fun g => g.entry != i) ∧
      (∀ k : MapIx, t.addressMap[k] = (s.addressMap[k]).filter fun m => m.target != .station old.addr) ∧
      t.inFlight = s.inFlight.filter (fun x => x.entry != i) ∧
      (s.control.length < 16 → t.control = s.control.filter fun c => !c.partOf i) ∧
      t.count .replacements = satInc (s.count .replacements) ∧ t.count .entriesCreated = satInc (s.count .entriesCreated) ∧
      t.count .entriesRemoved = s.count .entriesRemoved ∧
      t = { opened (if data ∧ h.tag ≠ 0#8 then .unresolved else .robust) with
        table := t.table, pool := t.pool, addressMap := t.addressMap, inFlight := t.inFlight, control := t.control }.endedAs t := by
  intro data opened
  obtain ⟨-, raddr, rothers, rpool, rmap, rflight, rcontrol⟩ := removeEntry_spec hold
  obtain ⟨lothers, lcontrol⟩ := removeEntry_left hold
  have hgone : EntryFrame s (removeEntry i s) := (EntryFrame.refl s).removeEntry i
  have gcount {c : Counter} (h1 : Counter.routeChanges.index ≠ c.index) (h2 : Counter.buildsDiscarded.index ≠ c.index) :
      (removeEntry i s).count c = s.count c := cnt_remove h2 h1 i s
  have hlearn := learn_replaced h.trusted hf hfull hi
  generalize removeEntry i s = gone at raddr rothers rpool rmap rflight rcontrol lothers lcontrol hgone gcount hlearn
  generalize hnew : Entry.fresh h.tx .heard (some s.lineTime) none h.trusted = new at hlearn ⊢
  have htx : new.addr = h.tx := by rw [← hnew]; rfl
  have hoffset : new.offset = SlotOffset.fresh := by rw [← hnew]; rfl
  have hfresh : new.state = .heard := by rw [← hnew]; rfl
  obtain ⟨cpool, cmap, cflight, ccontrol⟩ := create_fields i new gone
  obtain ⟨route, rate, hentry⟩ := create_entry i new gone
  rw [← bump_entry .replacements] at hentry
  have hframe : EntryFrame s (bump .replacements (createEntry i new gone)) := (hgone.createEntry i new).bump _
  have haddr (j : EntryIx) (hj : j ≠ i) :
      ((bump .replacements (createEntry i new gone)).entry j).map (·.addr) = (s.entry j).map (·.addr) := by
    rw [bump_entry, createEntry_addr hj, raddr j hj]
  have hfind : (bump .replacements (createEntry i new gone)).findEntry h.tx = some i := by
    refine findEntry_new hf ?_ haddr
    rw [bump_entry, createEntry_addr_self, htx]
  have hcount {c : Counter} (h1 : Counter.replacements.index ≠ c.index) (h2 : Counter.entriesCreated.index ≠ c.index)
      (h3 : Counter.routeChanges.index ≠ c.index) (h4 : Counter.buildsDiscarded.index ≠ c.index) :
      (bump .replacements (createEntry i new gone)).count c = s.count c := by
    rw [cnt_bump h1, cnt_create h2 h3 i new gone hfresh, gcount h3 h4]
  obtain ⟨t, z, hexec, hzf, hzp, htold, ht1, hothers, hp, hm, hfl, hc, htcount, ht⟩ :=
    hh.learned hlearn hframe hfind hentry
      (fun p => hcount (by revert p; decide) (by revert p; decide) (by revert p; decide) (by revert p; decide))
      (hcount (by decide) (by decide) (by decide) (by decide))
  have hrest : State.OthersKept (createEntry i new gone) t i := OthersKept.of_entries fun j hj => by rw [hothers j hj, bump_entry]
  have tothers : gone.OthersKept t i := OthersKept.trans (create_others i new gone) hrest
  have tcontrol : t.control = gone.control := by rw [hc, bump_control, ccontrol]
  have tpool (k : SlotIx) : t.pool[k] = (s.pool[k]).filter fun g => g.entry != i := by
    rw [hp, bump_pool, cpool, rpool k]
  refine ⟨t, _, hexec, ht1, by dsimp only; rw [hoffset], fun hroom => OthersKept.trans (rothers hroom) tothers, htold, ⟨OthersKept.trans lothers tothers, tcontrol.trans lcontrol⟩,
    fun j hj => ?_, fun k => ?_, fun k => ?_, ?_, fun hroom => tcontrol.trans (rcontrol hroom), ?_, ?_, ?_, ?_⟩
  · rw [hothers j hj, haddr j hj]
  · exact tpool k
  · rw [hm, bump_addressMap, cmap, rmap k]
  · rw [hfl, bump_inFlight, cflight, rflight]
  · rw [htcount _ (by decide) (by decide) (by decide) (by decide), cnt_self, cnt_create (by decide) (by decide) i new gone hfresh,
      gcount (by decide) (by decide)]
  · rw [htcount _ (by decide) (by decide) (by decide) (by decide), cnt_bump (by decide), cnt_create_self i new gone hfresh,
      gcount (by decide) (by decide)]
  · rw [htcount _ (by decide) (by decide) (by decide) (by decide), hcount (by decide) (by decide) (by decide) (by decide)]
  · have hkept := keptHeader_gridless (s := s) hzf fun k g hk => by
      rw [hzp, bump_pool, cpool, rpool k] at hk
      simpa using (Option.filter_eq_some_iff.1 hk).2
    rw [hkept] at ht
    exact ht

end

/-- Settles O23. -/
theorem headerOfNewStation : Obligations.HeaderOfNewStation := by
  refine ⟨?_, ?_⟩
  · intro s r copies h hl hs hr ha hnow hu g1 g2 g3 hf hfull data opened age oldest
    have hh : HeaderHeard s r copies h := ⟨hl, hs, hr, ha, hnow, hu, g1, g2, g3⟩
    refine ⟨fun hpresent => hh.unentered hf hfull (replaceable_of_present hpresent), fun i old hold ho => ?_⟩
    exact hh.replaced hf hfull (replaceable_of_oldest (age := age) rfl ho) hold
  · intro s r copies h i hl hs hr ha hnow hu g1 g2 g3 hf hi
    exact HeaderHeard.created ⟨hl, hs, hr, ha, hnow, hu, g1, g2, g3⟩ hf hi

end Sys2Proof.Machine
end

/-! ## Proofs: tones and priority signal slots

R42 to R44: the tone sent, the tone heard, and the end of each of the two signal slots. -/

section

namespace Sys2Proof.Machine

section
variable {s : State} {c : Candidate}

theorem hearTone_idle (h : s.mac.state = .idle) : hearTone s = enterToneWatch s := by simp [hearTone, h]

theorem hearTone_gap {d : LineTime} (h : s.mac.state = .deferring) (hg : s.mac.gap = some (.quiet d) ∨ s.mac.gap = some (.response d)) :
    hearTone s = enterToneWatch s := by
  rcases hg with hg | hg <;> simp [hearTone, h, hg]

theorem hearTone_watch {d : LineTime} (h : s.mac.state = .deferring) (hg : s.mac.gap = some (.toneWatch d)) : hearTone s = s := by
  simp [hearTone, h, hg]

theorem hearTone_slot (h : s.mac.state = .signal ∨ s.mac.state = .backoff) :
    hearTone s = { s with mac := { s.mac with toneHeard := true } } := by
  rcases h with h | h <;> simp [hearTone, h, modMac]

theorem hearTone_busy (h : s.mac.state = .receiving ∨ s.mac.state = .sending ∨ s.mac.state = .awaitingResponse ∨ s.mac.state = .responding) :
    hearTone s = s := by
  rcases h with h | h | h | h <;> simp [hearTone, h]

theorem exec_toneHeard (hl : s.Live) (hup : s.startUp ≠ .loading) : exec .toneHeard s = .next (hearTone s) :=
  live_due (b := fun s => s.startUp != .loading) hl (bne_iff_ne.2 hup)

theorem sendsTone_first (p : Fin 4) : sendsTone p false = decide (2 ≤ p.val) := by revert p; decide

theorem sendsTone_second (p : Fin 4) : sendsTone p true = decide (p.val % 2 = 1) := by revert p; decide

/-- What rests like the state it came from is settled. -/
theorem next_at_rest {x t : State} (hs : s.Rested) (hx : x = t) (he : t.evalDue = s.evalDue) (hp : t.port = s.port)
    (hq : t.queues = s.queues) (ht : t.table = s.table) : (.next (settle s.txCharge x) : Result) = .next t := by
  rw [hx, settle_at_rest hs he hp hq ht]

theorem toneOutput_signal {d : Nat} (hs : s.mac.state = .signal) (hc : s.mac.candidate = some c) (hd : d < 80)
    (ht : s.lineTime = s.mac.periodStart.plus d) :
    s.toneOutput = if sendsTone c.priority (decide (40 ≤ d)) = true then some s.settings.homePair else none := by
  unfold State.toneOutput
  rw [ht, LineTime.dist_plus _ (by omega)]
  simp [hs, hc, hd]

theorem signalSlot_first (hs : s.mac.state = .signal) (ht : s.lineTime = s.mac.periodStart.plus 40) : s.signalSlot = some false := by
  unfold State.signalSlot
  rw [if_pos hs, if_pos ht]

theorem signalSlot_second (hs : s.mac.state = .signal) (ht : s.lineTime = s.mac.periodStart.plus 80) : s.signalSlot = some true := by
  have hne : s.lineTime ≠ s.mac.periodStart.plus 40 := fun h => by
    have hdist := LineTime.dist_plus s.mac.periodStart (n := 80) (by decide)
    rw [← ht, h, LineTime.dist_plus _ (by decide)] at hdist
    exact absurd hdist (by decide)
  unfold State.signalSlot
  rw [if_pos hs, if_neg hne, if_pos ht]

theorem withdraws_eq (hc : s.mac.candidate = some c) (slot2 : Bool) :
    s.withdraws slot2 = (s.mac.toneHeard && !sendsTone c.priority slot2) := by
  simp [State.withdraws, hc]

theorem endSignalSlot_withdraws {b : Bool} (hb : s.signalSlot = some b) (hw : s.withdraws b = true) :
    endSignalSlot s = enterToneWatch (bump .withdrawals (taken .signalSlotEnd s)) := by
  have hw' : (taken .signalSlotEnd s).withdraws b = true := hw
  simp only [endSignalSlot, hb, hw', if_true]

theorem endSignalSlot_first (hb : s.signalSlot = some false) (hw : s.withdraws false = false) :
    endSignalSlot s = { taken .signalSlotEnd s with mac := { s.mac with toneHeard := false } } := by
  have hw' : (taken .signalSlotEnd s).withdraws false = false := hw
  simp only [endSignalSlot, hb, hw', Bool.false_eq_true, if_false]
  rfl

theorem endSignalSlot_second (hb : s.signalSlot = some true) (hw : s.withdraws true = false) :
    endSignalSlot s = enterBackoff (taken .signalSlotEnd s) := by
  have hw' : (taken .signalSlotEnd s).withdraws true = false := hw
  simp only [endSignalSlot, hb, hw', Bool.false_eq_true, if_false, if_true]

theorem exec_signalSlotEnd (hl : s.Live) {b : Bool} (hb : s.signalSlot = some b) :
    exec .signalSlotEnd s = .next (settle s.txCharge (endSignalSlot s)) :=
  live_due (b := fun s => s.signalSlot.isSome) hl (by rw [hb]; rfl)

/-- R44: a station without a counter draws one. -/
theorem enterBackoff_drawn (h : s.mac.backoff = none) (hn : Config.backoffDraw s.draws % windowOf s.mac.stage ≠ 0) :
    enterBackoff s = { s with
      mac := { s.mac with state := .backoff, toneHeard := false, backoff := some (Config.backoffDraw s.draws % windowOf s.mac.stage) }
      draws := s.draws + 1 } := by
  simp [enterBackoff, h, draw, modMac, hn]

/-- R44, R46: a counter of 0, held or drawn, transmits at once. -/
theorem enterBackoff_zero {u : State}
    (h : (s.mac.backoff = some 0 ∧ u = { s with mac := { s.mac with state := .backoff, toneHeard := false, backoff := some 0 } }) ∨
      (s.mac.backoff = none ∧ Config.backoffDraw s.draws % windowOf s.mac.stage = 0 ∧
        u = { s with mac := { s.mac with state := .backoff, toneHeard := false, backoff := some 0 }, draws := s.draws + 1 })) :
    enterBackoff s = transmit u := by
  rcases h with ⟨hb, rfl⟩ | ⟨hb, hn, rfl⟩
  · simp [enterBackoff, hb, modMac]
  · simp [enterBackoff, hb, draw, modMac, hn]

/-! ### The transmission of a control entry -/

theorem airtimeFits_cool (h : s.thermal.limited = false) (n : Nat) : s.airtimeFits n = true := by
  simp [State.airtimeFits, h]

/-- R46, R72: a placed SOUND that fits is sent. -/
theorem transmit_sound {p : Pair} (hc : s.mac.candidate = some c) (hk : c.kind = .control (.sound p)) (hm : .sound p ∈ s.control)
    (hfits : s.airtimeFits 960 = true) :
    transmit s = bump (.framesSent .sound) { s with
      mac := { s.mac with state := .sending, candidate := none }
      line := { s.line with sending := some (s.frame (s.header .sound Addr.broadcast p 3 24) [] .sounding (some (.sound p))) }
      thermal := { s.thermal with used := s.thermal.used + 960 }
      estimator := { s.estimator with notedSlot := none } } := by
  have hf : s.airtimeFits (s.controlAirtime (.sound p)) = true := hfits
  simp only [transmit, hc, hk, List.contains_iff_mem.2 hm, if_true, gatherControl, hf, formControl, formSound]
  rfl

theorem transmit_gone {x : ControlEntry} (hc : s.mac.candidate = some c) (hk : c.kind = .control x) (hm : x ∉ s.control) :
    transmit s = candidateGone s := by
  have hn : s.control.contains x = false := by simpa using hm
  simp only [transmit, hc, hk, hn, Bool.false_eq_true, if_false]

end

/-- Settles O32, state by state. -/
theorem toneHeardByState : Obligations.ToneHeardByState := by
  intro s hl hup answer watch
  rw [exec_toneHeard hl hup]
  refine ⟨fun h => ?_, fun d h hg => ?_, fun d h hg => ?_, fun h => ?_, fun h => ?_⟩
  · rw [hearTone_idle h]; rfl
  · rw [hearTone_gap h hg]; rfl
  · rw [hearTone_watch h hg]
  · rw [hearTone_slot h]
  · rw [hearTone_busy h]

/-- Settles O31: the tone, then the two slot ends. -/
theorem signalSlotEnds : Obligations.SignalSlotEnds := by
  intro s c hl hr hs hc answer watch
  refine ⟨fun d hd ht => ?_, fun ht => ?_, fun ht => ?_⟩
  · rw [toneOutput_signal hs hc hd ht]
    refine ite_of_iff ?_ rfl rfl
    by_cases h40 : 40 ≤ d
    · simp [h40, Nat.not_lt.2 h40, sendsTone_second]
    · simp [h40, Nat.lt_of_not_le h40, sendsTone_first]
  · have hslot := signalSlot_first hs ht
    have hwithdraws := withdraws_eq hc false
    rw [sendsTone_first] at hwithdraws
    rw [exec_signalSlotEnd hl hslot]
    refine ⟨fun htone hp => ?_, fun hgo => ?_⟩
    · have hw : s.withdraws false = true := by simp [hwithdraws, htone, hp]
      refine next_at_rest hr ?_ rfl rfl rfl rfl
      rw [endSignalSlot_withdraws hslot hw]
      rfl
    · have hw : s.withdraws false = false := by rcases hgo with h | h <;> simp [hwithdraws, h]
      refine next_at_rest hr ?_ rfl rfl rfl rfl
      rw [endSignalSlot_first hslot hw]
      rfl
  · have hslot := signalSlot_second hs ht
    have hwithdraws := withdraws_eq hc true
    rw [sendsTone_second] at hwithdraws
    rw [exec_signalSlotEnd hl hslot]
    refine ⟨fun htone hp => ?_, fun hgo => ?_⟩
    · have hw : s.withdraws true = true := by simp [hwithdraws, htone, hp]
      refine next_at_rest hr ?_ rfl rfl rfl rfl
      rw [endSignalSlot_withdraws hslot hw]
      rfl
    · have hw : s.withdraws true = false := by rcases hgo with h | h <;> simp [hwithdraws, h]
      rw [endSignalSlot_second hslot hw]
      intro drawn entered
      refine ⟨Nat.mod_lt _ (windowOf_pos _), fun n hn hn0 => ?_, fun hn hn0 => ?_, fun u hu => ?_⟩
      · refine next_at_rest hr ?_ rfl rfl rfl rfl
        rw [enterBackoff_frozen (s := taken .signalSlotEnd s) hn hn0]
        simp only [entered, answer, ← hn]
        rfl
      · refine next_at_rest hr ?_ rfl rfl rfl rfl
        rw [enterBackoff_drawn (s := taken .signalSlotEnd s) hn hn0]
        rfl
      · have hzero : enterBackoff (taken .signalSlotEnd s) = transmit u := enterBackoff_zero hu
        have hdraws : ∃ n, u = { entered 0 with draws := n } := by
          rcases hu with ⟨-, rfl⟩ | ⟨-, -, rfl⟩
          · exact ⟨s.draws, rfl⟩
          · exact ⟨s.draws + 1, rfl⟩
        obtain ⟨n, rfl⟩ := hdraws
        rw [hzero]
        refine ⟨rfl, fun p hp hmem hcool => ?_, fun x hx hmem => ?_⟩
        · refine next_at_rest hr ?_ rfl rfl rfl rfl
          exact transmit_sound (c := c) (p := p) hc (by rw [hp]) hmem (airtimeFits_cool hcool _)
        · refine next_at_rest hr ?_ rfl rfl rfl rfl
          exact transmit_gone (c := c) hc hx hmem

end Sys2Proof.Machine
end

/-! ## Proofs: the thermal guard, response waits and the reference average -/

section

namespace Sys2Proof.Machine

/-! ### The duty-period boundary (R54, R57) -/

section
variable {s : State} {hot : Bool}

/-- R54, R57: the part after its guard has taken the sample of a boundary and the thermal wait is over. -/
def State.sampled (s : State) (hot : Bool) : State := modMac (fun m => { m with thermalWait := false }) (sampleGuard hot s)

theorem sampled_frame (s : State) (hot : Bool) : s.sampled hot = { s with
    thermal := (s.sampled hot).thermal, attention := (s.sampled hot).attention, counters := (s.sampled hot).counters
    mac := { s.mac with thermalWait := false } } := by
  unfold State.sampled sampleGuard
  dsimp only
  split <;> rfl

theorem sampled_used (s : State) (hot : Bool) : (s.sampled hot).thermal.used = 0 := by
  unfold State.sampled sampleGuard Thermal.sample
  dsimp only
  repeat' split
  all_goals rfl

theorem sampleGuard_cool_hot (h : s.thermal.limited = false) :
    sampleGuard true s = bump .thermalLimit { s with
      thermal := { limited := true, holdCount := s.settings.holdPeriods, used := 0, nextBoundary := s.thermal.nextBoundary.plus 10000 }
      attention := { s.attention with thermalLimited := true } } := by
  simp [sampleGuard, h, Thermal.sample, raiseThermalLimited, Config.dutyPeriod]

theorem sampleGuard_limited_hot (h : s.thermal.limited = true) :
    sampleGuard true s = { s with thermal :=
      { limited := true, holdCount := s.settings.holdPeriods, used := 0, nextBoundary := s.thermal.nextBoundary.plus 10000 } } := by
  simp [sampleGuard, h, Thermal.sample, Config.dutyPeriod]

theorem sampleGuard_limited_cold (h : s.thermal.limited = true) :
    sampleGuard false s = { s with thermal :=
      { limited := decide (s.thermal.holdCount - 1 ≠ 0), holdCount := s.thermal.holdCount - 1, used := 0
        nextBoundary := s.thermal.nextBoundary.plus 10000 } } := by
  simp [sampleGuard, h, Thermal.sample, Config.dutyPeriod]

theorem sampleGuard_cool_cold (h : s.thermal.limited = false) :
    sampleGuard false s = { s with thermal :=
      { limited := false, holdCount := s.thermal.holdCount, used := 0, nextBoundary := s.thermal.nextBoundary.plus 10000 } } := by
  simp [sampleGuard, h, Thermal.sample, Config.dutyPeriod]

theorem dutyBoundaryEffect_loading (h : s.startUp = .loading) :
    dutyBoundaryEffect hot s = { s with thermal := { s.thermal with nextBoundary := s.thermal.nextBoundary.plus 10000 } } := if_pos h

theorem dutyBoundaryEffect_stays (h : s.startUp ≠ .loading) (hw : ¬(s.mac.thermalWait = true ∧ s.mac.state = .idle)) :
    dutyBoundaryEffect hot s = s.sampled hot := by
  unfold dutyBoundaryEffect
  rw [if_neg h, if_neg hw]
  rfl

theorem dutyBoundaryEffect_begins (h : s.startUp ≠ .loading) (hw : s.mac.thermalWait = true) (hi : s.mac.state = .idle) :
    dutyBoundaryEffect hot s = beginPeriod (s.sampled hot) := by
  unfold dutyBoundaryEffect
  rw [if_neg h, if_pos ⟨hw, hi⟩]
  rfl

theorem exec_dutyBoundary (hl : s.Live) (hd : s.lineTime = s.thermal.nextBoundary) :
    exec (.dutyBoundary hot) s = .next (settle s.txCharge (dutyBoundaryEffect hot s)) :=
  live_due (b := State.boundaryDue) hl (State.boundaryDue_iff.2 hd)

end

/-- Settles O36: the sample, and then what the boundary ends with. -/
theorem dutyBoundaryTable : Obligations.DutyBoundaryTable := by
  intro s hl hr hd guard after table
  have htable {ending : State → State} (h : ∀ hot, exec (.dutyBoundary hot) s = .next (ending (s.sampled hot))) : table ending := by
    refine ⟨fun hc => ?_, fun hc => ?_, fun hc hn => ?_, fun hc hn => ?_, fun hc => ?_⟩
    · rw [h, State.sampled, sampleGuard_cool_hot hc]; rfl
    · rw [h, State.sampled, sampleGuard_limited_hot hc]; rfl
    · have hlimited : decide (s.thermal.holdCount - 1 ≠ 0) = true := by rw [decide_eq_true_eq]; omega
      rw [h, State.sampled, sampleGuard_limited_cold hc, hlimited]; rfl
    · rw [h, State.sampled, sampleGuard_limited_cold hc, hn]; rfl
    · rw [h, State.sampled, sampleGuard_cool_cold hc]; rfl
  refine ⟨fun hup hw => htable (ending := fun u => u) fun hot => ?_,
    fun hup hw hi => htable (ending := fun u => settle s.txCharge (beginPeriod u)) fun hot => ?_, fun hot hup hw hi => ?_, fun hot hup => ?_⟩
  · rw [exec_dutyBoundary hl hd, dutyBoundaryEffect_stays hup hw]
    have hf := sampled_frame s hot
    refine next_at_rest hr rfl ?_ ?_ ?_ ?_ <;> rw [hf]
  · rw [exec_dutyBoundary hl hd, dutyBoundaryEffect_begins hup hw hi]
  · refine ⟨_, by rw [exec_dutyBoundary hl hd, dutyBoundaryEffect_begins hup hw hi], ?_⟩
    obtain ⟨st, c, tw, hst, hmac⟩ := begun_mac s.txCharge (s.sampled hot)
    have hf := sampled_frame s hot
    have hended : Ended (s.sampled hot) (settle s.txCharge (beginPeriod (s.sampled hot))) := (Ended.refl _).beginPeriod.settle _
    have ht := hended.endedAs (by rw [hf]; exact hr.1) (settle_eval _ _)
    have hthermal : (settle s.txCharge (beginPeriod (s.sampled hot))).thermal = (s.sampled hot).thermal := by rw [ht]; rfl
    have hattention : (settle s.txCharge (beginPeriod (s.sampled hot))).attention = (s.sampled hot).attention := by rw [ht]; rfl
    refine ⟨?_, ?_, ?_, ?_⟩
    · rw [hmac, hf]
    · rw [hthermal, sampled_used]
    · rw [hmac]; exact hst
    · rw [hthermal, hattention]
      refine ht.trans ?_
      generalize settle s.txCharge (beginPeriod (s.sampled hot)) = t
      rw [hf]
      rfl
  · rw [exec_dutyBoundary hl hd, dutyBoundaryEffect_loading hup]
    exact next_at_rest hr rfl rfl rfl rfl rfl

/-! ### A response wait that runs out (R48, R49, R133) -/

section
variable {s : State} {w : ResponseWait} {i : EntryIx} {e : Entry}

/-- R49: the record of a wait that has closed without a response. -/
def State.unanswered (s : State) : State :=
  bump .noResponse { s with mac := { s.mac with wait := none, stage := min 5 (s.mac.stage + 1), backoff := none, deferral := 0 } }

theorem noResponseOutcome_data (hw : s.mac.wait = some w) (hk : w.kind = .data) :
    noResponseOutcome s = segmentNoResponse (receiverSilent w s.unanswered) := by
  simp only [noResponseOutcome, hw, hk]
  rfl

theorem noResponseOutcome_grid (hw : s.mac.wait = some w) (hk : w.kind = .grid) :
    noResponseOutcome s = partNoResponse w.control (receiverSilent w s.unanswered) := by
  simp only [noResponseOutcome, hw, hk]
  rfl

theorem exec_responseDeadline (hl : s.Live) (hs : s.mac.state = .awaitingResponse) (hw : s.mac.wait = some w)
    (hr : s.line.reception = none) (ht : s.lineTime = w.frameEnd.plus 120) :
    exec .responseDeadline s = .next (settle s.txCharge (beginPeriod (noResponseOutcome s))) :=
  live_due (b := State.responseDue) hl (State.responseDue_iff.2 ⟨hs, hr, w, hw, ht⟩)

end

/-! The streak and the hold of an entry after the outcome has reached what was sent. -/

section
variable {s x : State} {i : EntryIx}

/-- R133: what a no-response send leaves in an entry. -/
def Entry.silence (e : Entry) : Nat × Option LineTime := (e.streak, e.hold)

/-- Every entry of `x` has the streak and the hold that it has in `s`. -/
def SilenceKept (s x : State) : Prop := ∀ j, (x.entry j).map Entry.silence = (s.entry j).map Entry.silence

theorem SilenceKept.refl (s : State) : SilenceKept s s := fun _ => rfl

theorem SilenceKept.trans {y : State} (h : SilenceKept s x) (k : SilenceKept x y) : SilenceKept s y := fun j => (k j).trans (h j)

theorem silence_of_table {y : State} (h : SilenceKept s x) (ht : y.table = x.table) : SilenceKept s y := fun j => by
  unfold State.entry at *
  rw [ht]
  exact h j

theorem silence_modEntry {f : Entry → Entry} (h : SilenceKept s x) (hf : ∀ e, (f e).silence = e.silence) :
    SilenceKept s (modEntry i f x) := by
  refine h.trans fun j => ?_
  unfold modEntry
  cases he : x.entry i with
  | none => rfl
  | some e =>
    by_cases hj : j = i
    · rw [hj, entry_setEntry_self, he, Option.map_some, Option.map_some, hf]
    · rw [entry_setEntry_ne hj]

theorem silence_bumpBy (c : Counter) (n : Nat) (h : SilenceKept s x) : SilenceKept s (bumpBy c n x) :=
  h.trans fun j => by rw [bumpBy_entry]

theorem silence_bump (c : Counter) (h : SilenceKept s x) : SilenceKept s (bump c x) := silence_of_table h rfl

theorem silence_setEntry {e y : Entry} (he : x.entry i = some e) (hy : y.silence = e.silence) (h : SilenceKept s x) :
    SilenceKept s (setEntry i (some y) x) := by
  refine h.trans fun j => ?_
  by_cases hj : j = i
  · rw [hj, entry_setEntry_self, he, Option.map_some, Option.map_some, hy]
  · rw [entry_setEntry_ne hj]

theorem silence_leaveControl (g : ControlEntry → Bool) (h : SilenceKept s x) : SilenceKept s (leaveControl g x) := by
  refine h.trans fun j => ?_
  have hparts := congrArg (Option.map Entry.silence) (leaveControl_unparted g x j)
  rw [Option.map_map, Option.map_map] at hparts
  exact hparts

theorem silence_endIssue (st : IssueState) (h : SilenceKept s x) : SilenceKept s (endIssue i st x) :=
  silence_leaveControl _ (silence_modEntry h fun _ => rfl)

theorem silence_freeRole (r : Role) (h : SilenceKept s x) : SilenceKept s (freeRole i r x) := by
  unfold freeRole
  split
  · exact silence_of_table h rfl
  · exact h

theorem silence_ageEntry (h : SilenceKept s x) : SilenceKept s (ageEntry i x) := by
  cases he : x.entry i with
  | none =>
    have hnone : ageEntry i x = x := by simp only [ageEntry, ageCells, he]
    rw [hnone]
    exact h
  | some e =>
    have hsome : ageEntry i x = _ := ageCells_some (fun _ _ => true) he
    rw [hsome]
    exact silence_bumpBy _ _ (silence_setEntry he rfl h)

theorem silence_startBuild (c : Causes) (h : SilenceKept s x) : SilenceKept s (startBuild i c x) := by
  have haged := silence_ageEntry (i := i) h
  unfold startBuild
  dsimp only
  cases he : (ageEntry i x).entry i with
  | none => exact haged
  | some e =>
    have hbuilt := fun b : BuildRecord => silence_bump .buildsStarted (silence_setEntry (y := { e with build := b }) he rfl haged)
    dsimp only
    split
    · exact silence_bump _ (hbuilt _)
    · exact hbuilt _

theorem silence_trigger (c : Causes) (h : SilenceKept s x) : SilenceKept s (trigger i c x) := by
  unfold trigger
  split
  · have hraised : SilenceKept s (if c.error = true then boostUp i x else x) := by
      split
      · exact silence_bump _ (silence_modEntry h fun _ => rfl)
      · exact h
    have haged := silence_ageEntry (i := i) hraised
    dsimp only
    split
    · exact silence_startBuild c haged
    · exact silence_bump _ (silence_modEntry haged fun _ => rfl)
    · exact haged
  · exact silence_bump _ h

theorem silence_abandonIssue (h : SilenceKept s x) : SilenceKept s (abandonIssue i x) := by
  have hended := silence_bump .issuesAbandoned (silence_endIssue (i := i) .noIssue (silence_freeRole (i := i) .rxPending h))
  unfold abandonIssue abandonmentTrigger
  split
  · exact hended
  · split
    · exact silence_bump _ hended
    · exact silence_trigger _ hended

/-- R107: a part that is not taken changes the streak and the hold of no entry. -/
theorem silence_partNoResponse (c : Option ControlEntry) (h : SilenceKept s x) : SilenceKept s (partNoResponse c x) := by
  unfold partNoResponse
  split
  · rename_i e tag part
    split
    · exact h
    · have hcounted (f : Entry → Entry) (hf : ∀ e, (f e).silence = e.silence) :=
        silence_modEntry (i := e) (silence_bump .partRetries h) hf
      unfold partNotTaken
      dsimp only
      split
      · exact silence_abandonIssue (hcounted _ fun _ => rfl)
      · exact hcounted _ fun _ => rfl
  · exact h

theorem silence_modTx (f : TxState → TxState) (h : SilenceKept s x) : SilenceKept s (modTx i f x) := by
  unfold modTx
  cases he : x.entry i with
  | none => exact h
  | some e =>
    have hset := silence_setEntry (y := { e with tx := f e.tx }) he rfl h
    dsimp only
    split
    · exact silence_of_table hset rfl
    · exact hset

theorem silence_applyEntry (q : Seq) (good : Bool) (h : SilenceKept s x) : SilenceKept s (applyEntry i q good x) := by
  unfold applyEntry
  split
  · exact silence_bump _ h
  · have htx (f : TxState → TxState) (c : Counter) (b : Prop) [Decidable b] :
        SilenceKept s (if b then bump c (modTx i f x) else modTx i f x) := by
      split
      · exact silence_bump c (silence_modTx f h)
      · exact silence_modTx f h
    split
    · exact htx _ _ _
    · exact htx _ _ _

/-- R154: nor does what becomes of the segments. -/
theorem silence_segmentNoResponse (h : SilenceKept s x) : SilenceKept s (segmentNoResponse x) := by
  have hsegments (e : EntryIx) (l : List Seq) : ∀ y, SilenceKept s y → SilenceKept s (applyNoAnswers e l y) := by
    induction l with
    | nil => exact fun _ hy => hy
    | cons q l ih =>
      intro y hy
      refine ih _ ?_
      unfold applyNoAnswer
      split
      · exact hy
      · exact silence_applyEntry q false hy
  unfold segmentNoResponse
  split
  · exact h
  · exact silence_of_table (hsegments _ _ _ h) rfl

end

section
variable {s : State} {w : ResponseWait} {i : EntryIx} {e : Entry}

theorem noResponseSend_below (he : s.entry i = some e) (hn : e.streak < 7) :
    noResponseSend i s = { s with table := s.table.set i (some { e with streak := min 255 (e.streak + 1) }) } := by
  have hlow : ¬8 ≤ min 255 (e.streak + 1) := by omega
  simp only [noResponseSend, he, ge_iff_le, hlow, if_false]
  rfl

theorem noResponseSend_eighth (he : s.entry i = some e) (hn : 7 ≤ e.streak) :
    noResponseSend i s =
      let held : State := { s with table := s.table.set i (some
        { e with streak := min 255 (e.streak + 1), hold := some (s.lineTime.plus 10000000) }) }
      if e.hold = none then recompute (bump .directHolds held) else held := by
  have hhigh : 8 ≤ min 255 (e.streak + 1) := by omega
  simp only [noResponseSend, he, ge_iff_le, hhigh, if_true, setHold, entry_setEntry_self]
  cases e.hold <;> simp [setEntry]

/-- R133: what the entry of the station that was to answer holds then. -/
theorem noResponseSend_silence (he : s.entry i = some e) : ∃ x, (noResponseSend i s).entry i = some x ∧
    x.streak = min 255 (e.streak + 1) ∧ (7 ≤ e.streak → x.hold = some (s.lineTime.plus 10000000)) := by
  by_cases hn : e.streak < 7
  · refine ⟨{ e with streak := min 255 (e.streak + 1) }, ?_, rfl, fun h => absurd hn (by omega)⟩
    rw [noResponseSend_below he hn]
    exact entry_setEntry_self i _ s
  · let y : Entry := { e with streak := min 255 (e.streak + 1), hold := some (s.lineTime.plus 10000000) }
    rw [noResponseSend_eighth he (by omega)]
    have hset : (setEntry i (some y) s).entry i = some y := entry_setEntry_self i _ s
    dsimp only
    split
    · have hkept := recompute_unrouted (bump .directHolds (setEntry i (some y) s)) i
      rw [entry_bump, hset] at hkept
      obtain ⟨x, hx, hxy⟩ := Option.map_eq_some_iff.1 hkept
      have heq := unrouted_eq hxy
      exact ⟨x, hx, by rw [heq], fun _ => by rw [heq]⟩
    · exact ⟨y, hset, rfl, fun _ => rfl⟩

/-- R49, R133: the streak and the hold of the receiver after the outcome. -/
theorem noResponseOutcome_silence (hw : s.mac.wait = some w) (hf : s.findEntry w.receiver = some i) (he : s.entry i = some e) :
    ∃ x, (noResponseOutcome s).entry i = some x ∧ x.streak = min 255 (e.streak + 1) ∧
      (7 ≤ e.streak → x.hold = some (s.lineTime.plus 10000000)) := by
  have hsilent : receiverSilent w s.unanswered = noResponseSend i s.unanswered := by
    have hf' : s.unanswered.findEntry w.receiver = some i := hf
    simp only [receiverSilent, hf']
  obtain ⟨x, hx, hstreak, hhold⟩ := noResponseSend_silence (s := s.unanswered) (i := i) (e := e) he
  have hkept : SilenceKept (noResponseSend i s.unanswered) (noResponseOutcome s) := by
    cases hk : w.kind with
    | data =>
      rw [noResponseOutcome_data hw hk, hsilent]
      exact silence_segmentNoResponse (.refl _)
    | grid =>
      rw [noResponseOutcome_grid hw hk, hsilent]
      exact silence_partNoResponse _ (.refl _)
    | resp | sound | note =>
      have hnone : noResponseOutcome s = receiverSilent w s.unanswered := by simp only [noResponseOutcome, hw, hk]; rfl
      rw [hnone, hsilent]
      exact .refl _
  have hentry := hkept i
  rw [hx] at hentry
  obtain ⟨y, hy, hyx⟩ := Option.map_eq_some_iff.1 hentry
  obtain ⟨hs1, hs2⟩ := Prod.mk.inj hyx
  exact ⟨y, hy, hs1.trans hstreak, fun h => hs2.trans (hhold h)⟩

end

/-- Settles O35: the outcome, the period after it, and what reaches the receiver's entry. -/
theorem responseWaitRunsOut : Obligations.ResponseWaitRunsOut := by
  refine ⟨?_, ?_, ?_⟩
  · intro s w hl hr hs hw hrec ht
    have hspec := noResponseOutcome_spec hw
    obtain ⟨st, c, tw, -, hmac⟩ := begun_mac s.txCharge (noResponseOutcome s)
    have hrest := hspec.rest
    have hbegun : Ended (noResponseOutcome s) (beginPeriod (noResponseOutcome s)) := (Ended.refl _).beginPeriod
    have hended := hbegun.settle s.txCharge
    refine ⟨_, exec_responseDeadline hl hs hw hrec ht, ?_, ?_, ?_, ?_, ?_, rfl, ?_, ?_, fun i e hf he => ?_⟩
    · rw [hmac, hrest]; rfl
    · rw [hmac, hrest]; rfl
    · rw [hmac, hrest]; rfl
    · rw [hmac, hrest]; rfl
    · rw [hmac, hrest]; rfl
    · exact outcome_ended (s := s) (b := s.unanswered) rfl hspec hended hr.1 (settle_eval _ _)
    · rw [cnt_settle (by decide) (by decide), cnt_begin (by decide) (by decide), hspec.count _ (.inl rfl), cnt_self]
      rfl
    · obtain ⟨x, hx, hstreak, hhold⟩ := noResponseOutcome_silence hw hf he
      rw [ended_entry hended i, hx]
      exact ⟨congrArg some hstreak, hhold⟩
  · intro s w hw closed silent
    exact ⟨noResponseOutcome_data hw, noResponseOutcome_grid hw⟩
  · intro s i e he streak entered held
    exact ⟨noResponseSend_below he, noResponseSend_eighth he⟩

end Sys2Proof.Machine
end

/-! ## Proofs: averages and their samples (R61, R62) -/

section

namespace Sys2Proof.Machine

section
variable {a x : Int}

theorem stepAverage_self : stepAverage x x = x := by simp [stepAverage]

theorem stepAverage_up_far (h : 8 ≤ x - a) : stepAverage a x = a + (x - a) / 8 := by
  have hq : (x - a).tdiv 8 = (x - a) / 8 := Int.tdiv_eq_ediv_of_nonneg (by omega)
  unfold stepAverage
  simp only [hq]
  rw [if_neg (by omega)]

theorem stepAverage_up_near (h1 : 1 ≤ x - a) (h2 : x - a < 8) : stepAverage a x = a + 1 := by
  have hq : (x - a).tdiv 8 = (x - a) / 8 := Int.tdiv_eq_ediv_of_nonneg (by omega)
  unfold stepAverage
  simp only [hq]
  rw [if_pos (by omega), Int.sign_eq_one_of_pos (by omega)]

/-- The quotient of a fall is that of the rise of the same size, with its sign. -/
theorem tdiv_of_fall : (x - a).tdiv 8 = -((a - x).tdiv 8) := by
  rw [← Int.neg_tdiv, Int.neg_sub]

theorem stepAverage_down_far (h : 8 ≤ a - x) : stepAverage a x = a - (a - x) / 8 := by
  have hq : (x - a).tdiv 8 = -((a - x) / 8) := by rw [tdiv_of_fall, Int.tdiv_eq_ediv_of_nonneg (by omega)]
  unfold stepAverage
  simp only [hq]
  rw [if_neg (by omega)]
  omega

theorem stepAverage_down_near (h1 : 1 ≤ a - x) (h2 : a - x < 8) : stepAverage a x = a - 1 := by
  have hq : (x - a).tdiv 8 = -((a - x) / 8) := by rw [tdiv_of_fall, Int.tdiv_eq_ediv_of_nonneg (by omega)]
  unfold stepAverage
  simp only [hq]
  rw [if_pos (by omega), Int.sign_eq_neg_one_of_neg (by omega), Int.sub_eq_add_neg]

/-- R62: the average rises toward a higher sample and does not pass it. -/
theorem stepAverage_rises (h : a ≤ x) : a ≤ stepAverage a x ∧ stepAverage a x ≤ x ∧ (a < x → a < stepAverage a x) := by
  rcases (show x = a ∨ 1 ≤ x - a ∧ x - a < 8 ∨ 8 ≤ x - a by omega) with rfl | ⟨h1, h2⟩ | h1
  · rw [stepAverage_self]; omega
  · rw [stepAverage_up_near h1 h2]; omega
  · rw [stepAverage_up_far h1]; omega

/-- R62: it falls toward a lower one and does not pass it. -/
theorem stepAverage_falls (h : x ≤ a) : x ≤ stepAverage a x ∧ stepAverage a x ≤ a ∧ (x < a → stepAverage a x < a) := by
  rcases (show x = a ∨ 1 ≤ a - x ∧ a - x < 8 ∨ 8 ≤ a - x by omega) with rfl | ⟨h1, h2⟩ | h1
  · rw [stepAverage_self]; omega
  · rw [stepAverage_down_near h1 h2]; omega
  · rw [stepAverage_down_far h1]; omega

/-- Each step lessens the distance to the sample by one at least. -/
theorem repeat_stepAverage (a x : Int) (n : Nat) :
    (x - Nat.repeat (fun y => stepAverage y x) n a).natAbs ≤ (x - a).natAbs - n := by
  induction n with
  | zero => simp [Nat.repeat]
  | succ n ih =>
    have hstep : Nat.repeat (fun y => stepAverage y x) (n + 1) a = stepAverage (Nat.repeat (fun y => stepAverage y x) n a) x := rfl
    rw [hstep]
    rcases Int.le_total (Nat.repeat (fun y => stepAverage y x) n a) x with h | h
    · have hrises := stepAverage_rises h
      omega
    · have hfalls := stepAverage_falls h
      omega

end

/-! ### The samples of a group -/

/-- R61: one more symbol added to the sums of the carriers. -/
def addReadings (acc r : List Int) : List Int := List.zipWith (fun a x => a + clampReading x) acc r

theorem groupSamples_eq (symbols : List (List Int)) : groupSamples symbols =
    (symbols.foldl addReadings (List.replicate 768 0)).map fun total => total.tdiv symbols.length := rfl

/-- R61: the sum of each carrier over the symbols. -/
theorem foldl_addReadings (symbols : List (List Int)) : ∀ acc : List Int, acc.length = 768 → (∀ r ∈ symbols, r.length = 768) →
    symbols.foldl addReadings acc = (List.range 768).map fun k =>
      acc.getD k 0 + (symbols.map fun (r : List Int) => clampReading (r.getD k 0)).sum := by
  induction symbols with
  | nil =>
    intro acc ha _
    refine List.ext_getElem (by simp [ha]) fun k h1 h2 => ?_
    simp only [List.foldl_nil] at h1 ⊢
    simp [h1]
  | cons r rest ih =>
    intro acc ha hr
    have hlen : (addReadings acc r).length = 768 := by simp [addReadings, ha, hr r List.mem_cons_self]
    rw [List.foldl_cons, ih _ hlen fun x hx => hr x (List.mem_cons_of_mem _ hx)]
    refine List.map_congr_left fun k hk => ?_
    have hk' : k < 768 := List.mem_range.1 hk
    have hka : k < acc.length := ha ▸ hk'
    have hkr : k < r.length := (hr r List.mem_cons_self) ▸ hk'
    have hget : (addReadings acc r).getD k 0 = acc.getD k 0 + clampReading (r.getD k 0) := by
      rw [← List.getElem_eq_getD (h := hlen ▸ hk'), ← List.getElem_eq_getD (h := hka), ← List.getElem_eq_getD (h := hkr)]
      exact List.getElem_zipWith
    rw [hget, List.map_cons, List.sum_cons, Int.add_assoc]

/-- R61: every sum lies within the range of the readings, times their number. -/
theorem foldl_addReadings_range (symbols : List (List Int)) : ∀ (acc : List Int) (n : Nat),
    (∀ a ∈ acc, -32 * (n : Int) ≤ a ∧ a ≤ 223 * n) →
    ∀ v ∈ symbols.foldl addReadings acc, -32 * ((n + symbols.length : Nat) : Int) ≤ v ∧ v ≤ 223 * ((n + symbols.length : Nat) : Int) := by
  induction symbols with
  | nil => exact fun acc n ha v hv => ha v hv
  | cons r rest ih =>
    intro acc n ha v hv
    have hadded : ∀ a ∈ addReadings acc r, -32 * ((n + 1 : Nat) : Int) ≤ a ∧ a ≤ 223 * ((n + 1 : Nat) : Int) := by
      intro y hy
      obtain ⟨i, hi, rfl⟩ := List.mem_iff_getElem.1 hy
      simp only [addReadings, List.length_zipWith] at hi
      have hacc := ha acc[i] (List.getElem_mem (by omega))
      simp only [addReadings, List.getElem_zipWith, clampReading]
      omega
    have hv' := ih _ _ hadded v hv
    rw [List.length_cons]
    omega

/-- Division by the number of symbols leaves a value of the range. -/
theorem tdiv_range {v : Int} {n : Nat} (hn : 0 < n) (h1 : -32 * (n : Int) ≤ v) (h2 : v ≤ 223 * n) : -32 ≤ v.tdiv n ∧ v.tdiv n ≤ 223 := by
  have hpos : (0 : Int) < n := by omega
  rcases Int.le_total 0 v with h | h
  · rw [Int.tdiv_eq_ediv_of_nonneg h]
    have hle := Int.ediv_le_of_le_mul hpos h2
    have hge : 0 ≤ v / n := Int.ediv_nonneg h (Int.le_of_lt hpos)
    omega
  · have hneg : v.tdiv n = -((-v) / n) := by rw [← Int.tdiv_eq_ediv_of_nonneg (by omega), Int.neg_tdiv, Int.neg_neg]
    have hle : (-v) / n ≤ 32 := Int.ediv_le_of_le_mul hpos (by omega)
    have hge : 0 ≤ (-v) / n := Int.ediv_nonneg (by omega) (Int.le_of_lt hpos)
    omega

/-- Settles O38. -/
theorem averageMovesTowardSample : Obligations.AverageMovesTowardSample := by
  refine ⟨fun a x => stepAverage_rises, fun a x => stepAverage_falls, fun a x => stepAverage_up_far, fun a x => stepAverage_down_far,
    fun a x => stepAverage_up_near, fun a x => stepAverage_down_near, fun a x => ⟨(x - a).natAbs, ?_⟩, fun symbols hr => ?_,
    fun symbols hne v hv => ?_⟩
  · have hdist := repeat_stepAverage a x (x - a).natAbs
    omega
  · rw [groupSamples_eq, foldl_addReadings symbols _ List.length_replicate hr, List.map_map]
    refine List.map_congr_left fun k hk => ?_
    have hzero : (List.replicate 768 (0 : Int)).getD k 0 = 0 := by
      rw [List.getD_eq_getElem?_getD, List.getElem?_replicate]
      split <;> rfl
    simp only [Function.comp_apply, hzero, Int.zero_add]
    rfl
  · rw [groupSamples_eq] at hv
    obtain ⟨total, ht, rfl⟩ := List.mem_map.1 hv
    have hrange := foldl_addReadings_range symbols _ 0 (fun a ha => by rw [List.eq_of_mem_replicate ha]; decide) total ht
    rw [Nat.zero_add] at hrange
    exact tdiv_range (List.length_pos_iff.2 hne) hrange.1 hrange.2

end Sys2Proof.Machine
end

/-! ## Proofs: contention periods and candidates (R40, R41, R56, R172 to R176, R179) -/

section

namespace Sys2Proof.Machine

/-- The first index that passes a test is the one found. -/
theorem finRange_find_first {n : Nat} {p : Fin n → Bool} {i : Fin n} (h : p i = true) (hj : ∀ j, j < i → p j = false) :
    (List.finRange n).find? p = some i := by
  rw [List.find?_eq_some_iff_getElem]
  refine ⟨h, i.val, by simp, by rw [List.getElem_finRange]; rfl, fun j hlt => ?_⟩
  rw [List.getElem_finRange, hj _ hlt]
  rfl

/-! ### A candidate request and the period that it decides -/

section
variable {s u : State} {k : Candidate}

/-- R41: the MAC record of a period that begins now, before its candidate is asked for. -/
def State.begunMac (s : State) : Mac := { s.mac with periodStart := s.lineTime, gap := none, candidate := none, toneHeard := false }

/-- A candidate request leaves the MAC record. -/
theorem findCandidate_mac (hf : findCandidate s = (o, u)) : u.mac = s.mac := by
  have hkeep := mac_request s
  rw [candidateRequest, hf] at hkeep
  exact hkeep

theorem beginPeriod_waits (h : s.startUp ≠ .running ∨ s.mac.thermalWait = true) :
    beginPeriod s = { s with mac := { s.begunMac with state := .idle } } := by
  have hcond : ¬(s.startUp = .running ∧ s.mac.thermalWait = false) := fun hc => by
    rcases h with h | h
    · exact h hc.1
    · rw [hc.2] at h; cases h
  unfold beginPeriod
  dsimp only
  exact if_neg hcond

theorem beginPeriod_asks (hup : s.startUp = .running) (hw : s.mac.thermalWait = false) :
    beginPeriod s = askCandidate { s with mac := s.begunMac } := by
  unfold beginPeriod
  dsimp only
  exact if_pos ⟨hup, hw⟩

theorem askCandidate_none (hf : findCandidate s = (none, u)) :
    askCandidate s = { u with mac := { u.mac with state := .idle, candidate := none }, holdsCandidate := false } := by
  unfold askCandidate candidateRequest
  rw [hf]
  rfl

theorem askCandidate_fits (hf : findCandidate s = (some k, u)) (hfits : { u with holdsCandidate := true }.candidateFits k = true) :
    askCandidate s = { u with mac := { u.mac with state := .signal, candidate := some k }, holdsCandidate := true } := by
  unfold askCandidate candidateRequest
  rw [hf]
  exact if_pos hfits

theorem askCandidate_refused (hf : findCandidate s = (some k, u)) (hfits : { u with holdsCandidate := true }.candidateFits k = false) :
    askCandidate s = bump .thermalDeferral
      { u with mac := { u.mac with state := .idle, candidate := none, thermalWait := true }, holdsCandidate := true } := by
  unfold askCandidate candidateRequest
  rw [hf]
  exact if_neg (by rw [Option.isSome_some, hfits]; exact Bool.false_ne_true)

theorem candidateFits_cool (h : s.thermal.limited = false) (k : Candidate) : s.candidateFits k = true := by
  unfold State.candidateFits
  rcases k with ⟨x | ⟨q, n⟩ | n, p⟩ <;> simp [State.airtimeFits, h]

theorem airtimeFits_limited (h : s.thermal.limited = true) (n : Nat) :
    s.airtimeFits n = true ↔ n ≤ s.settings.dutyPercent * 100 - s.thermal.used := by
  simp only [State.airtimeFits, h, State.remaining, Bool.not_true, Bool.false_or]
  exact decide_eq_true_iff

theorem symbolLimit_limited (h : s.thermal.limited = true) :
    s.symbolLimit = if s.settings.dutyPercent * 100 - s.thermal.used < 224 then none
      else some (min 96 ((s.settings.dutyPercent * 100 - s.thermal.used - 192) / 32)) := by
  simp only [State.symbolLimit, h, if_true]
  rfl

/-- R140: the entries that a NOTE lists. -/
theorem heardEntries_eq (s : State) :
    s.heardEntries = ((List.finRange 24).filterMap s.entry).filter fun e => e.state == .heard || e.state == .linked := by
  refine List.filter_congr fun e _ => ?_
  cases e.state <;> rfl

/-- R56: a DATA frame under the guard, by its first segment. -/
theorem candidateFits_data {n : EntryIx} {source : Option QueueIx} {len : Nat} (hl : s.thermal.limited = true)
    (hk : (k.kind = .resends n ∧ source = none) ∨ ∃ q, k.kind = .queueHead q n ∧ source = some q)
    (hf : s.firstOffered n source = some len) : s.candidateFits k = s.dataFits n len (s.lineTime.plus 80) := by
  rcases hk with ⟨hk, rfl⟩ | ⟨q, hk, rfl⟩ <;> simp [State.candidateFits, hk, hl, hf]

theorem dataFits_limited (hl : s.thermal.limited = true) (n : EntryIx) (len : Nat) (start : LineTime) :
    let allowance := s.settings.dutyPercent * 100 - s.thermal.used
    let l := (chooseLoading s n start).fallback len
    (allowance < 224 → s.dataFits n len start = false) ∧
    (224 ≤ allowance → (s.dataFits n len start = true ↔ l.segmentBits len ≤ l.capacity (min 96 ((allowance - 192) / 32)))) := by
  intro allowance l
  have hlimit := symbolLimit_limited hl
  refine ⟨fun h => ?_, fun h => ?_⟩
  · rw [if_pos h] at hlimit
    simp only [State.dataFits, hlimit]
  · rw [if_neg (Nat.not_lt.2 h)] at hlimit
    simp only [State.dataFits, hlimit, decide_eq_true_eq]
    rfl

end

/-! ### The candidate -/

section
variable {s u : State} {i : EntryIx} {e : Entry}

theorem present_of_entry (he : s.entry i = some e) : s.present i = true ↔ e.state = .heard ∨ e.state = .linked := by
  rw [← present_iff]
  simp only [State.present, he]

theorem controlEligible_sound (p : Pair) :
    s.controlEligible (.sound p) = true ↔ s.estimator.wants[p][s.slot] ≠ 0 ∨ ∀ m : MainsSlot, s.estimator.wants[p][m] = 0 := by
  simp [State.controlEligible, Estimator.slotTest]

theorem controlEligible_part {g : Grid} (he : s.entry i = some e) (hg : s.roleGrid i .rxPending = some g) (k : Fin 4) :
    s.controlEligible (.gridPart i g.tag k) = true ↔
      (e.state = .heard ∨ e.state = .linked) ∧ ∀ y ∈ e.store.parts, y.index = k → y.inFlight = false := by
  simp only [State.controlEligible, Bool.and_eq_true, present_of_entry he, State.partInFlight, he, hg, if_true]
  simp

theorem findCandidate_control {pre post : List ControlEntry} {x : ControlEntry} (hc : s.control = pre ++ x :: post)
    (hpre : ∀ y ∈ pre, s.controlEligible y = false) (hx : s.controlEligible x = true) :
    findCandidate s = (some { kind := .control x, priority := 3 }, s) := by
  have hfind : s.control.find? s.controlEligible = some x := by
    rw [hc, List.find?_append, List.find?_eq_none.2 fun y hy => by rw [hpre y hy]; exact Bool.false_ne_true]
    simp [hx]
  simp only [findCandidate, hfind]

theorem findCandidate_search (hc : ∀ y ∈ s.control, s.controlEligible y = false) :
    findCandidate s = match searchQueues s.settings.queueOrder s with
      | (some c, u) => (some c, u)
      | (none, u) => (u.resendCandidate, u) := by
  have hfind : s.control.find? s.controlEligible = none :=
    List.find?_eq_none.2 fun y hy => by rw [hc y hy]; exact Bool.false_ne_true
  simp only [findCandidate, hfind] <;> rfl

theorem tierSequence_eq (code : Fin 6) : tierSequence code =
    ([[0, 1, 2], [0, 2, 1], [1, 0, 2], [1, 2, 0], [2, 0, 1], [2, 1, 0]] : List (List (Fin 3))).getD code.val [] := by
  revert code; decide

/-- R173: the queue order, by the tier order and the leads. -/
theorem queueOrder_eq (c : Settings) : c.queueOrder.map (·.val) =
    (([[0, 1, 2], [0, 2, 1], [1, 0, 2], [1, 2, 0], [2, 0, 1], [2, 1, 0]] : List (List (Fin 3))).getD c.tierOrder.val []).flatMap
      fun t => if c.leads[t] = true then [2 * t.val + 1, 2 * t.val] else [2 * t.val, 2 * t.val + 1] := by
  rw [Settings.queueOrder, List.map_flatMap, ← tierSequence_eq]
  refine congrArg (fun f => List.flatMap f _) (funext fun t => ?_)
  unfold tierQueues
  split <;> rfl

theorem nextHop_unknown {f : HostFrame} (h : s.findEntry f.final = none) : s.nextHop f = none := by
  simp only [State.nextHop, h]

theorem nextHop_known {f : HostFrame} (h : s.findEntry f.final = some i) (he : s.entry i = some e) :
    s.nextHop f = if f.hop = 0 then
      match e.route with
      | .direct => some i
      | .via j => some j
      | .noRoute => none
      else if e.state.present then some i else none := by
  simp only [State.nextHop, h, he] <;> rfl

/-! The search of one queue (R172, R174). -/

/-- R172: the frames of a queue's head without an entry are dropped, and counted. -/
theorem dropUnreachable_eq {q : QueueIx} {gone kept : List HostFrame} (hq : s.queues[q] = gone ++ kept)
    (hgone : ∀ f ∈ gone, s.findEntry f.final = none) (hkept : ∀ f, kept.head? = some f → s.findEntry f.final ≠ none) :
    dropUnreachable q s =
      if gone = [] then s else bumpBy .unreachableDrops gone.length { s with queues := s.queues.set q kept, evalDue := true } := by
  have hdrop : (s.queues[q]).dropWhile (fun f => (s.findEntry f.final).isNone) = kept := by
    rw [hq, List.dropWhile_append_of_pos fun f hf => by rw [hgone f hf]; rfl]
    cases kept with
    | nil => rfl
    | cons f l =>
      have hf : (s.findEntry f.final).isNone = false := by
        rw [Option.isNone_eq_false_iff, Option.isSome_iff_ne_none]
        exact hkept f rfl
      rw [List.dropWhile_cons_of_neg (by rw [hf]; exact Bool.false_ne_true)]
  have hcount : (s.queues[q]).length - kept.length = gone.length := by rw [hq, List.length_append]; omega
  unfold dropUnreachable
  dsimp only
  rw [hdrop, hcount]
  by_cases hg : gone = []
  · rw [if_pos hg, if_pos (by rw [hg]; rfl)]
  · rw [if_neg hg, if_neg (by rw [List.length_eq_zero_iff]; exact hg)]
    rfl

/-- R172: dropping heads leaves the table and the settings, and of the queue what was not dropped. -/
theorem dropUnreachable_fields {q : QueueIx} {gone kept : List HostFrame} (hq : s.queues[q] = gone ++ kept)
    (hgone : ∀ f ∈ gone, s.findEntry f.final = none) (hkept : ∀ f, kept.head? = some f → s.findEntry f.final ≠ none) :
    (dropUnreachable q s).queues[q] = kept ∧ (dropUnreachable q s).table = s.table ∧ (dropUnreachable q s).settings = s.settings := by
  rw [dropUnreachable_eq hq hgone hkept]
  by_cases hg : gone = []
  · rw [if_pos hg, hq, hg]
    exact ⟨rfl, rfl, rfl⟩
  · rw [if_neg hg, bumpBy_eq]
    refine ⟨?_, rfl, rfl⟩
    simp

/-- R172: the next hop is told by the table. -/
theorem nextHop_congr (h : u.table = s.table) (f : HostFrame) : u.nextHop f = s.nextHop f := by
  have hentry : u.entry = s.entry := by funext j; unfold State.entry; rw [h]
  unfold State.nextHop State.findEntry
  rw [hentry]

theorem sendable_of_entry {n : EntryIx} (h : u.table = s.table) (he : s.entry n = some e) (f : HostFrame) :
    u.sendable f n = (e.tx.windowRoom f.pieces || e.tx.hasMarked) := by
  have he' : u.entry n = some e := by unfold State.entry at he ⊢; rw [h, he]
  simp only [State.sendable, he']

theorem hasMarked_iff (t : TxState) : t.hasMarked = true ↔ ∃ x ∈ t.unacked, x.marked = true := by simp [TxState.hasMarked]

theorem resendCandidate_none (h : ∀ i e, ¬(s.entry i = some e ∧ (e.state = .heard ∨ e.state = .linked) ∧ ∃ x ∈ e.tx.unacked, x.marked = true)) :
    s.resendCandidate = none := by
  have hfind : (List.finRange 24).find? (fun i => s.present i && ((s.entry i).map (·.tx.hasMarked)).getD false) = none := by
    refine List.find?_eq_none.2 fun i _ hi => ?_
    obtain ⟨hp, hm⟩ := Bool.and_eq_true_iff.1 hi
    cases he : s.entry i with
    | none => simp [he] at hm
    | some e =>
      rw [he] at hm
      exact h i e ⟨he, (present_of_entry he).1 hp, (hasMarked_iff e.tx).1 hm⟩
  simp only [State.resendCandidate, hfind]

/-- R174: the lowest entry with a marked segment, at the priority of the frame of its oldest one. -/
theorem resendCandidate_some {x : UnackedSegment} {pre post : List UnackedSegment} {y : NumberedFrame} (he : s.entry i = some e)
    (hp : e.state = .heard ∨ e.state = .linked)
    (hlow : ∀ j z, j < i → ¬(s.entry j = some z ∧ (z.state = .heard ∨ z.state = .linked) ∧ ∃ x ∈ z.tx.unacked, x.marked = true))
    (hu : e.tx.unacked = pre ++ x :: post) (hpre : ∀ z ∈ pre, z.marked = false) (hx : x.marked = true)
    (hy : e.tx.numbered.find? (fun z => z.frame.id == x.frameId) = some y) :
    s.resendCandidate = some { kind := .resends i, priority := s.settings.queues[y.frame.queue].priority } := by
  have hfind : (List.finRange 24).find? (fun i => s.present i && ((s.entry i).map (·.tx.hasMarked)).getD false) = some i := by
    refine finRange_find_first ?_ fun j hj => ?_
    · rw [(present_of_entry he).2 hp, he]
      exact (hasMarked_iff e.tx).2 ⟨x, by simp [hu], hx⟩
    · refine Bool.eq_false_iff.2 fun hc => ?_
      obtain ⟨hpj, hmj⟩ := Bool.and_eq_true_iff.1 hc
      cases hej : s.entry j with
      | none => rw [hej] at hmj; cases hmj
      | some z =>
        rw [hej] at hmj
        exact hlow j z hj ⟨hej, (present_of_entry hej).1 hpj, (hasMarked_iff z.tx).1 hmj⟩
  have hhead : e.tx.marked.head? = some x := by
    have hnone : pre.filter (·.marked) = [] := List.filter_eq_nil_iff.2 fun z hz => by rw [hpre z hz]; exact Bool.false_ne_true
    rw [TxState.marked, hu, List.filter_append, hnone, List.nil_append, List.filter_cons_of_pos hx]
    rfl
  have hprio : s.resendPriority e = s.settings.queues[y.frame.queue].priority := by simp only [State.resendPriority, hhead, hy]
  simp only [State.resendCandidate, hfind, he, Option.map_some, Option.getD_some, hprio]

/-! The evaluation of R176. -/

theorem evaluate_quiet {o : Option Candidate} (hf : findCandidate s = (o, u))
    (h : o = none ∨ s.holdsCandidate = true ∨ s.mac.state ≠ .idle ∨ s.startUp ≠ .running ∨ s.mac.thermalWait = true) :
    evaluate s = { u with holdsCandidate := o.isSome } := by
  have hended : Ended s u := by have := (Ended.refl s).find; rwa [hf] at this
  have hmac : u.mac = s.mac := findCandidate_mac hf
  have hup : u.startUp = s.startUp := by rw [hended]; rfl
  unfold evaluate candidateRequest
  dsimp only
  rw [hf]
  dsimp only
  split
  · rename_i hnew
    obtain ⟨hsome, hhad⟩ := Bool.and_eq_true_iff.1 hnew
    refine if_neg fun hc => ?_
    obtain ⟨h1, h2, h3⟩ := hc
    dsimp only at h1 h2 h3
    rw [hmac] at h1 h3
    rw [hup] at h2
    rcases h with h | h | h | h | h
    · rw [h] at hsome; cases hsome
    · rw [h] at hhad; cases hhad
    · exact h h1
    · exact h h2
    · rw [h3] at h; cases h
  · rfl

theorem evaluate_begins {o : Option Candidate} (hf : findCandidate s = (o, u)) (ho : o ≠ none) (hh : s.holdsCandidate = false)
    (hs : s.mac.state = .idle) (hup : s.startUp = .running) (hw : s.mac.thermalWait = false) :
    evaluate s = beginPeriod { u with holdsCandidate := o.isSome } := by
  have hended : Ended s u := by have := (Ended.refl s).find; rwa [hf] at this
  have hmac : u.mac = s.mac := findCandidate_mac hf
  have hup' : u.startUp = .running := by rw [hended]; exact hup
  unfold evaluate candidateRequest
  dsimp only
  rw [hf]
  dsimp only
  rw [hh, Option.isSome_iff_ne_none.2 ho, Bool.not_false, Bool.and_true, if_pos rfl]
  exact if_pos ⟨by rw [hmac]; exact hs, hup', by rw [hmac]; exact hw⟩

end

section
variable {s : State} {c : Instr}

/-- R40, R43: the end of a gap or a watch begins a period. -/
theorem exec_of_gapEnd (hl : s.Live) (hs : s.mac.state = .deferring)
    (hc : (c = .gapDeadline ∧ (s.mac.gap = some (.quiet s.lineTime) ∨ s.mac.gap = some (.response s.lineTime))) ∨
      (c = .toneWatchEnd ∧ s.mac.gap = some (.toneWatch s.lineTime))) :
    exec c s = .next (settle s.txCharge (beginPeriod s)) := by
  rcases hc with ⟨rfl, hg⟩ | ⟨rfl, hg⟩
  · exact live_due (b := State.gapDue) hl (State.gapDue_iff.2 ⟨hs, hg⟩)
  · exact live_due (b := State.watchDue) hl (State.watchDue_iff.2 ⟨hs, hg⟩)

/-- R41: with the guard COOL, the first eligible control entry leads to SIGNAL. -/
theorem beginPeriod_control {pre post : List ControlEntry} {x : ControlEntry} (hup : s.startUp = .running)
    (hw : s.mac.thermalWait = false) (hcool : s.thermal.limited = false) (hc : s.control = pre ++ x :: post)
    (hpre : ∀ y ∈ pre, s.controlEligible y = false) (hx : s.controlEligible x = true) :
    beginPeriod s = { s with
      mac := { s.begunMac with state := .signal, candidate := some { kind := .control x, priority := 3 } }
      holdsCandidate := true } := by
  rw [beginPeriod_asks hup hw]
  have hfind : findCandidate { s with mac := s.begunMac } =
      (some { kind := .control x, priority := 3 }, { s with mac := s.begunMac }) := findCandidate_control hc hpre hx
  exact askCandidate_fits hfind (candidateFits_cool (by exact hcool) _)

theorem evalDue_lowered (h : s.evalDue = false) : { s with evalDue := false } = s := by rw [← h]

/-- R176: an event whose only effect is that an evaluation is due. -/
theorem settle_markEval (hs : s.Rested) : settle s.txCharge (markEval s) = settle s.txCharge { evaluate s with evalDue := false } := by
  have hmarked : evaluateIfDue (markEval s) = { evaluate s with evalDue := false } := by
    have heq : ({ markEval s with evalDue := false } : State) = s := evalDue_lowered hs.1
    unfold evaluateIfDue
    rw [heq]
    exact if_pos rfl
  have hnotDue : evaluateIfDue { evaluate s with evalDue := false } = { evaluate s with evalDue := false } :=
    evaluateIfDue_of_not_due rfl
  unfold settle
  rw [hmarked, hnotDue]

end

/-- Settles O34, statement by statement. -/
theorem periodBegins : Obligations.PeriodBegins := by
  refine ⟨?_, ?_, ?_, ?_, ?_, ?_, ?_, ?_, ?_⟩
  · intro s c hl hr hs hc begun
    rw [exec_of_gapEnd hl hs hc]
    refine ⟨rfl, fun h => ?_, fun rest hup hw hcool hcontrol => ?_⟩
    · refine next_at_rest hr ?_ rfl rfl rfl rfl
      rw [beginPeriod_waits h]
      rfl
    · refine next_at_rest hr ?_ rfl rfl rfl rfl
      rw [beginPeriod_control (pre := []) hup hw hcool hcontrol (fun _ h => nomatch h) rfl]
      rfl
  · intro s x hl hr hp hc hwant hh hup hs hw hcool
    have heligible : s.controlEligible (.sound x.pair) = true := (controlEligible_sound x.pair).2 hwant
    have hexec : exec .soundSlotEligible s = .next (settle s.txCharge (markEval s)) :=
      live_due (b := State.slotEligibleDue) hl (State.slotEligibleDue_iff.2 ⟨hh, x, hp, hwant⟩)
    have hfound : findCandidate s = (some { kind := .control (.sound x.pair), priority := 3 }, s) :=
      findCandidate_control (pre := []) hc (fun _ h => nomatch h) heligible
    have heval : evaluate s = beginPeriod { s with holdsCandidate := true } :=
      evaluate_begins hfound (Option.some_ne_none _) hh hs hup hw
    rw [hexec, settle_markEval hr, heval]
    refine next_at_rest hr ?_ rfl rfl rfl rfl
    rw [beginPeriod_control (s := { s with holdsCandidate := true }) (pre := []) hup hw hcool hc (fun _ h => nomatch h) heligible]
    exact evalDue_lowered hr.1
  · intro s begun
    refine ⟨beginPeriod_waits, ?_⟩
    intro found u hup hw hf answer
    have hmac : u.mac = begun := findCandidate_mac hf
    change findCandidate { s with mac := s.begunMac } = _ at hf
    have hanswer (b : Bool) (m : Mac) (hm : m = u.mac) : ({ u with mac := m, holdsCandidate := b } : State) = { u with holdsCandidate := b } := by
      rw [hm]
    rw [beginPeriod_asks hup hw]
    refine ⟨?_, ?_⟩
    · rintro rfl
      rw [askCandidate_none hf, hmac]
      rfl
    · rintro k rfl
      have hsame : answer begun = { u with holdsCandidate := true } := hanswer true begun hmac.symm
      rw [hsame]
      refine ⟨fun hfits => ?_, fun hfits => ?_⟩
      · rw [askCandidate_fits hf hfits, hmac]
        rfl
      · rw [askCandidate_refused hf hfits, hmac]
        rfl
  · intro s k allowance heard
    refine ⟨fun h => candidateFits_cool h k, fun hl => ⟨fun p hk => ?_, fun i tag part hk => ?_, fun hk => ?_, fun n source len hk hf => ?_⟩⟩
    · rw [State.candidateFits, hk]; exact airtimeFits_limited hl 960
    · rw [State.candidateFits, hk]; exact airtimeFits_limited hl 608
    · rw [State.candidateFits, hk]
      refine (airtimeFits_limited hl _).trans ?_
      rw [show s.controlAirtime .note = 192 + 32 * s.noteSymbols from rfl, State.noteSymbols, heardEntries_eq]
      rfl
    · rw [candidateFits_data hl hk hf]
      exact dataFits_limited hl n len _
  · intro s
    refine ⟨rfl, controlEligible_sound, fun i e g k he hg => controlEligible_part he hg k, fun pre x post => findCandidate_control,
      fun hc => ⟨fun k u hs => ?_, fun u hs => ?_⟩, queueOrder_eq _⟩
    · rw [findCandidate_search hc, hs]
    · rw [findCandidate_search hc, hs]
  · intro s q rest gone kept hq hgone hkept u
    have hdrop : dropUnreachable q s = u := dropUnreachable_eq hq hgone hkept
    obtain ⟨hqueue, htable, hsettings⟩ := dropUnreachable_fields hq hgone hkept
    rw [hdrop] at hqueue htable hsettings
    refine ⟨rfl, fun hk => ?_, fun f l hk => ⟨fun hn => ?_, fun n e hn he => ?_⟩⟩
    · rw [hk] at hqueue
      simp only [searchQueues, hdrop, hqueue, List.head?_nil]
    · rw [hk] at hqueue
      simp only [searchQueues, hdrop, hqueue, List.head?_cons, nextHop_congr htable, hn]
    · rw [hk] at hqueue
      have hsend := sendable_of_entry htable he f
      refine ⟨fun hroom => ?_, fun hroom hmarked => ?_⟩
      · have hyes : u.sendable f n = true := by
          rw [hsend, Bool.or_eq_true, hasMarked_iff]
          exact hroom
        simp only [searchQueues, hdrop, hqueue, List.head?_cons, nextHop_congr htable, hn, hyes, hsettings, if_true]
      · have hno : u.sendable f n = false := by
          rw [hsend, Bool.or_eq_false_iff]
          refine ⟨hroom, Bool.eq_false_iff.2 fun h => ?_⟩
          obtain ⟨x, hx, hm⟩ := (hasMarked_iff e.tx).1 h
          rw [hmarked x hx] at hm
          cases hm
        simp only [searchQueues, hdrop, hqueue, List.head?_cons, nextHop_congr htable, hn, hno, Bool.false_eq_true, if_false]
  · intro s f
    refine ⟨nextHop_unknown, fun d e hf he => ?_⟩
    have hknown := nextHop_known hf he
    refine ⟨fun h0 => ?_, fun h0 => ?_⟩
    · rw [if_pos h0] at hknown
      refine ⟨fun hr => ?_, fun i hr => ?_, fun hr => ?_⟩
      · rw [hknown, hr]
      · rw [hknown, hr]
      · rw [hknown, hr]
    · rw [if_neg h0] at hknown
      refine ⟨fun hp => ?_, fun hp => ?_⟩
      · rw [hknown, if_pos ((present_iff _).2 hp)]
      · have hp' : e.state.present ≠ true := by rcases hp with hp | hp <;> rw [hp] <;> exact Bool.false_ne_true
        rw [hknown, if_neg hp']
  · intro s resends
    exact ⟨resendCandidate_none, fun i e x pre post y hres hlow hu hpre hx hy => resendCandidate_some hres.1 hres.2.1 hlow hu hpre hx hy⟩
  · intro s found u hf v
    exact ⟨evaluate_quiet hf, evaluate_begins hf⟩

end Sys2Proof.Machine
end

/-! ## Proofs: resets and start-up (R204 to R209) -/

section

namespace Sys2Proof.Machine

theorem beginReset_of_free {s : State} (h : s.held = none) (k : ResetKind) : beginReset k s =
    { State.reset with held := some k, port := Port.reset s.port.mode, restart := s.restart, pending := s.pending, draws := s.draws } := by
  unfold beginReset
  rw [h]
  rfl

theorem exec_resetEnd {s : State} {k : ResetKind} (h : s.held = some k) (strap : Bool) :
    exec (.resetEnd strap) s = .next { State.reset with
      counters := s.counters, restart := s.restart.after k, port := Port.reset (if strap then .rgmii else .rmii)
      pending := s.pending, draws := s.draws } := by
  show Host.Outcome.next (endReset strap s) = _
  unfold endReset
  rw [h]
  rfl

/-- Settles O56. -/
theorem resetsHoldAndEnd : Obligations.ResetsHoldAndEnd := by
  refine ⟨?_, ?_⟩
  · intro s h held
    exact ⟨nextInj (beginReset_of_free h .power), nextInj (beginReset_of_free h .pin)⟩
  · intro s strap ended
    refine ⟨fun h => exec_resetEnd h strap, fun h hlow => ?_, fun h hfull => ?_⟩
    · have hcount : s.restart.after .pin = { s.restart with cause := .pin, restarts := s.restart.restarts + 1 } := by
        simp [RestartRecord.after, sat16, hlow]
      rw [exec_resetEnd h, hcount]
    · have hcount : s.restart.after .pin = { s.restart with cause := .pin } := by
        have hsat : sat16 s.restart.restarts = s.restart.restarts := by rw [hfull]; rfl
        simp only [RestartRecord.after, hsat]
      rw [exec_resetEnd h, hcount]

/-! ### Load completion and the listening deadline -/

section
variable {s : State}

theorem loadSettings_imageValid (m : List Byte) : (loadSettings m).imageValid = imageValid m := by
  unfold loadSettings
  cases h : imageValid m <;> rfl

/-- R206: what load completion makes of the part before RUNNING may be entered. -/
def State.loaded (s : State) (m : List Byte) : State :=
  { s with
    settings := loadSettings m, startUp := .listening, listening := some (s.lineTime.plus 2000000)
    estimator := { s.estimator with deadline := some s.lineTime }
    note := { s.note with deadline := some s.lineTime }
    attention := { s.attention with configDefault := s.attention.configDefault || !imageValid m } }

theorem enterListening_eq (m : List Byte) (s : State) : enterListening m s = s.loaded m := by
  unfold enterListening State.loaded
  dsimp only
  rw [loadSettings_imageValid]
  cases imageValid m
  · rw [if_neg Bool.false_ne_true, Bool.not_false, Bool.or_true]
    rfl
  · rw [if_pos rfl, Bool.not_true, Bool.or_false]

theorem exec_loadCompletion (hl : s.Live) (hs : s.startUp = .loading) (m : List Byte) :
    exec (.loadCompletion m) s = .next (settled (loadEffect m) s) :=
  live_due (b := fun s => s.startUp == .loading) hl (beq_iff_eq.2 hs)

theorem loadEffect_unlocked (m : List Byte) (h : s.tracker.state ≠ .locked) : loadEffect m s = s.loaded m := by
  unfold loadEffect
  rw [enterListening_eq]
  exact if_neg h

theorem loadEffect_locked (m : List Byte) (h : s.tracker.state = .locked) : loadEffect m s = enterRunning (s.loaded m) := by
  unfold loadEffect
  rw [enterListening_eq]
  exact if_pos h

theorem searchQueues_empty (h : ∀ q : QueueIx, s.queues[q] = []) (l : List QueueIx) : searchQueues l s = (none, s) := by
  induction l with
  | nil => rfl
  | cons q l ih => simp only [searchQueues, dropUnreachable_empty (h q), h q, List.head?_nil, ih]

/-- R174: with nothing on the control list, in the queues and to be sent again there is no candidate. -/
theorem findCandidate_nothing (hc : s.control = []) (hq : ∀ q : QueueIx, s.queues[q] = [])
    (hu : ∀ (i : EntryIx) (e : Entry), s.entry i = some e → e.tx.unacked = []) : findCandidate s = (none, s) := by
  have hresend : s.resendCandidate = none := resendCandidate_none fun i e ⟨he, _, x, hx, _⟩ => by
    rw [hu i e he] at hx
    cases hx
  rw [findCandidate_search (by rw [hc]; exact fun _ h => nomatch h), searchQueues_empty hq]
  dsimp only
  rw [hresend]

end

/-! ### The configuration image (R204, R205, R210) -/

section
variable {m : List Byte}

theorem factoryTaken (hm : 100 ≤ m.length) : FactoryTaken m (factoryAddr m).1 (factoryAddr m).2 := by
  unfold FactoryTaken
  intro word valid
  have hsum := sumPasses_slice 0 4 m (by omega)
  have hiff : factoryValid m = true ↔ valid := by
    unfold factoryValid
    rw [Bool.and_eq_true, Bool.and_eq_true, hsum, Bool.not_eq_true', bne_iff_ne, and_assoc]
    refine and_congr_left fun _ => ?_
    simp only [List.range, List.range.loop, List.map_cons, List.map_nil, List.sum_cons, List.sum_nil]
    show (word 0 + (word 2 + (word 4 + (word 6 + 0)))) % 65536 = 65535 ↔ _
    rw [Nat.add_zero, ← Nat.add_assoc, ← Nat.add_assoc]
  unfold factoryAddr
  refine ⟨fun h => ?_, fun h => ?_⟩
  · rw [if_pos (hiff.2 h)]
    exact ⟨rfl, rfl⟩
  · rw [if_neg (mt hiff.1 h)]
    exact ⟨rfl, rfl⟩

theorem imageValid_iff (hm : 100 ≤ m.length) : imageValid m = true ↔
    ((List.range 42).map fun k => (byteAt (16 + 2 * k) m).toNat * 256 + (byteAt (17 + 2 * k) m).toNat).sum % 65536 = 0xFFFF ∧
      byteAt 16 m = 0x5A#8 ∧ byteAt 17 m = 0x3C#8 ∧ byteAt 18 m = 0#8 ∧ byteAt 19 m = 84#8 ∧ byteAt 20 m = 1#8 := by
  unfold imageValid
  have hmagic : fieldAt 16 2 m = 0x5A3C ↔ byteAt 16 m = 0x5A#8 ∧ byteAt 17 m = 0x3C#8 := fieldAt_word 16 m 0x5A#8 0x3C#8
  have hlength : fieldAt 18 2 m = 84 ↔ byteAt 18 m = 0#8 ∧ byteAt 19 m = 84#8 := fieldAt_word 18 m 0#8 84#8
  rw [Bool.and_eq_true, Bool.and_eq_true, Bool.and_eq_true, sumPasses_slice 16 42 m (by omega), beq_iff_eq, beq_iff_eq, beq_iff_eq, hmagic,
    hlength]
  simp only [and_assoc]

theorem default_pairs : ∀ p : Pair, Settings.default.pairs[p] = true := by decide

theorem default_queues : ∀ q : QueueIx, Settings.default.queues[q].depth = 32 ∧ Settings.default.queues[q].lifetimeMs = 200 := by
  decide

theorem default_leads : ∀ t : Fin 3, Settings.default.leads[t] = false := by decide

theorem loadSettings_defaulted (hm : 100 ≤ m.length) (h : imageValid m = false) : (loadSettings m).Defaulted m := by
  have hload : loadSettings m = { Settings.default with station := (factoryAddr m).1, addrSource := (factoryAddr m).2 } :=
    if_neg (by rw [h]; exact Bool.false_ne_true)
  rw [hload]
  exact ⟨factoryTaken hm, rfl, rfl, rfl, rfl, rfl, default_pairs, rfl, rfl, default_queues, rfl, rfl, default_leads, rfl, rfl, rfl, rfl, rfl, rfl, rfl, rfl,
    rfl, rfl⟩

/-! A valid image, field by field. -/

/-- R204: the image holds a station address of its own. -/
def OwnAddr (m : List Byte) : Prop := (addrAt 22 m).isGroup = false ∧ addrAt 22 m ≠ 0#48

theorem ownAddr_iff : (!(addrAt 22 m).isGroup && addrAt 22 m != 0#48) = true ↔ OwnAddr m := by
  rw [Bool.and_eq_true, Bool.not_eq_true', bne_iff_ne]
  rfl

theorem image_station_own (h : OwnAddr m) : (imageSettings m).station = addrAt 22 m ∧ (imageSettings m).addrSource = .image := by
  unfold imageSettings
  dsimp only
  rw [if_pos (ownAddr_iff.2 h)]
  exact ⟨rfl, rfl⟩

theorem image_station_factory (h : ¬OwnAddr m) :
    (imageSettings m).station = (factoryAddr m).1 ∧ (imageSettings m).addrSource = (factoryAddr m).2 := by
  unfold imageSettings
  dsimp only
  rw [if_neg (mt ownAddr_iff.1 h)]
  exact ⟨rfl, rfl⟩

theorem factoryAddr_source : (factoryAddr m).2 ≠ .image := by
  unfold factoryAddr
  split <;> exact nofun

theorem image_source_iff : (imageSettings m).addrSource = .image ↔ OwnAddr m := by
  by_cases h : OwnAddr m
  · exact iff_of_true (image_station_own h).2 h
  · refine iff_of_false ?_ h
    rw [(image_station_factory h).2]
    exact factoryAddr_source

/-- R205: the pairs that three bits enable, pair 0 where they enable none. -/
def pairsOf (b0 b1 b2 : Bool) : Vector Bool 3 :=
  if (#v[b0, b1, b2] : Vector Bool 3) == Vector.replicate 3 false then #v[true, false, false] else #v[b0, b1, b2]

theorem pairsOf_spec : ∀ b0 b1 b2 : Bool, let noPair := b0 = false ∧ b1 = false ∧ b2 = false
    (noPair → ∀ p : Fin 3, (pairsOf b0 b1 b2)[p] = decide (p = 0)) ∧ (¬noPair → pairsOf b0 b1 b2 = #v[b0, b1, b2]) ∧
    ((pairsOf b0 b1 b2).toList = [b0, b1, b2] ↔ ¬noPair) ∧
    ((#v[b0, b1, b2] : Vector Bool 3) == Vector.replicate 3 false) = decide noPair := by decide

/-- R210: the bit of the image that enables a pair. -/
def pairBit (m : List Byte) (p : Pair) : Bool := (byteAt 21 m).toNat.testBit (2 + p.val)

theorem image_pairs : (imageSettings m).pairs = pairsOf (pairBit m 0) (pairBit m 1) (pairBit m 2) := rfl

theorem pairBit_none : (∀ p : Pair, pairBit m p = false) ↔ pairBit m 0 = false ∧ pairBit m 1 = false ∧ pairBit m 2 = false :=
  ⟨fun h => ⟨h 0, h 1, h 2⟩, fun ⟨h0, h1, h2⟩ p => by match p with | 0 => exact h0 | 1 => exact h1 | 2 => exact h2⟩

theorem image_pairs_spec (p : Pair) :
    ((∀ p : Pair, pairBit m p = false) → (imageSettings m).pairs[p] = decide (p = 0)) ∧
    ((¬∀ p : Pair, pairBit m p = false) → (imageSettings m).pairs[p] = pairBit m p) := by
  obtain ⟨hnone, hsome, -, -⟩ := pairsOf_spec (pairBit m 0) (pairBit m 1) (pairBit m 2)
  rw [image_pairs, pairBit_none]
  refine ⟨fun h => hnone h p, fun h => ?_⟩
  rw [hsome h]
  match p with
  | 0 => rfl
  | 1 => rfl
  | 2 => rfl

theorem house_toNat : (imageSettings m).house.toNat = (byteAt 28 m).toNat * 256 + (byteAt 29 m).toNat := by
  show (BitVec.ofNat 16 (fieldAt 28 2 m)).toNat = _
  have hfield : fieldAt 28 2 m = (byteAt 28 m).toNat * 256 + (byteAt 29 m).toNat := fieldAt_two 28 m
  have h1 := (byteAt 28 m).isLt
  have h2 := (byteAt 29 m).isLt
  rw [BitVec.toNat_ofNat, hfield]
  omega

/-- R205: a value above a range whose replacement is the end of it. -/
theorem orElse_top (hi x : Nat) : (orElse hi hi x).1 = if x < 0 then 0 else if hi < x then hi else x := by
  rw [orElse_eq, if_neg (Nat.not_lt_zero x)]
  split <;> split <;> omega

/-- R210: a band of the image, packed. -/
def packedBand (m : List Byte) (k : Nat) : Nat :=
  (byteAt (32 + 3 * k) m).toNat * 65536 + (byteAt (33 + 3 * k) m).toNat * 256 + (byteAt (34 + 3 * k) m).toNat

theorem bandAt_packed (k : Nat) : bandAt (32 + 3 * k) m =
    { first := packedBand m k / 2 ^ 14 % 1024, width := packedBand m k / 2 ^ 4 % 1024, cap := packedBand m k % 16 } := by
  unfold bandAt
  rw [fieldAt_three, show 32 + 3 * k + 1 = 33 + 3 * k by omega, show 32 + 3 * k + 2 = 34 + 3 * k by omega]
  simp only [bitsOf, Nat.pow_zero, Nat.div_one]
  rfl

theorem bandCount_eq : (orElse 8 8 (byteAt 31 m).toNat).1 = min 8 (byteAt 31 m).toNat := by
  rw [orElse_eq]
  split <;> omega

/-- R205: the band that band k of the image becomes. -/
def keptBand (m : List Byte) (k : Nat) : Band where
  first := packedBand m k / 2 ^ 14 % 1024
  width := min (max 1 (packedBand m k / 2 ^ 4 % 1024)) (768 - packedBand m k / 2 ^ 14 % 1024)
  cap := min 10 (packedBand m k % 16)

theorem image_bands : (imageSettings m).bands =
    ((List.range (min 8 (byteAt 31 m).toNat)).filter fun k => decide (packedBand m k / 2 ^ 14 % 1024 ≤ 767)).map (keptBand m) := by
  show (clampBands (bandsAt 32 (orElse 8 8 (byteAt 31 m).toNat).1 m)).1 = _
  rw [bandCount_eq, clampBands_kept, bandsAt, List.filter_map, List.map_map]
  simp only [Function.comp_def, bandAt_packed]
  rfl

theorem imageBands_count : (imageBands m).2 = (if 8 < (byteAt 31 m).toNat then 1 else 0) +
    ((List.range (min 8 (byteAt 31 m).toNat)).map fun k =>
      if 767 < packedBand m k / 2 ^ 14 % 1024 then 1 else
        (if packedBand m k / 2 ^ 4 % 1024 = (keptBand m k).width then 0 else 1) +
          if packedBand m k % 16 = (keptBand m k).cap then 0 else 1).sum := by
  show (orElse 8 8 (byteAt 31 m).toNat).2 + (clampBands (bandsAt 32 (orElse 8 8 (byteAt 31 m).toNat).1 m)).2 = _
  rw [bandCount_eq, clampBands_count, bandsAt, List.map_map]
  simp only [Function.comp_def, bandAt_packed]
  congr 1
  unfold orElse
  split <;> rfl

/-- R210: the queue that the image names for a VLAN priority. -/
def vlanField (m : List Byte) (p : Fin 8) : Nat :=
  if p.val % 2 = 0 then (byteAt (56 + p.val / 2) m).toNat / 16 else (byteAt (56 + p.val / 2) m).toNat % 16

theorem vlanField_eq (p : Fin 8) :
    bitsOf (byteAt (56 + p.val / 2) m).toNat (if p.val % 2 = 0 then 4 else 0) 4 = vlanField m p := by
  have hb := (byteAt (56 + p.val / 2) m).isLt
  unfold bitsOf vlanField
  split <;> omega

theorem image_vlan (p : Fin 8) : (imageSettings m).vlan[p] = (queueOr (imageSettings m).defaultQueue (vlanField m p)).1 := by
  unfold imageSettings
  dsimp only
  rw [Fin.getElem_fin, Vector.getElem_map, Vector.getElem_ofFn, ← vlanField_eq]

theorem image_queues (q : QueueIx) : (imageSettings m).queues[q] = (queueSettingsAt q.val m).1 := by
  unfold imageSettings
  dsimp only
  rw [Fin.getElem_fin, Vector.getElem_map, Vector.getElem_ofFn]

/-- R205: a code of two bits. -/
theorem ofNat_orElse {n hi d : Nat} [NeZero n] (h : hi < n) (hd : d ≤ hi) (x : Nat) :
    (Fin.ofNat n (orElse hi d x).1).val = if x ≤ hi then x else d := by
  rw [Fin.val_ofNat, Nat.mod_eq_of_lt (Nat.lt_of_le_of_lt (orElse_le hd x) h), orElse_eq]

theorem queueDepth_eq (q : Nat) : (queueSettingsAt q m).1.depth = (nearer 4 64 (byteAt (61 + 4 * q) m).toNat).1 := rfl

theorem queueLifetime_eq (q : Nat) : (queueSettingsAt q m).1.lifetimeMs =
    (nearer 10 2000 ((byteAt (62 + 4 * q) m).toNat * 256 + (byteAt (62 + 4 * q + 1) m).toNat)).1 := by
  rw [← fieldAt_two]
  rfl

theorem queuePriority_eq (q : Nat) : (queueSettingsAt q m).1.priority.val =
    if (byteAt (64 + 4 * q) m).toNat < 0 then 0 else if 3 < (byteAt (64 + 4 * q) m).toNat then 3 else (byteAt (64 + 4 * q) m).toNat := by
  show (Fin.ofNat 4 (orElse 3 3 (byteAt (64 + 4 * q) m).toNat).1).val = _
  rw [ofNat_orElse (by decide) (by decide)]
  repeat' split
  all_goals omega

theorem image_leads (t : Fin 3) : (imageSettings m).leads[t] = (byteAt 86 m).toNat.testBit t.val :=
  match t with
  | 0 => rfl
  | 1 => rfl
  | 2 => rfl

theorem vlan_count_eq : ((Vector.ofFn fun p : Fin 8 =>
      queueOr (queueOr 2 (byteAt 60 m).toNat).1 (bitsOf (byteAt (56 + p.val / 2) m).toNat (if p.val % 2 = 0 then 4 else 0) 4)).map
        (·.2)).toList.sum =
    ((List.finRange 8).map fun p => if vlanField m p = (imageSettings m).vlan[p].val + 1 then 0 else 1).sum := by
  rw [Vector.toList_map, Vector.toList_ofFn, ofFn_eq_finRange_map, List.map_map]
  refine congrArg List.sum (List.map_congr_left fun p _ => ?_)
  rw [image_vlan, Function.comp_apply, vlanField_eq, queueOr_count]
  rfl

theorem queue_count_eq : ((Vector.ofFn fun q : Fin 6 => queueSettingsAt q.val m).map (·.2)).toList.sum =
    ((List.finRange 6).map fun q =>
      (if (byteAt (61 + 4 * q.val) m).toNat = (imageSettings m).queues[q].depth then 0 else 1) +
      (if (byteAt (62 + 4 * q.val) m).toNat * 256 + (byteAt (62 + 4 * q.val + 1) m).toNat = (imageSettings m).queues[q].lifetimeMs
        then 0 else 1) +
      if (byteAt (64 + 4 * q.val) m).toNat = (imageSettings m).queues[q].priority.val then 0 else 1).sum := by
  rw [Vector.toList_map, Vector.toList_ofFn, ofFn_eq_finRange_map, List.map_map]
  refine congrArg List.sum (List.map_congr_left fun q _ => ?_)
  have hpriority : (queueSettingsAt q.val m).1.priority.val = (orElse 3 3 (byteAt (64 + 4 * q.val) m).toNat).1 :=
    Nat.mod_eq_of_lt (Nat.lt_succ_of_le (orElse_le (by decide) _))
  rw [image_queues, Function.comp_apply, hpriority, queueDepth_eq, queueLifetime_eq]
  show (nearer 4 64 _).2 + (nearer 10 2000 _).2 + (orElse 3 3 _).2 = _
  rw [nearer_count, nearer_count, orElse_count _ _ _ (by decide), fieldAt_two]

theorem holdPeriods_eq : (nearer 1 255 (byteAt 93 m).toNat).1 = if (byteAt 93 m).toNat = 0 then 1 else (byteAt 93 m).toNat := by
  have hb := (byteAt 93 m).isLt
  rw [nearer_eq]
  repeat' split
  all_goals omega

theorem own_count : (if (!(addrAt 22 m).isGroup && addrAt 22 m != 0#48) = true then 0 else 1) =
    if (imageSettings m).addrSource = .image then 0 else 1 :=
  ite_of_iff (ownAddr_iff.trans image_source_iff.symm) rfl rfl

theorem pairs_count : (if ((#v[pairBit m 0, pairBit m 1, pairBit m 2] : Vector Bool 3) == Vector.replicate 3 false) = true then 1 else 0) =
    if (imageSettings m).pairs.toList = (List.finRange 3).map (pairBit m) then 0 else 1 := by
  obtain ⟨-, -, hlist, htest⟩ := pairsOf_spec (pairBit m 0) (pairBit m 1) (pairBit m 2)
  have hbits : (List.finRange 3).map (pairBit m) = [pairBit m 0, pairBit m 1, pairBit m 2] := rfl
  rw [htest, image_pairs, hbits]
  simp only [decide_eq_true_eq, hlist]
  split <;> rfl

theorem tierOrder_eq : (imageSettings m).tierOrder.val = (orElse 5 0 (byteAt 85 m).toNat).1 :=
  Nat.mod_eq_of_lt (Nat.lt_succ_of_le (orElse_le (by decide) _))

/-! The readings that the fields of a valid image are. -/

theorem image_margin : (orElse 60 60 (byteAt 30 m).toNat).1 = (imageSettings m).margin := rfl

theorem image_defaultQueue : (queueOr 2 (byteAt 60 m).toNat).1 = (imageSettings m).defaultQueue := rfl

theorem image_noteMs : (nearer 250 5000 (fieldAt 87 2 m)).1 = (imageSettings m).noteMs := rfl

theorem image_soundMs : (nearer 50 2000 (fieldAt 89 2 m)).1 = (imageSettings m).soundMs := rfl

theorem image_rebuildS : (nearer 1 30 (byteAt 91 m).toNat).1 = (imageSettings m).rebuildS := rfl

theorem image_dutyPercent : (dutyOf (byteAt 92 m).toNat).1 = (imageSettings m).dutyPercent := rfl

theorem image_holdPeriods : (nearer 1 255 (byteAt 93 m).toNat).1 = (imageSettings m).holdPeriods := rfl

theorem image_deferralLimit : (nearer 1 15 (byteAt 94 m).toNat).1 = (imageSettings m).deferralLimit := rfl

theorem image_segmentRetry : (nearer 1 15 (byteAt 95 m).toNat).1 = (imageSettings m).segmentRetry := rfl

theorem image_partRetry : (nearer 1 15 (byteAt 96 m).toNat).1 = (imageSettings m).partRetry := rfl

/-- R205: the fields of a valid image that were replaced, counted. -/
theorem image_clamped (m : List Byte) : (imageSettings m).clamped = min 255
    ((if (!(addrAt 22 m).isGroup && addrAt 22 m != 0#48) = true then 0 else 1) +
      (if ((#v[pairBit m 0, pairBit m 1, pairBit m 2] : Vector Bool 3) == Vector.replicate 3 false) = true then 1 else 0) +
      (orElse 60 60 (byteAt 30 m).toNat).2 + (imageBands m).2 + (queueOr 2 (byteAt 60 m).toNat).2 +
      ((Vector.ofFn fun p : Fin 8 =>
        queueOr (queueOr 2 (byteAt 60 m).toNat).1 (bitsOf (byteAt (56 + p.val / 2) m).toNat (if p.val % 2 = 0 then 4 else 0) 4)).map
          (·.2)).toList.sum +
      ((Vector.ofFn fun q : Fin 6 => queueSettingsAt q.val m).map (·.2)).toList.sum + (orElse 5 0 (byteAt 85 m).toNat).2 +
      (nearer 250 5000 (fieldAt 87 2 m)).2 + (nearer 50 2000 (fieldAt 89 2 m)).2 + (nearer 1 30 (byteAt 91 m).toNat).2 +
      (dutyOf (byteAt 92 m).toNat).2 + (nearer 1 255 (byteAt 93 m).toNat).2 + (nearer 1 15 (byteAt 94 m).toNat).2 +
      (nearer 1 15 (byteAt 95 m).toNat).2 + (nearer 1 15 (byteAt 96 m).toNat).2) := rfl

theorem loadSettings_takenFrom (hm : 100 ≤ m.length) (h : imageValid m = true) : (loadSettings m).TakenFrom m := by
  have hload : loadSettings m = imageSettings m := if_pos h
  rw [hload]
  refine ⟨image_station_own, fun hown => ?_, rfl, rfl, image_pairs_spec, house_toNat, orElse_top 60 _, image_bands, queueOr_eq _ _,
    fun p => ?_, fun q => ⟨?_, ?_, ?_⟩, ofNat_orElse (by decide) (by decide) _, image_leads, ?_, ?_, nearer_eq _ _ _, dutyOf_eq _,
    holdPeriods_eq, nearer_eq _ _ _, nearer_eq _ _ _, nearer_eq _ _ _, rfl, ?_⟩
  · rw [(image_station_factory hown).1, (image_station_factory hown).2]
    exact factoryTaken hm
  · rw [image_vlan]
    exact queueOr_eq _ _
  · rw [image_queues]
    exact nearer_eq 4 64 _
  · rw [image_queues, queueLifetime_eq]
    exact nearer_eq 10 2000 _
  · rw [image_queues]
    exact queuePriority_eq _
  · exact (nearer_eq 250 5000 _).trans (by rw [fieldAt_two])
  · exact (nearer_eq 50 2000 _).trans (by rw [fieldAt_two])
  · refine (image_clamped m).trans ?_
    rw [imageBands_count, vlan_count_eq, queue_count_eq, ← Nat.add_assoc]
    refine congrArg (min 255) ?_
    rw [own_count, pairs_count, orElse_count _ _ _ (by decide), queueOr_count, orElse_count 5 _ _ (by decide), nearer_count, nearer_count,
      nearer_count, dutyOf_count, nearer_count, nearer_count, nearer_count, nearer_count, ← tierOrder_eq, image_margin, image_defaultQueue,
      image_noteMs, image_soundMs, image_rebuildS, image_dutyPercent, image_holdPeriods, image_deferralLimit, image_segmentRetry,
      image_partRetry, fieldAt_two, fieldAt_two]
    rfl

end

/-- Settles O57: load completion, the listening deadline and the image. -/
theorem startUpSequence : Obligations.StartUpSequence := by
  refine ⟨?_, ?_, fun m hm => ⟨imageValid_iff hm, loadSettings_takenFrom hm, loadSettings_defaulted hm⟩⟩
  · intro s m hl hr hs c
    rw [exec_loadCompletion hl hs]
    have hrest : (s.loaded m).Rested := rested_congr hr rfl rfl
    refine ⟨fun hu => nextInj ?_, fun hlocked => ?_⟩
    · exact settled_at_rest (loadEffect_unlocked m hu) hrest rfl rfl
    · intro entered
      obtain ⟨hbusy, hidle, hended⟩ := settled_enterRunning (loadEffect_locked m hlocked) hrest rfl rfl
      refine ⟨fun h => nextInj (hbusy h), fun h => nextInj (hidle h), _, rfl, fun h => ?_, hended⟩
      obtain ⟨_, _, _, _, hmac⟩ := begun_mac s.txCharge entered
      exact (congrArg (fun u : State => u.mac.periodStart) (hidle h)).trans (congrArg Mac.periodStart hmac)
  · intro s hl hr hs hd
    have hexec : exec .listeningDeadline s = .next (settled enterRunning s) :=
      live_due (b := State.listeningDue) hl (State.listeningDue_iff.2 ⟨hs, hd⟩)
    obtain ⟨hbusy, hidle, -⟩ := settled_enterRunning (f := enterRunning) (s := s) rfl hr rfl rfl
    rw [hexec]
    refine ⟨fun h => nextInj (hbusy h), fun h => nextInj (hidle h), fun h hw hc hq hu => ?_⟩
    rw [hidle h]
    refine next_at_rest hr ?_ rfl rfl rfl rfl
    have hfind : findCandidate { s with startUp := .running, mac := s.begunMac } =
        (none, { s with startUp := .running, mac := s.begunMac }) := findCandidate_nothing hc hq hu
    exact (beginPeriod_asks (s := { s with startUp := .running }) rfl hw).trans
      ((askCandidate_none hfind).trans (by simp only [State.begunMac, h]))

end Sys2Proof.Machine
end

/-! ## Proofs: the station's own RESP (O30), rebuild deadlines (O40) and the placement of SOUND entries (O37)

The trigger of one cause is said once, on a state whose entry keeps its cells; the two commands that give it differ in what they write
before. -/

section
namespace Sys2Proof.Machine

/-! ### Triggers of one cause on an entry with no old cell -/

section
variable {s : State} {i : EntryIx} {e : Entry} {a : Addr}

theorem triggerFor_none (c : Causes) (h : s.findEntry a = none) : triggerFor a c s = bump .ignoredTriggers s := by
  unfold triggerFor
  rw [h]

theorem triggerFor_some (c : Causes) (h : s.findEntry a = some i) : triggerFor a c s = trigger i c s := by
  unfold triggerFor
  rw [h]

theorem Causes.union_unknownGrid (c : Causes) : c.union Causes.ofUnknownGrid = { c with unknownGrid := true } := by
  simp [Causes.union, Causes.ofUnknownGrid, Causes.empty]

theorem Causes.union_interval (c : Causes) : c.union Causes.ofInterval = { c with interval := true } := by
  simp [Causes.union, Causes.ofInterval, Causes.empty]

/-- R81: a trigger for an entry that is STALE or REMOTE. -/
theorem trigger_absent (c : Causes) (he : s.entry i = some e) (ha : e.state = .stale ∨ e.state = .remote) :
    trigger i c s = bump .ignoredTriggers s := by
  have hp : s.present i = false := by
    unfold State.present
    rw [he]
    show e.state.present = false
    rcases ha with ha | ha <;> rw [ha] <;> rfl
  unfold trigger
  exact if_neg (by rw [hp]; exact Bool.false_ne_true)

end

/-! ### The RESP goes out (O30) -/

section
variable {s : State} {d : ResponderDuty} {b : RespBody} {i : EntryIx} {e : Entry}

theorem startResp_known (hd : s.mac.duty = some d) (hb : d.resp = some b) (h : b.status ≠ .gridUnknown) :
    startResp s = sendResp d b s := by
  unfold startResp
  rw [hd]
  dsimp only
  rw [hb]
  exact if_neg h

theorem startResp_unknown (hd : s.mac.duty = some d) (hb : d.resp = some b) (h : b.status = .gridUnknown) :
    startResp s = triggerFor d.transmitter Causes.ofUnknownGrid (sendResp d b s) := by
  unfold startResp
  rw [hd]
  dsimp only
  rw [hb]
  exact if_pos h

theorem exec_respStart (hl : s.Live) (hm : s.mac.state = .responding) (hs : s.line.sending = none) (hd : s.mac.duty = some d)
    (hb : d.resp = some b) (ht : s.lineTime = d.frameEnd.plus 60) : exec .respStart s = .next (settled startResp s) :=
  live_due (b := State.respDue) hl (State.respDue_iff.2 ⟨hm, hs, d, b, hd, hb, ht⟩)

theorem exec_respFrameEnd {f : TxFrame} (hl : s.Live) (hf : s.line.sending = some f) (hk : f.header.kind = .resp)
    (ht : s.lineTime = f.stop) : exec .respFrameEnd s = .next (settled endResp s) :=
  live_due (b := fun s => s.sentEndDue fun k => k == .resp) hl (State.sentEndDue_iff.2 ⟨f, hf, by rw [hk]; rfl, ht⟩)

/-- What the end of the RESP leaves before the period begins. -/
def State.respEnded (s : State) : State := { s with line := { s.line with sending := none }, mac := { s.mac with duty := none } }

end

/-- Settles O30: the start of the station's own RESP, its unknown-grid trigger, and its end. -/
theorem respStartsAndEnds : Obligations.RespStartsAndEnds := by
  refine ⟨?_, ?_⟩
  · intro s d b hl hr hm hs hd hb ht h sent unknownGrid
    have hsent : sendResp d b s = sent := rfl
    have hquiet : ∀ x : State, startResp s = x → x.table = s.table → x.queues = s.queues → x.port = s.port → x.evalDue = s.evalDue →
        exec .respStart s = .next x := fun x hx ht' hq hp he =>
      (exec_respStart hl hm hs hd hb ht).trans (next_at_rest hr hx he hp hq ht')
    refine ⟨fun hk => hquiet sent (startResp_known hd hb hk) rfl rfl rfl rfl, fun hk => ?_⟩
    have hstart := startResp_unknown hd hb hk
    rw [hsent] at hstart
    refine ⟨fun hn => hquiet _ (hstart.trans (triggerFor_none _ hn)) rfl rfl rfl rfl, fun i e hi he => ?_⟩
    have htrigger : startResp s = trigger i Causes.ofUnknownGrid sent := hstart.trans (triggerFor_some _ hi)
    intro answer
    refine ⟨fun ha => hquiet _ (htrigger.trans (trigger_absent _ he ha)) rfl rfl rfl rfl, fun hp hy => ?_⟩
    have hpresent : e.state.present = true := (present_iff _).2 hp
    have hone : ∀ (r : BuildRecord) (x : State), startResp s = x → x.table = s.table.set i (some { e with build := r }) →
        x.queues = s.queues → x.port = s.port → x.evalDue = s.evalDue → exec .respStart s = .next x := fun r x hx ht' hq hp' he' =>
      (exec_respStart hl hm hs hd hb ht).trans (nextInj (settled_one x { e with build := r } hr he hx rfl ht' hq hp' he'))
    refine ⟨fun hidle => ?_, fun start c x hbuild => ?_⟩
    · intro boost
      exact hone _ _ (htrigger.trans (trigger_idle (c := Causes.ofUnknownGrid) he hpresent hy rfl hidle)) rfl rfl rfl rfl
    · refine hone _ _ (htrigger.trans ?_) rfl rfl rfl rfl
      refine (trigger_building (s := sent) (c := Causes.ofUnknownGrid) he hpresent hy rfl hbuild).trans ?_
      cases e.build.remembered with
      | none => rfl
      | some y =>
        rw [Option.getD_some, Causes.union_unknownGrid]
        rfl
  · intro s f hl hr hf hk ht
    have hexec := exec_respFrameEnd hl hf hk ht
    have hended : Ended s.respEnded (settle s.txCharge (beginPeriod s.respEnded)) := (Ended.refl _).beginPeriod.settle _
    refine ⟨fun hup => ?_, ?_⟩
    · refine hexec.trans (next_at_rest hr (beginPeriod_waits (s := s.respEnded) (Or.inl hup)) rfl rfl rfl rfl)
    · obtain ⟨st, c, tw, hst, hmac⟩ := begun_mac s.txCharge s.respEnded
      refine ⟨_, hexec, ?_, ?_, ?_, hended.endedAs hr.1 (settle_eval _ _)⟩
      · exact congrArg Mac.duty hmac
      · exact congrArg Mac.periodStart hmac
      · rw [show settled endResp s = settle s.txCharge (beginPeriod s.respEnded) from rfl, hmac]
        exact hst

/-! ### Rebuild deadlines (O40) -/

section
variable {s : State} {i : EntryIx} {e : Entry}

theorem State.reached_entry {f : Entry → Option LineTime} (he : s.entry i = some e) (hd : f e = some s.lineTime) :
    s.reached ((s.entry i).bind f) = true :=
  State.reached_iff.2 (by rw [he]; exact hd)

/-- The part with the build record of entry `i` changed. -/
def State.rebuilt (s : State) (i : EntryIx) (e : Entry) (b : BuildRecord) : State :=
  { s with table := s.table.set i (some { e with build := b }) }

theorem modBuild_eq (f : BuildRecord → BuildRecord) (he : s.entry i = some e) : modBuild i f s = s.rebuilt i e (f e.build) := by
  unfold modBuild modEntry
  rw [he]
  rfl

theorem rebuilt_entry (b : BuildRecord) : (s.rebuilt i e b).entry i = some { e with build := b } := entry_setEntry_self i _ s

theorem rebuilt_rebuilt (x : Entry) (b : BuildRecord) :
    setEntry i (some x) (s.rebuilt i e b) = { s with table := s.table.set i (some x) } := by
  unfold setEntry State.rebuilt
  simp only [Vector.set_set]

theorem rebuildDue_triggers (he : s.entry i = some e) (hp : e.state.present = true)
    (h : s.roleSlot i .rxCurrent ≠ none ∨ (s.roleSlot i .rxPending = none ∧ hasEligible s.settings.pairs e.snr = true)) :
    rebuildDue i s = trigger i Causes.ofInterval (s.rebuilt i e { e.build with deadline := none }) := by
  unfold rebuildDue
  rw [he]
  dsimp only
  rw [modBuild_eq _ he]
  cases hc : s.roleSlot i .rxCurrent with
  | some k => simp [hp]
  | none =>
    obtain ⟨hn, helig⟩ := h.resolve_left (fun hk => hk hc)
    simp [hp, hn, helig]

theorem rebuildDue_armed (he : s.entry i = some e) (h : e.state.present = false ∨ s.roleSlot i .rxCurrent = none)
    (hg : s.roleSlot i .rxCurrent ≠ none ∨ s.roleSlot i .rxPending ≠ none) :
    rebuildDue i s = s.rebuilt i e { e.build with deadline := some (s.lineTime.plus (s.settings.rebuildS * 1000000)) } := by
  have hnot : (e.state.present && (s.roleSlot i .rxCurrent).isSome) = false := by
    rcases h with h | h <;> simp [h]
  have hsome : ((s.roleSlot i .rxCurrent).isSome || (s.roleSlot i .rxPending).isSome) = true := by
    simpa [Option.isSome_iff_ne_none] using hg
  unfold rebuildDue
  rw [he]
  dsimp only
  rw [hnot, hsome]
  exact (if_neg Bool.false_ne_true).trans ((if_pos rfl).trans (modBuild_eq _ he))

theorem rebuildDue_clears (he : s.entry i = some e) (h : e.state.present = false ∨ hasEligible s.settings.pairs e.snr = false)
    (hc : s.roleSlot i .rxCurrent = none) (hn : s.roleSlot i .rxPending = none) :
    rebuildDue i s = s.rebuilt i e { e.build with deadline := none } := by
  have hnot : (e.state.present && hasEligible s.settings.pairs e.snr) = false := by
    rcases h with h | h <;> simp [h]
  unfold rebuildDue
  rw [he]
  dsimp only
  rw [hc, hn, hnot, modBuild_eq _ he]
  simp

theorem exec_rebuildDeadline (hl : s.Live) (he : s.entry i = some e) (hd : e.build.deadline = some s.lineTime) :
    exec (.rebuildDeadline i) s = .next (settled (rebuildDue i) s) :=
  live_due (b := fun s => s.rebuildIsDue i) hl (State.reached_entry he hd)

theorem exec_rebuilt (b : BuildRecord) {x : State} (hl : s.Live) (hr : s.Rested) (he : s.entry i = some e)
    (hd : e.build.deadline = some s.lineTime) (hx : rebuildDue i s = x) (ht : x.table = s.table.set i (some { e with build := b }))
    (hq : x.queues = s.queues) (hp : x.port = s.port) (hv : x.evalDue = s.evalDue) : exec (.rebuildDeadline i) s = .next x :=
  (exec_rebuildDeadline hl he hd).trans (nextInj (settled_one x { e with build := b } hr he hx rfl ht hq hp hv))

end

/-- Settles O40: the rebuild deadline, case by case. -/
theorem rebuildDeadlineTable : Obligations.RebuildDeadlineTable := by
  intro s i e hl hr he hd answer present interval
  have habsent : ¬present → e.state.present = false := fun h => Bool.eq_false_iff.2 (fun hp => h ((present_iff _).1 hp))
  refine ⟨fun hp hg hy => ?_, fun hn hg => ?_, fun hn hc hpend => ?_⟩
  · have hpresent : e.state.present = true := (present_iff _).2 hp
    have htrigger := rebuildDue_triggers he hpresent hg
    have hcleared := rebuilt_entry (s := s) (i := i) (e := e) { e.build with deadline := none }
    refine ⟨fun hidle => ?_, fun start c x hbuild => ?_⟩
    · intro boost
      refine exec_rebuilt _ hl hr he hd (htrigger.trans ?_) rfl rfl rfl rfl
      refine (trigger_idle (c := Causes.ofInterval) hcleared hpresent hy rfl hidle).trans ?_
      dsimp only
      rw [rebuilt_rebuilt]
      rfl
    · intro remembered
      refine exec_rebuilt _ hl hr he hd (htrigger.trans ?_) rfl rfl rfl rfl
      refine (trigger_building (c := Causes.ofInterval) hcleared hpresent hy rfl hbuild).trans ?_
      rw [rebuilt_rebuilt]
      dsimp only [remembered]
      cases e.build.remembered with
      | none => rfl
      | some y =>
        rw [Option.getD_some, Causes.union_interval]
  · exact exec_rebuilt _ hl hr he hd (rebuildDue_armed he (hn.imp_left habsent) hg) rfl rfl rfl rfl
  · exact exec_rebuilt _ hl hr he hd (rebuildDue_clears he (hn.imp_left habsent) hc hpend) rfl rfl rfl rfl

/-! ### Placement of SOUND entries (O37) -/

section
variable {x : Estimator} {pairs : Vector Bool 3} {p : Pair}

theorem pairWanted_iff : ((List.finRange 6).any fun m => x.wants[p][m] != 0) = true ↔ ∃ m : MainsSlot, x.wants[p][m] ≠ 0 := by
  simp

theorem choosePair_wanted (h : (List.finRange 3).find? (fun p => (List.finRange 6).any fun m => x.wants[p][m] != 0) = some p) :
    x.choosePair pairs = { pair := p, byRotation := false } := by
  unfold Estimator.choosePair
  rw [h]

theorem choosePair_rotation (h : (List.finRange 3).find? (fun p => (List.finRange 6).any fun m => x.wants[p][m] != 0) = none) :
    x.choosePair pairs =
      { pair := (([0, 1, 2] : List (Fin 3)).map (x.rotation + ·)).find? (fun p => pairs[p]) |>.getD x.rotation, byRotation := true } := by
  unfold Estimator.choosePair
  rw [h]

/-- What is found first passes the test, and nothing before it does. -/
theorem finRange_find_spec {n : Nat} {p : Fin n → Bool} {i : Fin n} (h : (List.finRange n).find? p = some i) :
    p i = true ∧ ∀ j, j < i → p j = false := by
  obtain ⟨hp, k, hk, hki, hbefore⟩ := List.find?_eq_some_iff_getElem.1 h
  rw [List.getElem_finRange] at hki
  subst hki
  refine ⟨hp, fun j hj => ?_⟩
  have hlt : j.val < k := hj
  have hjk := hbefore j.val hlt
  rw [List.getElem_finRange] at hjk
  simpa using hjk

/-- The steps of the rotation reach every pair. -/
theorem pair_eq_step : ∀ r q : Pair, q = r + (q - r) := by decide

/-- R70: counting upward from a position meets an enabled pair first at the least step that leads to one. -/
theorem rotation_finds (r : Pair) (h : ∃ p : Pair, pairs[p] = true) :
    ∃ k : Pair, (([0, 1, 2] : List (Fin 3)).map (r + ·)).find? (fun p => pairs[p]) = some (r + k) ∧ pairs[r + k] = true ∧
      ∀ j : Pair, j < k → pairs[r + j] = false := by
  have hsteps : ([0, 1, 2] : List (Fin 3)) = List.finRange 3 := rfl
  rw [List.find?_map, hsteps]
  cases hf : (List.finRange 3).find? ((fun p => pairs[p]) ∘ (r + ·)) with
  | none =>
    obtain ⟨q, hq⟩ := h
    have hnone := List.find?_eq_none.1 hf (q - r) (List.mem_finRange _)
    rw [Function.comp_apply, ← pair_eq_step] at hnone
    exact absurd hq hnone
  | some k =>
    obtain ⟨hk, hbefore⟩ := finRange_find_spec hf
    exact ⟨k, rfl, hk, hbefore⟩

theorem choosePair_spec (h : ∃ p : Pair, pairs[p] = true) (c : PlacedSound) (hc : x.choosePair pairs = c) :
    (c.byRotation = false → (∃ m : MainsSlot, x.wants[c.pair][m] ≠ 0) ∧ ∀ p : Pair, p < c.pair → ∀ m : MainsSlot, x.wants[p][m] = 0) ∧
    (c.byRotation = true → pairs[c.pair] = true ∧ (∀ (p : Pair) (m : MainsSlot), x.wants[p][m] = 0) ∧
      ∃ k : Pair, c.pair = x.rotation + k ∧ ∀ j : Pair, j < k → pairs[x.rotation + j] = false) := by
  have hnone (p : Pair) (hp : ((List.finRange 6).any fun m => x.wants[p][m] != 0) = false) (m : MainsSlot) : x.wants[p][m] = 0 := by
    simpa using (List.any_eq_false.1 hp) m (List.mem_finRange m)
  cases hf : (List.finRange 3).find? (fun p => (List.finRange 6).any fun m => x.wants[p][m] != 0) with
  | some p =>
    rw [choosePair_wanted hf] at hc
    obtain ⟨hp, hbefore⟩ := finRange_find_spec hf
    subst hc
    exact ⟨fun _ => ⟨pairWanted_iff.1 hp, fun q hq => hnone q (hbefore q hq)⟩, nofun⟩
  | none =>
    obtain ⟨k, hk, hpair, hbefore⟩ := rotation_finds x.rotation h
    rw [choosePair_rotation hf, hk, Option.getD_some] at hc
    subst hc
    refine ⟨nofun, fun _ => ⟨hpair, fun p => hnone p ?_, k, rfl, hbefore⟩⟩
    exact Bool.eq_false_iff.2 (List.find?_eq_none.1 hf p (List.mem_finRange p))

end

section
variable {s : State} {p : Pair}

/-- The part once a SOUND entry has been placed. -/
def State.soundPlaced (s : State) : State :=
  let c := s.estimator.choosePair s.settings.pairs
  { s with control := s.control ++ [.sound c.pair], evalDue := true, estimator := { s.estimator with placed := some c, deadline := none } }

/-- The part once the list has refused a SOUND entry. -/
def State.soundRefused (s : State) : State :=
  bump .placedSoundRefusal { s with
    estimator := { s.estimator with deadline := some (s.lineTime.plus (s.settings.soundMs * 1000)) } }

theorem clashes_sound (x : ControlEntry) : x.clashes (.sound p) = x.isSound := by
  cases x <;> rfl

theorem controlTakes_sound (hlen : s.control.length < 16) (hs : ∀ x ∈ s.control, x.isSound = false) :
    s.controlTakes (.sound p) = true := by
  have hfree : (s.control.any fun x => x.clashes (.sound p)) = false :=
    List.any_eq_false.2 fun x hx => by rw [clashes_sound, hs x hx]; exact Bool.false_ne_true
  unfold State.controlTakes
  rw [hfree, decide_eq_true hlen]
  rfl

theorem controlTakes_full {c : ControlEntry} (hlen : 16 ≤ s.control.length) : s.controlTakes c = false := by
  unfold State.controlTakes
  rw [decide_eq_false (Nat.not_lt.2 hlen)]
  rfl

theorem placementAttempt_taken (hlen : s.control.length < 16) (hs : ∀ x ∈ s.control, x.isSound = false) :
    placementAttempt s = s.soundPlaced :=
  if_pos (controlTakes_sound hlen hs)

theorem placementAttempt_refused (hlen : 16 ≤ s.control.length) : placementAttempt s = s.soundRefused :=
  if_neg (by rw [controlTakes_full hlen]; exact Bool.false_ne_true)

theorem intervalPath_placed (h : s.estimator.placed ≠ none) :
    intervalPath s = { s with estimator := { s.estimator with deadline := none } } :=
  if_pos (Option.isSome_iff_ne_none.2 h)

theorem intervalPath_free (h : s.estimator.placed = none) : intervalPath s = placementAttempt s :=
  if_neg (by rw [h]; exact Bool.false_ne_true)

theorem wantPoint_placed (h : s.estimator.placed ≠ none) (hd : s.estimator.deadline ≠ some s.lineTime) :
    wantPoint s = taken .sound20msPoint s :=
  (if_pos (Option.isSome_iff_ne_none.2 h)).trans (if_neg fun hr => hd (State.reached_iff.1 hr))

theorem wantPoint_free (h : s.estimator.placed = none) : wantPoint s = placementAttempt (taken .sound20msPoint s) :=
  if_neg (by rw [show (taken .sound20msPoint s).estimator.placed = none from h]; exact Bool.false_ne_true)

theorem exec_soundDeadline (hl : s.Live) (hd : s.estimator.deadline = some s.lineTime) :
    exec .soundDeadline s = .next (settled intervalPath s) :=
  live_due (b := fun s => s.reached s.estimator.deadline) hl (State.reached_iff.2 hd)

theorem exec_sound20msPoint {l : LineTime} (hl : s.Live) (hlast : s.estimator.lastSound = some l) (ht : s.lineTime = l.plus 20000)
    (hw : s.estimator.anyWant = true) : exec .sound20msPoint s = .next (settled wantPoint s) := by
  have hat : s.at20ms = true := by
    unfold State.at20ms
    rw [hlast]
    exact beq_iff_eq.2 ht
  exact live_due (b := State.wantPointDue) hl (by unfold State.wantPointDue; rw [hat, hw]; rfl)

/-- R69: last sound is none or at least 20,000 µs back. -/
theorem soundRested_iff : s.soundRested = true ↔ ∀ l, s.estimator.lastSound = some l → 20000 ≤ l.dist s.lineTime := by
  unfold State.soundRested
  cases s.estimator.lastSound <;> simp

theorem wantAttempt_passed (h : s.estimator.placed ≠ none ∨ s.soundRested = false) : wantAttempt s = s := by
  refine if_neg fun hc => ?_
  rw [Bool.and_eq_true, Option.isNone_iff_eq_none] at hc
  rcases h with h | h
  · exact h hc.1
  · exact Bool.false_ne_true (h.symm.trans hc.2)

theorem wantAttempt_attempts (h : s.estimator.placed = none) (hr : s.soundRested = true) : wantAttempt s = placementAttempt s :=
  if_pos (by rw [h, hr]; rfl)

/-- R71: a placed entry that becomes eligible by a request is told to the unit. -/
theorem wantsRaised_eq (o : Option MainsSlot) (q : SoundRequest) :
    let raised := bump .soundRequests { s with estimator := { s.estimator with wants := raiseWants o q s.estimator.wants } }
    (raised.soundEligible = true → s.soundEligible = false → wantsRaised o q s = { raised with evalDue := true }) ∧
    (raised.soundEligible = false ∨ s.soundEligible = true → wantsRaised o q s = raised) := by
  intro raised
  refine ⟨fun h1 h2 => if_pos ?_, fun h => if_neg ?_⟩
  · rw [Bool.and_eq_true, Bool.not_eq_true']
    exact ⟨h1, h2⟩
  · rw [Bool.and_eq_true, Bool.not_eq_true']
    rcases h with h | h
    · exact fun hc => Bool.false_ne_true (h.symm.trans hc.1)
    · exact fun hc => Bool.false_ne_true (hc.2.symm.trans h)

end

/-- Settles O37: the pair of a placement attempt, its instants, and a received request. -/
theorem soundPlacement : Obligations.SoundPlacement := by
  refine ⟨fun x pairs h => choosePair_spec h _ rfl, ?_, ?_, ?_⟩
  · intro s hl hr c placed refused noSound
    refine ⟨fun hd => ?_, fun l hlast ht hw => ?_⟩
    · have hexec := exec_soundDeadline hl hd
      refine ⟨fun hp => hexec.trans (next_at_rest hr (intervalPath_placed hp) rfl rfl rfl rfl),
        fun hp hlen hs => hexec.trans (nextInj (congrArg (settle s.txCharge) ?_)),
        fun hp hlen => hexec.trans (next_at_rest hr ?_ rfl rfl rfl rfl)⟩
      · exact (intervalPath_free hp).trans (placementAttempt_taken hlen hs)
      · exact (intervalPath_free hp).trans (placementAttempt_refused hlen)
    · have hexec := exec_sound20msPoint hl hlast ht hw
      refine ⟨fun hp hd => hexec.trans (next_at_rest hr (wantPoint_placed hp hd) rfl rfl rfl rfl),
        fun hp hlen hs => hexec.trans (nextInj (congrArg (settle s.txCharge) ?_)),
        fun hp hlen => hexec.trans (next_at_rest hr ?_ rfl rfl rfl rfl)⟩
      · exact (wantPoint_free hp).trans (placementAttempt_taken (s := taken .sound20msPoint s) hlen hs)
      · exact (wantPoint_free hp).trans (placementAttempt_refused (s := taken .sound20msPoint s) hlen)
  · intro s c rested
    refine ⟨fun h => wantAttempt_passed (h.imp_right fun hn => Bool.eq_false_iff.2 fun hc => hn (soundRested_iff.1 hc)),
      fun hp hrested => ?_⟩
    rw [wantAttempt_attempts hp (soundRested_iff.2 hrested)]
    exact ⟨fun hlen hs => placementAttempt_taken hlen hs, fun hlen => placementAttempt_refused hlen⟩
  · intro s o q wants raised eligible
    have hafter : raised.soundEligible = true ↔ eligible wants := State.soundEligible_iff
    have hbefore : s.soundEligible = true ↔ eligible s.estimator.wants := State.soundEligible_iff
    obtain ⟨htold, hnot⟩ := wantsRaised_eq (s := s) o q
    refine ⟨fun h1 h2 => congrArg wantAttempt (htold (hafter.2 h1) (Bool.eq_false_iff.2 fun h => h2 (hbefore.1 h))),
      fun h => congrArg wantAttempt (hnot ?_)⟩
    exact h.imp (fun h => Bool.eq_false_iff.2 fun hc => h (hafter.1 hc)) hbefore.2

end Sys2Proof.Machine
end

/-! ## Proofs: the choice of a route, its stability, and route recomputation (O46, O47)

The choice is said once as an equation per case, over the best via that the search finds; that a route formed again is the same follows from
these equations alone. -/

section
namespace Sys2Proof.Machine

/-! ### The choice, case by case -/

section
variable {table : Vector (Option Entry) 24} {rates : EntryIx → Nat} {d p q : EntryIx} {e : Entry} {r rq : Nat}

theorem beats_iff {a b : Nat} : beats a b = true ↔ 20 * b < 16 * a := decide_eq_true_iff

/-- R137: the via of an entry that has a valid one: another only if it is better by more than a quarter. -/
def keptVia (p : EntryIx) (r : Nat) (q : EntryIx) (rq : Nat) : EntryIx × Nat :=
  if q ≠ p ∧ 20 * r < 16 * rq then (q, rq) else (p, r)

theorem chooseRoute_kept (hb : bestVia table rates d = some (q, rq)) (hr : e.route = .via p) (hv : viaRate table rates p d = some r) :
    chooseRoute table rates d e =
      if e.state.present = true ∧ (keptVia p r q rq).2 ≤ rates d then .direct else .via (keptVia p r q rq).1 := by
  unfold chooseRoute keptVia
  simp only [hb, hr, hv, Option.map_some, beats_iff, Bool.and_eq_true, decide_eq_true_eq, ge_iff_le]

theorem chooseRoute_lost (hb : bestVia table rates d = some (q, rq)) (hr : e.route = .via p) (hv : viaRate table rates p d = none) :
    chooseRoute table rates d e = if e.state.present = true ∧ rq ≤ rates d then .direct else .via q := by
  unfold chooseRoute
  simp only [hb, hr, hv, Option.map_none]
  cases hp : e.state.present <;> simp

theorem chooseRoute_free (hb : bestVia table rates d = some (q, rq)) (hr : e.route = .direct ∨ e.route = .noRoute)
    (hp : e.state.present = true) : chooseRoute table rates d e = if 20 * rates d < 16 * rq then .via q else .direct := by
  unfold chooseRoute
  rcases hr with hr | hr <;> simp only [hb, hr, hp, beats_iff, if_true]

theorem chooseRoute_absent_via (hb : bestVia table rates d = some (q, rq)) (hr : e.route = .direct ∨ e.route = .noRoute)
    (hp : e.state.present = false) : chooseRoute table rates d e = .via q := by
  unfold chooseRoute
  rcases hr with hr | hr <;> simp only [hb, hr, hp, Bool.false_eq_true, if_false]

theorem chooseRoute_none (hb : bestVia table rates d = none) :
    chooseRoute table rates d e = if e.state.present = true then .direct else .noRoute := by
  have hnone (p : EntryIx) : viaRate table rates p d = none :=
    Option.eq_none_iff_forall_ne_some.2 fun r hr => bestVia_none.1 hb p r (viaRate_iff.1 hr)
  unfold chooseRoute
  simp only [hb]
  cases e.route <;> simp [hnone]

end

/-! ### Formed again, the route is the same -/

section
variable {table : Vector (Option Entry) 24} {rates : EntryIx → Nat} {d p q : EntryIx} {e : Entry} {r rq : Nat}

theorem again_direct (hb : bestVia table rates d = some (q, rq)) (hp : e.state.present = true) (hle : 16 * rq ≤ 20 * rates d) :
    chooseRoute table rates d { e with route := .direct } = .direct := by
  rw [chooseRoute_free (e := { e with route := .direct }) hb (Or.inl rfl) hp]
  exact if_neg (by omega)

theorem again_best (hb : bestVia table rates d = some (q, rq)) (hn : ¬(e.state.present = true ∧ rq ≤ rates d)) :
    chooseRoute table rates d { e with route := .via q } = .via q := by
  have hkept : keptVia q rq q rq = (q, rq) := if_neg fun h => h.1 rfl
  rw [chooseRoute_kept hb rfl (viaRate_iff.2 (bestVia_some.1 hb).1), hkept]
  exact if_neg hn

theorem again_kept (hb : bestVia table rates d = some (q, rq)) (hr : e.route = .via p) (hv : viaRate table rates p d = some r) :
    chooseRoute table rates d { e with route := chooseRoute table rates d e } = chooseRoute table rates d e := by
  have hchosen := chooseRoute_kept hb hr hv
  by_cases hbetter : q ≠ p ∧ 20 * r < 16 * rq
  · rw [show keptVia p r q rq = (q, rq) from if_pos hbetter] at hchosen
    rw [hchosen]
    split
    next h => exact again_direct hb h.1 (by have := h.2; omega)
    next h => exact again_best hb h
  · rw [show keptVia p r q rq = (p, r) from if_neg hbetter] at hchosen
    rw [hchosen]
    split
    next h =>
      refine again_direct hb h.1 ?_
      by_cases hqp : q = p
      · have hrates : r = rq := Option.some.inj (hv.symm.trans (hqp ▸ viaRate_iff.2 (bestVia_some.1 hb).1))
        have := h.2
        omega
      · have := h.2
        have : ¬20 * r < 16 * rq := fun hlt => hbetter ⟨hqp, hlt⟩
        omega
    next h =>
      rw [chooseRoute_kept hb rfl hv, show keptVia p r q rq = (p, r) from if_neg hbetter]
      exact if_neg h

theorem chooseRoute_again : chooseRoute table rates d { e with route := chooseRoute table rates d e } = chooseRoute table rates d e := by
  cases hb : bestVia table rates d with
  | none => rw [chooseRoute_none hb, chooseRoute_none hb]
  | some best =>
    obtain ⟨q, rq⟩ := best
    have hfree (hr : e.route = .direct ∨ e.route = .noRoute) :
        chooseRoute table rates d { e with route := chooseRoute table rates d e } = chooseRoute table rates d e := by
      cases hp : e.state.present with
      | true =>
        rw [chooseRoute_free hb hr hp]
        split
        next h => exact again_best hb fun hc => by have := hc.2; omega
        next h => exact again_direct hb hp (by omega)
      | false =>
        rw [chooseRoute_absent_via hb hr hp]
        exact again_best hb fun hc => Bool.false_ne_true (hp.symm.trans hc.1)
    cases hr : e.route with
    | direct => exact hfree (Or.inl hr)
    | noRoute => exact hfree (Or.inr hr)
    | via p =>
      cases hv : viaRate table rates p d with
      | some r => exact again_kept hb hr hv
      | none =>
        rw [chooseRoute_lost hb hr hv]
        split
        next h => exact again_direct hb h.1 (by have := h.2; omega)
        next h => exact again_best hb h

/-- The table `table'` differs from `table` in routes and direct rates alone. -/
def SameVias (table table' : Vector (Option Entry) 24) : Prop :=
  ∀ i : EntryIx, (table'[i]).map Entry.unrouted = (table[i]).map Entry.unrouted

theorem SameVias.entry {table' : Vector (Option Entry) 24} (h : SameVias table table') {i : EntryIx} (he : table[i] = some e) :
    ∃ x, table'[i] = some x ∧ x.unrouted = e.unrouted := by
  have hi := h i
  rw [he] at hi
  exact Option.map_eq_some_iff.1 hi

theorem SameVias.valid {table' : Vector (Option Entry) 24} (h : SameVias table table') (hv : ViaValid table rates p d r) :
    ViaValid table' rates p d r := by
  obtain ⟨hne, hrate, pe, de, items, x, hp, hd, hstate, hrelay, hreach, hfind, hr⟩ := hv
  obtain ⟨pe', hp', hpe⟩ := h.entry hp
  obtain ⟨de', hd', hde⟩ := h.entry hd
  have hstate' : pe'.state = pe.state := (congrArg Entry.state hpe :)
  have hrelay' : pe'.relay = pe.relay := (congrArg Entry.relay hpe :)
  have hreach' : pe'.reach = pe.reach := (congrArg Entry.reach hpe :)
  have haddr' : de'.addr = de.addr := (congrArg Entry.addr hde :)
  exact ⟨hne, hrate, pe', de', items, x, hp', hd', hstate' ▸ hstate, hrelay'.trans hrelay, hreach'.trans hreach, haddr' ▸ hfind, hr⟩

theorem SameVias.symm {table' : Vector (Option Entry) 24} (h : SameVias table table') : SameVias table' table := fun i => (h i).symm

theorem SameVias.valid_iff {table' : Vector (Option Entry) 24} (h : SameVias table table') :
    ViaValid table' rates p d r ↔ ViaValid table rates p d r := ⟨h.symm.valid, h.valid⟩

theorem SameVias.viaRate {table' : Vector (Option Entry) 24} (h : SameVias table table') :
    viaRate table' rates p d = viaRate table rates p d :=
  Option.ext fun _ => by rw [viaRate_iff, viaRate_iff, h.valid_iff]

theorem SameVias.bestVia {table' : Vector (Option Entry) 24} (h : SameVias table table') :
    bestVia table' rates d = bestVia table rates d := by
  unfold Machine.bestVia
  simp only [h.viaRate]

theorem SameVias.chooseRoute {table' : Vector (Option Entry) 24} (h : SameVias table table') :
    chooseRoute table' rates d e = chooseRoute table rates d e := by
  unfold Machine.chooseRoute
  simp only [h.viaRate, h.bestVia]

/-- A table with one entry's route written. -/
theorem sameVias_set (he : table[d] = some e) (route : Route) : SameVias table (table.set d (some { e with route := route })) := fun i => by
  by_cases hi : i = d
  · subst hi
    rw [he]
    simp [Entry.unrouted]
  · rw [Fin.getElem_fin, Vector.getElem_set_ne _ _ fun h => hi (Fin.ext h).symm]
    rfl

end

/-- Settles O46: the choice of a route, case by case, and its stability. -/
theorem routeChoiceIsStable : Obligations.RouteChoiceIsStable := by
  intro table rates d e he present valid best chosen
  have hif {a b : Route} {k : Prop} [Decidable k] : (if e.state.present = true ∧ k then a else b) = if present ∧ k then a else b :=
    ite_of_iff (and_congr_left' (present_iff _)) rfl rfl
  refine ⟨fun q rq hb hp hr => ?_, fun p r q rq hb hr hv => ?_, fun p q rq hb hr hv => ?_, fun q rq hb hp hr => ?_, fun hn => ?_, ?_⟩
  · exact chooseRoute_free (bestVia_some.2 hb) hr ((present_iff _).2 hp)
  · exact (chooseRoute_kept (bestVia_some.2 hb) hr (viaRate_iff.2 hv)).trans hif
  · refine (chooseRoute_lost (bestVia_some.2 hb) hr ?_).trans hif
    exact Option.eq_none_iff_forall_ne_some.2 fun r h => hv r (viaRate_iff.1 h)
  · exact chooseRoute_absent_via (bestVia_some.2 hb) hr (Bool.eq_false_iff.2 fun h => hp ((present_iff _).1 h))
  · exact (chooseRoute_none (bestVia_none.2 hn)).trans (ite_of_iff (present_iff _) rfl rfl)
  · exact (sameVias_set he chosen).chooseRoute.trans chooseRoute_again

/-! ### Route recomputation (O47) -/

section
variable {s : State} {d p : EntryIx} {e : Entry}

theorem directRate_eq (he : s.entry d = some e) :
    s.directRate d = if (e.state = .heard ∨ e.state = .linked) ∧ e.hold = none then
      ((s.roleGrid d .txActive).map (·.rate)).getD 6000 else 0 := by
  unfold State.directRate
  rw [he]
  dsimp only
  refine ite_of_iff ?_ ?_ rfl
  · rw [Bool.and_eq_true, present_iff, Option.isNone_iff_eq_none]
  · cases s.roleGrid d .txActive <;> rfl

theorem recompute_sameVias (s : State) : SameVias s.table (recompute s).table := fun i => by
  have h := recompute_entry s i
  unfold State.rerouted at h
  rw [show (recompute s).table[i] = _ from h, Option.map_map]
  rfl

/-- What a route chosen says of the entry and of its valid vias. -/
theorem chooseRoute_sound (table : Vector (Option Entry) 24) (rates : EntryIx → Nat) (d : EntryIx) (e : Entry) :
    (chooseRoute table rates d e = .direct → e.state.present = true) ∧
    (∀ p, chooseRoute table rates d e = .via p → ∃ r, ViaValid table rates p d r) ∧
    (chooseRoute table rates d e = .noRoute → e.state.present = false ∧ ∀ p r, ¬ViaValid table rates p d r) := by
  refine ⟨fun h => ?_, fun p h => ?_, fun h => ?_⟩
  · cases hp : e.state.present with
    | true => rfl
    | false => exact absurd h (chooseRoute_absent _ _ _ _ hp)
  · cases hb : bestVia table rates d with
    | none =>
      rw [chooseRoute_none hb] at h
      split at h <;> cases h
    | some best =>
      obtain ⟨q, rq⟩ := best
      have hbest : ∃ r, ViaValid table rates q d r := ⟨rq, (bestVia_some.1 hb).1⟩
      have hfree (hr : e.route = .direct ∨ e.route = .noRoute) : q = p := by
        cases hp : e.state.present with
        | true =>
          rw [chooseRoute_free hb hr hp] at h
          split at h
          · exact Route.via.inj h
          · cases h
        | false => exact Route.via.inj ((chooseRoute_absent_via hb hr hp).symm.trans h)
      cases hr : e.route with
      | direct => exact hfree (Or.inl hr) ▸ hbest
      | noRoute => exact hfree (Or.inr hr) ▸ hbest
      | via p' =>
        cases hv : viaRate table rates p' d with
        | none =>
          rw [chooseRoute_lost hb hr hv] at h
          split at h
          · cases h
          · exact Route.via.inj h ▸ hbest
        | some r =>
          rw [chooseRoute_kept hb hr hv] at h
          split at h
          · cases h
          · have hvia := Route.via.inj h
            unfold keptVia at hvia
            split at hvia
            · exact hvia ▸ hbest
            · exact hvia ▸ ⟨r, viaRate_iff.1 hv⟩
  · have hp : e.state.present = false := Bool.eq_false_iff.2 fun hp => chooseRoute_present table rates d hp h
    refine ⟨hp, bestVia_none.1 ?_⟩
    cases hb : bestVia table rates d with
    | none => rfl
    | some best =>
      obtain ⟨q, rq⟩ := best
      exfalso
      cases hr : e.route with
      | direct => exact Route.noConfusion ((chooseRoute_absent_via hb (Or.inl hr) hp).symm.trans h)
      | noRoute => exact Route.noConfusion ((chooseRoute_absent_via hb (Or.inr hr) hp).symm.trans h)
      | via p' =>
        cases hv : viaRate table rates p' d with
        | none =>
          rw [chooseRoute_lost hb hr hv] at h
          split at h <;> cases h
        | some r =>
          rw [chooseRoute_kept hb hr hv] at h
          split at h <;> cases h

/-- R138: a table written in place of the present one, its changed routes counted. -/
def State.recounted (s : State) (table : Vector (Option Entry) 24) : State :=
  let changed := (List.finRange 24).countP fun i => (table[i]).map (·.route) != (s.entry i).map (·.route)
  let s' := bumpBy .routeChanges changed { s with table := table }
  if changed = 0 then s' else markEval s'

theorem recompute_recounted (s : State) : recompute s = s.recounted (Vector.ofFn s.rerouted) := rfl

theorem recompute_table (s : State) : (recompute s).table = Vector.ofFn s.rerouted := by
  rw [recompute_eq]

/-- A mark that stands beside a count. -/
theorem markEval_bumpBy (c : Counter) (n : Nat) (s : State) : markEval (bumpBy c n s) = bumpBy c n { s with evalDue := true } := by
  induction n generalizing s with
  | zero => rfl
  | succ n ih => exact ih (bump c s)

theorem recounted_eq (s : State) (table : Vector (Option Entry) 24) :
    let changed := (List.finRange 24).filter fun d => decide ((table[d]).map (·.route) ≠ (s.entry d).map (·.route))
    s.recounted table = bumpBy .routeChanges changed.length { s with table := table, evalDue := s.evalDue || decide (changed ≠ []) } := by
  intro changed
  have hcount : ((List.finRange 24).countP fun i => (table[i]).map (·.route) != (s.entry i).map (·.route)) = changed.length :=
    List.countP_eq_length_filter.trans (congrArg List.length (List.filter_congr fun i _ => Bool.eq_iff_iff.2 (bne_iff_ne.trans decide_eq_true_iff.symm)))
  unfold State.recounted
  dsimp only
  rw [hcount]
  by_cases h : changed = []
  · rw [h]
    exact (if_pos rfl).trans (by simp)
  · rw [if_neg (mt List.eq_nil_of_length_eq_zero h), markEval_bumpBy]
    simp [h]

theorem recompute_counted (s : State) :
    let changed := (List.finRange 24).filter fun d => decide (((recompute s).entry d).map (·.route) ≠ (s.entry d).map (·.route))
    recompute s = bumpBy .routeChanges changed.length
      { s with table := (recompute s).table, evalDue := s.evalDue || decide (changed ≠ []) } :=
  ((recompute_recounted s).trans (congrArg s.recounted (recompute_table s).symm)).trans (recounted_eq s _)

end

/-- Settles O47: what a route recomputation leaves, and that every route so formed is valid. -/
theorem recomputedRoutesAreValid : Obligations.RecomputedRoutesAreValid := by
  intro s t changed
  have hentry (d : EntryIx) : t.entry d = s.rerouted d := recompute_entry s d
  refine ⟨fun d hd => ?_, fun d e he => ⟨directRate_eq he, ?_⟩, fun d e he => ?_, recompute_counted s⟩
  · rw [hentry]
    unfold State.rerouted
    rw [hd]
    rfl
  · rw [hentry]
    unfold State.rerouted
    rw [he]
    rfl
  · rw [hentry] at he
    obtain ⟨x, hx, rfl⟩ := Option.map_eq_some_iff.1 he
    obtain ⟨hdirect, hvia, hnone⟩ := chooseRoute_sound s.table s.directRate d x
    have hvalid {p : EntryIx} {r : Nat} : ViaValid t.table s.directRate p d r ↔ ViaValid s.table s.directRate p d r :=
      (recompute_sameVias s).valid_iff
    refine ⟨fun h => (present_iff _).1 (hdirect h), fun p h => (hvia p h).imp fun r => hvalid.2, fun h => ?_⟩
    obtain ⟨hp, hno⟩ := hnone h
    refine ⟨fun hs => ?_, fun hs => ?_, fun p r hv => hno p r (hvalid.1 hv)⟩
    · exact Bool.false_ne_true (hp.symm.trans ((present_iff _).2 (Or.inl hs)))
    · exact Bool.false_ne_true (hp.symm.trans ((present_iff _).2 (Or.inr hs)))

end Sys2Proof.Machine
end

/-! ## Proofs: the host transmitter and its pauses (O52), and the expiry of host frames and map entries (O48) -/

section
namespace Sys2Proof.Machine

/-! ### The choice of the host transmitter (R188) -/

section
variable {s t : State} {q : BitVec 16}

theorem chooseTx_busy (h : s.port.sending ≠ none) : chooseTx s = s := if_pos (Option.isSome_iff_ne_none.2 h)

theorem chooseTx_free (h : s.port.sending = none) : chooseTx s =
    match s.port.pausePending with
    | some q => modPort (fun p => { p with sending := some (.pause q), pausePending := none }) s
    | none =>
      if s.port.hold.isSome then s
      else if s.port.response.isSome then modPort (fun p => { p with sending := some .response }) s
      else if s.port.delivery.isEmpty || !s.port.requests.isEmpty then s
      else modPort (fun p => { p with sending := some .delivered }) s := by
  unfold chooseTx
  rw [h]
  rfl

theorem chooseTx_pause (h : s.port.sending = none) (hp : s.port.pausePending = some q) :
    chooseTx s = { s with port := { s.port with sending := some (.pause q), pausePending := none } } := by
  rw [chooseTx_free h, hp]
  rfl

theorem chooseTx_held (h : s.port.sending = none) (hp : s.port.pausePending = none) (hh : s.port.hold ≠ none) : chooseTx s = s := by
  rw [chooseTx_free h, hp]
  exact if_pos (Option.isSome_iff_ne_none.2 hh)

theorem chooseTx_unheld (h : s.port.sending = none) (hp : s.port.pausePending = none) (hh : s.port.hold = none) :
    chooseTx s =
      if s.port.response.isSome then modPort (fun p => { p with sending := some .response }) s
      else if s.port.delivery.isEmpty || !s.port.requests.isEmpty then s
      else modPort (fun p => { p with sending := some .delivered }) s := by
  rw [chooseTx_free h, hp]
  exact if_neg (by rw [hh]; exact Bool.false_ne_true)

theorem chooseTx_response (h : s.port.sending = none) (hp : s.port.pausePending = none) (hh : s.port.hold = none)
    (hr : s.port.response ≠ none) : chooseTx s = { s with port := { s.port with sending := some .response } } :=
  (chooseTx_unheld h hp hh).trans (if_pos (Option.isSome_iff_ne_none.2 hr))

theorem chooseTx_waits (h : s.port.sending = none) (hp : s.port.pausePending = none) (hh : s.port.hold = none)
    (hr : s.port.response = none) (hw : s.port.delivery = [] ∨ s.port.requests ≠ []) : chooseTx s = s := by
  rw [chooseTx_unheld h hp hh, hr]
  refine (if_neg Bool.false_ne_true).trans (if_pos ?_)
  simpa using hw

theorem chooseTx_delivered (h : s.port.sending = none) (hp : s.port.pausePending = none) (hh : s.port.hold = none)
    (hr : s.port.response = none) (hd : s.port.delivery ≠ []) (hq : s.port.requests = []) :
    chooseTx s = { s with port := { s.port with sending := some .delivered } } := by
  rw [chooseTx_unheld h hp hh, hr]
  refine (if_neg Bool.false_ne_true).trans (if_neg ?_)
  simp [hd, hq]

/-- At rest a free transmitter has no pause to send. -/
theorem pausePending_at_rest (hr : s.Rested) (h : s.port.sending = none) : s.port.pausePending = none := by
  rcases hr.2 with hs | hs
  · rw [h] at hs
    cases hs
  · exact hs.1

/-- A command that changes the port alone ends with the choice of the transmitter. -/
theorem settled_port_eq {f : State → State} (hr : s.Rested) (hf : f s = t) (he : t.evalDue = s.evalDue) (hq : t.queues = s.queues)
    (ht : t.table = s.table) : settled f s = chooseTx t := by
  subst hf
  exact settled_port (he.trans hr.1) hq ht

end

/-! ### The pause test (R189) -/

section
variable {s : State} {before : Nat}

theorem settle_not_due (he : s.evalDue = false) : settle before s = chooseTx (pauseTestAfter before s) := by
  unfold settle
  rw [evaluateIfDue_of_not_due he]

theorem settle_due (he : s.evalDue = true) : settle before s = settle before { evaluate { s with evalDue := false } with evalDue := false } := by
  have hraised : evaluateIfDue s = { evaluate { s with evalDue := false } with evalDue := false } := if_pos he
  unfold settle
  rw [hraised, evaluateIfDue_of_not_due rfl]

theorem pauseTestAfter_same (h : s.settings.pauseEnable = false ∨ s.txCharge = before) : pauseTestAfter before s = s := by
  unfold pauseTestAfter pauseTest
  rcases h with h | h
  · rw [h]
    exact ite_self s
  · exact if_pos h

theorem pauseTestAfter_off (hpe : s.settings.pauseEnable = true) (hne : s.txCharge ≠ before) (hoff : s.port.pauseOn = false) :
    pauseTestAfter before s = if 163840 < s.txCharge then pauseTurnsOn s else s := by
  unfold pauseTestAfter pauseTest
  rw [if_neg hne, hpe, hoff]
  rfl

theorem pauseTestAfter_on (hpe : s.settings.pauseEnable = true) (hne : s.txCharge ≠ before) (hon : s.port.pauseOn = true) :
    pauseTestAfter before s = if s.txCharge < 131072 then pauseTurnsOff s else s := by
  unfold pauseTestAfter pauseTest
  rw [if_neg hne, hpe, hon]
  rfl

/-- A pause made pending is taken at once by a free transmitter. -/
theorem chooseTx_pausing (p : Port) (q : BitVec 16) (hp : p.sending = s.port.sending) (hq : p.pausePending = some q) :
    chooseTx { s with port := p } = { s with port := { p with
      pausePending := if s.port.sending = none then none else some q
      sending := if s.port.sending = none then some (.pause q) else s.port.sending } } := by
  by_cases h : s.port.sending = none
  · rw [chooseTx_pause (hp.trans h) hq, if_pos h, if_pos h]
  · rw [chooseTx_busy (s := { s with port := p }) (fun hn => h (hp.symm.trans hn)), if_neg h, if_neg h, ← hp, ← hq]

end

/-- Settles O52: the end of the host hold, the pause refresh, and what ends a command. -/
theorem portTimers : Obligations.PortTimers := by
  refine ⟨?_, ?_, fun s before he => settle_due he, ?_⟩
  · intro s hl hr hh answer
    have hexec : exec .hostHoldEnd s = .next (chooseTx (endHold s)) :=
      (live_due (b := fun s => s.reached s.port.hold) hl (State.reached_iff.2 hh)).trans
        (nextInj (settled_port_eq (f := endHold) hr rfl rfl rfl rfl))
    refine ⟨fun h => ?_, fun h hresp => ?_, fun h hresp hd hq => ?_, fun h hresp hq => ?_, fun h hresp hd => ?_⟩
    · exact hexec.trans (nextInj (chooseTx_busy (s := endHold s) h))
    · exact hexec.trans (nextInj (chooseTx_response (s := endHold s) h (pausePending_at_rest (s := s) hr h) rfl hresp))
    · exact hexec.trans (nextInj (chooseTx_delivered (s := endHold s) h (pausePending_at_rest (s := s) hr h) rfl hresp hd hq))
    · refine hexec.trans (nextInj ((chooseTx_waits (s := endHold s) h (pausePending_at_rest (s := s) hr h) rfl hresp (Or.inr hq)).trans ?_))
      rw [← h]
      rfl
    · refine hexec.trans (nextInj ((chooseTx_waits (s := endHold s) h (pausePending_at_rest (s := s) hr h) rfl hresp (Or.inl hd)).trans ?_))
      rw [← h]
      rfl
  · intro s hl hr hon hrefresh next
    have hfilled : refreshPause s = { s with port := { s.port with refresh := next, pausePending := some 0xFFFF#16 } } := by
      have hnext : s.port.refresh.map (fun d => d.plus 10000) = next := by
        rw [hrefresh]
        rfl
      exact congrArg (fun r => { s with port := { s.port with refresh := r, pausePending := some 0xFFFF#16 } }) hnext
    have hdue : (s.port.pauseOn && s.reached s.port.refresh) = true := by
      rw [hon, State.reached_iff.2 hrefresh]
      rfl
    have hexec : exec .pauseRefresh s = .next (chooseTx { s with port := { s.port with refresh := next, pausePending := some 0xFFFF#16 } }) :=
      (live_due (b := fun s => s.port.pauseOn && s.reached s.port.refresh) hl hdue).trans
        (nextInj (settled_port_eq (f := refreshPause) hr hfilled rfl rfl rfl))
    refine ⟨fun h => hexec.trans (nextInj (chooseTx_busy h)), fun h => hexec.trans (nextInj ?_)⟩
    refine (chooseTx_pause (s := { s with port := { s.port with refresh := next, pausePending := some 0xFFFF#16 } }) h rfl).trans ?_
    rw [← pausePending_at_rest hr h]
  · intro s before he paused on off unchanged
    have hsettle : settle before s = chooseTx (pauseTestAfter before s) := settle_not_due he
    have hkept (h : pauseTestAfter before s = s) : unchanged := fun hr => by
      rw [hsettle, h]
      exact chooseTx_of_rested hr
    have hchanged {x : State} (h : pauseTestAfter before s = x) : settle before s = chooseTx x := hsettle.trans (congrArg chooseTx h)
    refine ⟨fun h => hkept (pauseTestAfter_same h), fun hpe hne => ⟨fun hoff => ⟨fun h => ?_, fun h => hkept ?_⟩,
      fun hon => ⟨fun h => ?_, fun h => hkept ?_⟩⟩⟩
    · exact (hchanged ((pauseTestAfter_off hpe hne hoff).trans (if_pos h))).trans (chooseTx_pausing _ _ rfl rfl)
    · exact (pauseTestAfter_off hpe hne hoff).trans (if_neg (Nat.not_lt.2 h))
    · exact (hchanged ((pauseTestAfter_on hpe hne hon).trans (if_pos h))).trans (chooseTx_pausing _ _ rfl rfl)
    · exact (pauseTestAfter_on hpe hne hon).trans (if_neg (Nat.not_lt.2 h))

/-! ### Expiries (O48) -/

section
variable {s : State} {id : Nat} {f : HostFrame} {q : QueueIx} {i : EntryIx} {e : Entry}

/-- R156: the queue of a frame whose expiry is now, the only one of its identity. -/
theorem expiringQueue_some (hid : f.id = id) (hx : f.expiry = s.lineTime) (hf : f ∈ s.queues[q])
    (hother : ∀ (k : QueueIx) (g : HostFrame), k ≠ q → g ∈ s.queues[k] → g.id ≠ id) : s.expiringQueue id = some q := by
  refine finRange_find_only (List.any_eq_true.2 ⟨f, hf, by simp [hid, hx]⟩) fun k hk => ?_
  exact List.any_eq_false.2 fun g hg => by simp [hother k g hk hg]

theorem expiringQueue_none (h : ∀ (k : QueueIx) (g : HostFrame), g ∈ s.queues[k] → g.id ≠ id) : s.expiringQueue id = none := by
  refine List.find?_eq_none.2 fun k _ => ?_
  rw [Bool.not_eq_true]
  exact List.any_eq_false.2 fun g hg => by simp [h k g hg]

/-- R156: the entry of a NUMBERED frame whose expiry is now, the only one of its identity. -/
theorem expiringEntry_some (hid : f.id = id) (hx : f.expiry = s.lineTime) (he : s.entry i = some e)
    (hf : ∃ x ∈ e.tx.numbered, x.frame = f)
    (hother : ∀ (k : EntryIx) (e' : Entry) (x : NumberedFrame), k ≠ i → s.entry k = some e' → x ∈ e'.tx.numbered → x.frame.id ≠ id) :
    s.expiringEntry id = some i := by
  obtain ⟨x, hmem, rfl⟩ := hf
  refine finRange_find_only ?_ fun k hk => ?_
  · rw [he]
    exact List.any_eq_true.2 ⟨x, hmem, by simp [hid, hx]⟩
  · cases hek : s.entry k with
    | none => rfl
    | some e' => exact List.any_eq_false.2 fun y hy => by simp [hother k e' y hk hek hy]

theorem expireFrame_queued (hq : s.expiringQueue id = some q) :
    expireFrame id s = bump .queueExpiry { s with queues := s.queues.set q (s.queues[q].filter fun g => g.id != id), evalDue := true } := by
  unfold expireFrame
  rw [hq]
  rfl

theorem expireFrame_numbered (hq : s.expiringQueue id = none) (hi : s.expiringEntry id = some i) :
    expireFrame id s = bump .numberedExpiry (modTx i (fun t => t.dropFrame id) s) := by
  unfold expireFrame
  rw [hq]
  dsimp only
  rw [hi]

/-- A change of an entry's transmit side writes the entry, and marks an evaluation where it gives room or marks a segment. -/
theorem modTx_ended (f : TxState → TxState) (he : s.entry i = some e) :
    Ended { s with table := s.table.set i (some { e with tx := f e.tx }) } (modTx i f s) := by
  unfold modTx
  rw [he]
  dsimp only
  split <;> rfl

end

/-- Settles O48: the expiry of a host frame and the aging of a map entry. -/
theorem frameAndMapExpiry : Obligations.FrameAndMapExpiry := by
  refine ⟨fun s id f hl hr hid hx => ⟨fun q hf hother => ?_, fun i e he hf hqueues hother => ?_⟩, fun s i m hl hm ht => ?_⟩
  · have hexec : exec (.frameExpiry id) s = .next (settled (expireFrame id) s) := whenLive_of_live hl _
    exact hexec.trans (nextInj (congrArg (settle s.txCharge) (expireFrame_queued (expiringQueue_some hid hx hf hother))))
  · have hexec : exec (.frameExpiry id) s = .next (settled (expireFrame id) s) := whenLive_of_live hl _
    have hdone := expireFrame_numbered (expiringQueue_none hqueues) (expiringEntry_some hid hx he hf hother)
    refine ⟨_, hexec, ?_, ?_⟩
    · unfold settled
      rw [cnt_settle (by decide) (by decide), hdone, cnt_self]
      exact congrArg satInc (congrArg (fun c => ({ s with counters := c } : State).count .numberedExpiry) (modTx_counters i _ s))
    · have hended := ((modTx_ended (TxState.dropFrame · id) he).bump .numberedExpiry).settle s.txCharge
      rw [← hdone] at hended
      exact hended.endedAs hr.1 (settle_eval _ _)
  · exact live_due (b := fun s => s.mapDue i) hl (State.mapDue_iff.2 ⟨m, hm, ht⟩)

end Sys2Proof.Machine
end

/-! ## Proofs: the end of a transmission to the host, and the frame that the port presents (O53) -/

section
namespace Sys2Proof.Machine

/-! ### The end of a transmission (R188) -/

section
variable {s : State} {x : HostSending} {p : Port} {c : Counter} {q : BitVec 16}

theorem txDone_pause (h : s.port.sending = some (.pause q)) :
    txDone s = bump .pauseSent { s with port := { s.port with sending := none } } := by
  unfold txDone
  rw [h]
  rfl

theorem txDone_response (h : s.port.sending = some .response) :
    txDone s = bump .responsesSent { s with port := { s.port with response := none, sending := none } } := by
  unfold txDone
  rw [h]
  rfl

theorem txDone_delivered (h : s.port.sending = some .delivered) :
    txDone s = bump .framesSentToHost { s with port := { s.port with delivery := s.port.delivery.tail, sending := none } } := by
  unfold txDone
  rw [h]
  rfl

theorem exec_hostTxDone (strap : Bool) (hl : s.Live) (h : s.port.sending = some x) :
    exec (.hostTxDone strap) s = .next (hostTxEnd strap s) :=
  live_due (b := fun s => s.port.sending.isSome) hl (by rw [h]; rfl)

/-- The port without the frame that it sent, counted: the transmitter goes on from there. -/
theorem exec_hostTxDone_left (strap : Bool) (hl : s.Live) (hr : s.Rested) (h : s.port.sending = some x) (hn : s.restartSent = false)
    (hd : txDone s = bump c { s with port := { p with sending := none } }) :
    exec (.hostTxDone strap) s = .next (chooseTx (bump c { s with port := { p with sending := none } })) := by
  have hend : hostTxEnd strap s = settled txDone s := if_neg (by rw [hn]; exact Bool.false_ne_true)
  rw [exec_hostTxDone strap hl h, hend]
  exact nextInj (settled_port_eq (f := txDone) hr hd rfl rfl rfl)

/-- R188: how the transmitter goes on from the port `p` that is left. -/
theorem chooseTx_left (c : Counter) (p : Port) :
    let answer := fun (p : Port) => bump c { s with port := p }
    let free := answer { p with sending := none }
    (∀ q, p.pausePending = some q → chooseTx free = answer { p with sending := some (.pause q), pausePending := none }) ∧
    (p.pausePending = none → p.hold ≠ none → chooseTx free = free) ∧
    (p.pausePending = none → p.hold = none → p.response ≠ none → chooseTx free = answer { p with sending := some .response }) ∧
    (p.pausePending = none → p.hold = none → p.response = none → p.delivery ≠ [] → p.requests = [] →
      chooseTx free = answer { p with sending := some .delivered }) ∧
    (p.pausePending = none → p.hold = none → p.response = none → p.requests ≠ [] → chooseTx free = free) ∧
    (p.pausePending = none → p.hold = none → p.response = none → p.delivery = [] → chooseTx free = free) := by
  intro answer free
  have hfree : free.port.sending = none := rfl
  exact ⟨fun q hp => chooseTx_pause hfree hp, fun hp hh => chooseTx_held hfree hp hh, fun hp hh hr => chooseTx_response hfree hp hh hr,
    fun hp hh hr hd hq => chooseTx_delivered hfree hp hh hr hd hq, fun hp hh hr hq => chooseTx_waits hfree hp hh hr (Or.inr hq),
    fun hp hh hr hd => chooseTx_waits hfree hp hh hr (Or.inl hd)⟩

/-- R196, R207, R208: the response to a RESTART request, sent, performs a RESTART reset. -/
theorem exec_hostTxDone_restart {r : Response} (strap : Bool) (hl : s.Live) (h : s.port.sending = some .response)
    (hresp : s.port.response = some r) (hr : r.restarts = true) :
    exec (.hostTxDone strap) s = .next { State.reset with
      counters := (bump .responsesSent s).counters
      restart := { s.restart with cause := .restart, restarts := sat16 s.restart.restarts }
      port := Port.reset (if strap then .rgmii else .rmii)
      pending := s.pending
      draws := s.draws } := by
  have hsent : s.restartSent = true := by
    unfold State.restartSent
    rw [h, hresp, Option.map_some, hr]
    rfl
  have hend : hostTxEnd strap s = finishReset .restart strap (txDone s) := if_pos hsent
  rw [exec_hostTxDone strap hl h, hend, txDone_response h]
  rfl

end

/-! ### The frame that the port presents (R210) -/

section
variable {dst src : Addr} {type : Nat} {data : List Byte}

/-- R210: an untagged frame of the port before it is filled. -/
def ethBody (dst src : Addr) (type : Nat) (data : List Byte) : List Byte := addrBytes dst ++ (addrBytes src ++ (beBytes 2 type ++ data))

theorem ethBody_length : (ethBody dst src type data).length = 14 + data.length := by
  simp [ethBody, addrBytes]
  omega

/-- The frame filled with zeros to 60 bytes, before its check sequence. -/
def ethFilled (dst src : Addr) (type : Nat) (data : List Byte) : List Byte :=
  ethBody dst src type data ++ List.replicate (60 - (14 + data.length)) 0#8

theorem ethFilled_length : (ethFilled dst src type data).length = max 60 (14 + data.length) := by
  unfold ethFilled
  rw [List.length_append, ethBody_length, List.length_replicate]
  omega

theorem ethFrame_eq : ethFrame dst src type data = ethFilled dst src type data ++ fcsBytes (ethFilled dst src type data) := by
  have hbody : addrBytes dst ++ addrBytes src ++ beBytes 2 type ++ data = ethBody dst src type data := by
    simp only [ethBody, List.append_assoc]
  unfold ethFrame
  dsimp only
  rw [hbody, ethBody_length]
  rfl

theorem fcsBytes_length (b : List Byte) : (fcsBytes b).length = 4 := rfl

theorem fcsMatches_appended (b : List Byte) : fcsMatches (b ++ fcsBytes b) = true := by
  have hlen : (b ++ fcsBytes b).length - 4 = b.length := by
    rw [List.length_append, fcsBytes_length, Nat.add_sub_cancel]
  unfold fcsMatches
  rw [hlen, List.drop_left, List.take_left]
  exact beq_self_eq_true _

/-- R188, R210: the parts of a frame of the port's own. -/
theorem ethFrame_spec :
    let b := ethFrame dst src type data
    Carries b 0 6 dst.toNat ∧ Carries b 6 6 src.toNat ∧ Carries b 12 2 type ∧ (b.drop 14).take data.length = data ∧
      b.length = max 64 (18 + data.length) ∧ (∀ k, 14 + data.length ≤ k → k + 4 < b.length → byteAt k b = 0#8) ∧
      fcsMatches b = true := by
  intro b
  have hb : b = ethFilled dst src type data ++ fcsBytes (ethFilled dst src type data) := ethFrame_eq
  have hlen : b.length = max 64 (18 + data.length) := by
    rw [hb, List.length_append, ethFilled_length, fcsBytes_length]
    omega
  have hparts : b = addrBytes dst ++ (addrBytes src ++ (beBytes 2 type ++ (data ++
      (List.replicate (60 - (14 + data.length)) 0#8 ++ fcsBytes (ethFilled dst src type data))))) := by
    rw [hb]
    simp only [ethFilled, ethBody, List.append_assoc]
  refine ⟨?_, ?_, ?_, ?_, hlen, fun k hk hend => ?_, ?_⟩
  · rw [hparts]
    exact carries_here
  · rw [hparts]
    exact (carries_be (Nat.le_refl _)).2 carries_here
  · rw [hparts]
    exact (carries_be (by omega)).2 ((carries_be (Nat.le_refl _)).2 carries_here)
  · have hdrop : b.drop 14 = data ++ (List.replicate (60 - (14 + data.length)) 0#8 ++ fcsBytes (ethFilled dst src type data)) := by
      rw [hparts, ← List.append_assoc, ← List.append_assoc]
      exact List.drop_left' (by simp [addrBytes])
    rw [hdrop]
    exact List.take_left
  · have hin : k < (ethFilled dst src type data).length := by
      rw [ethFilled_length]
      omega
    unfold byteAt
    rw [hb, List.getD_eq_getElem?_getD, List.getElem?_append_left hin]
    unfold ethFilled
    rw [List.getElem?_append_right (by rw [ethBody_length]; exact hk), List.getElem?_replicate]
    split <;> rfl
  · rw [hb]
    exact fcsMatches_appended _

/-- R210: the data of a response. -/
theorem responseData_spec (r : Response) :
    let data := responseData r
    Carries data 0 2 r.tag.toNat ∧ Carries data 2 1 r.kind.toNat ∧ Carries data 4 2 r.content.length ∧ data.drop 6 = r.content ∧
      (r.status = .ok → Carries data 3 1 0) ∧ (r.status = .unknown → Carries data 3 1 1) ∧
      (r.status = .noEntry → Carries data 3 1 2) ∧ (r.status = .noGrid → Carries data 3 1 3) := by
  intro data
  have hshape (n : Nat) (h : data = beBytes 2 r.tag.toNat ++ [r.kind] ++ beBytes 1 n ++ beBytes 2 r.content.length ++ r.content) :
      Carries data 0 2 r.tag.toNat ∧ Carries data 2 1 r.kind.toNat ∧ Carries data 4 2 r.content.length ∧ data.drop 6 = r.content ∧
        Carries data 3 1 n := by
    rw [h]
    simp only [List.append_assoc, List.singleton_append]
    refine ⟨carries_here, (carries_be (by omega)).2 carries_byte, (carries_be (by omega)).2 (carries_cons.2 ((carries_be (by omega)).2 carries_here)),
      rfl, (carries_be (by omega)).2 (carries_cons.2 carries_here)⟩
  cases hst : r.status with
  | ok =>
    obtain ⟨h1, h2, h3, h4, h5⟩ := hshape 0 (by simp only [data, responseData, hst])
    exact ⟨h1, h2, h3, h4, fun _ => h5, nofun, nofun, nofun⟩
  | unknown =>
    obtain ⟨h1, h2, h3, h4, h5⟩ := hshape 1 (by simp only [data, responseData, hst])
    exact ⟨h1, h2, h3, h4, nofun, fun _ => h5, nofun, nofun⟩
  | noEntry =>
    obtain ⟨h1, h2, h3, h4, h5⟩ := hshape 2 (by simp only [data, responseData, hst])
    exact ⟨h1, h2, h3, h4, nofun, nofun, fun _ => h5, nofun⟩
  | noGrid =>
    obtain ⟨h1, h2, h3, h4, h5⟩ := hshape 3 (by simp only [data, responseData, hst])
    exact ⟨h1, h2, h3, h4, nofun, nofun, nofun, fun _ => h5⟩

end

/-- Settles O53: the end of a transmission to the host, a RESTART, and the frame presented. -/
theorem hostTransmissionEnds : Obligations.HostTransmissionEnds := by
  refine ⟨?_, ?_, ?_⟩
  · intro s strap x hl hr hx hn left counter answer
    have hdone : txDone s = bump counter { s with port := { left with sending := none } } := by
      cases x with
      | pause q => exact txDone_pause hx
      | response => exact txDone_response hx
      | delivered => exact txDone_delivered hx
    have hpause : left.pausePending = s.port.pausePending := by cases x <;> rfl
    have hhold : left.hold = s.port.hold := by cases x <;> rfl
    have hreq : left.requests = s.port.requests := by cases x <;> rfl
    have hexec := exec_hostTxDone_left strap hl hr hx hn hdone
    have hgo {t : State} (h : chooseTx (bump counter { s with port := { left with sending := none } }) = t) :
        exec (.hostTxDone strap) s = .next t := hexec.trans (nextInj h)
    obtain ⟨h1, h2, h3, h4, h5, h6⟩ := chooseTx_left (s := s) counter left
    exact ⟨fun q hq => hgo (h1 q (hpause.trans hq)), fun hp hh => hgo (h2 (hpause.trans hp) (hhold ▸ hh)),
      fun hp hh hres => hgo (h3 (hpause.trans hp) (hhold.trans hh) hres),
      fun hp hh hres hd hq => hgo (h4 (hpause.trans hp) (hhold.trans hh) hres hd (hreq.trans hq)),
      fun hp hh hres hq => hgo (h5 (hpause.trans hp) (hhold.trans hh) hres (hreq ▸ hq)),
      fun hp hh hres hd => hgo (h6 (hpause.trans hp) (hhold.trans hh) hres hd)⟩
  · intro s strap r hl hx hresp hr restarted
    have hexec := exec_hostTxDone_restart strap hl hx hresp hr
    refine ⟨fun hlt => ?_, fun heq => ?_⟩
    · rw [hexec, show sat16 s.restart.restarts = s.restart.restarts + 1 from if_pos hlt]
    · rw [hexec, show sat16 s.restart.restarts = 65535 from if_neg (by omega)]
  · intro s frame
    refine ⟨fun h => ?_, fun q h => ⟨_, ?_, ethFrame_spec⟩, fun r h hr => ⟨_, responseData r, ?_, ethFrame_spec, responseData_spec r⟩,
      fun d rest h hd => ?_⟩
    · unfold State.hostOutput
      rw [h]
    · unfold State.hostOutput
      rw [h]
      rfl
    · unfold State.hostOutput
      rw [h, hr]
      rfl
    · unfold State.hostOutput
      rw [h, hd]
      rfl

end Sys2Proof.Machine
end

/-! ## Proofs: the services of STATUS and COUNTERS requests, their contents, and ATTN (O54)

A report is a run of parts of known lengths; a field is found by the number of its part. -/

section
namespace Sys2Proof.Machine

/-! ### Fields of a report in parts -/

section
variable {parts : List (List Byte)} {lens : List Nat} {i a n v : Nat} {P : List Byte}

theorem split_at_part (hi : parts[i]? = some P) : parts.flatten = (parts.take i).flatten ++ (P ++ (parts.drop (i + 1)).flatten) := by
  obtain ⟨hlt, hP⟩ := List.getElem?_eq_some_iff.1 hi
  rw [← List.flatten_cons, ← List.flatten_append, ← hP, ← List.drop_eq_getElem_cons hlt, List.take_append_drop]

/-- A field of part `i` is a field of the report, behind the parts before it. -/
theorem carries_within (hl : parts.map List.length = lens) (hi : parts[i]? = some P) (h : a + n ≤ P.length) (w : Carries P a n v) :
    Carries parts.flatten ((lens.take i).sum + a) n v := by
  have hbefore : (parts.take i).flatten.length = (lens.take i).sum := by
    rw [List.length_flatten, ← hl, List.map_take]
  rw [split_at_part hi, carries_skip (by omega), hbefore, Nat.add_sub_cancel_left]
  exact carries_left h w

/-- A part that is a field is a field of the report. -/
theorem carries_part (hl : parts.map List.length = lens) (i : Nat) (hi : parts[i]? = some (beBytes n v)) (ha : (lens.take i).sum = a) :
    Carries parts.flatten a n v := by
  have h := carries_within (a := 0) hl hi (Nat.le_of_eq (by rw [beBytes_length, Nat.zero_add])) carries_end
  rw [Nat.add_zero, ha] at h
  exact h

theorem report_length (hl : parts.map List.length = lens) : parts.flatten.length = lens.sum := by
  rw [List.length_flatten, hl]

end

theorem byte_eq_field (n : Nat) : [BitVec.ofNat 8 n] = beBytes 1 n := by
  simp [beBytes]

/-- A list of numbers, a byte each. -/
theorem carries_mapped {α : Type} {f : α → Nat} {l : List α} {i : Nat} {x : α} (hx : l[i]? = some x) :
    Carries (l.map fun y => BitVec.ofNat 8 (f y)) i 1 (f x) := by
  have hsplit : (l.map fun y => BitVec.ofNat 8 (f y))[i]? = some (BitVec.ofNat 8 (f x)) := by rw [List.getElem?_map, hx]; rfl
  obtain ⟨hlt, hget⟩ := List.getElem?_eq_some_iff.1 hsplit
  unfold Carries
  rw [List.drop_eq_getElem_cons hlt, hget, ← byte_eq_field]
  rfl

theorem flag_weight (b : Bool) (n : Nat) : n * b.toNat = if b then n else 0 := by
  cases b <;> simp

theorem vector_getElem? {α : Type} {n : Nat} (v : Vector α n) (i : Fin n) : v.toList[i.val]? = some v[i] := by
  rw [List.getElem?_eq_getElem (by simp)]
  exact congrArg some (Vector.getElem_toList _)

/-! ### The STATUS report (R192) -/

/-- The parts of a STATUS report, in order. -/
def statusParts (s : State) : List (List Byte) :=
  [timeBytes s.lineTime, beBytes 1 s.startUp.code, beBytes 1 (s.tracker.state.code + 4 * s.trusted.toNat), beBytes 2 (s.tracker.h.getD 0),
    beBytes 1 s.thermal.limited.toNat, beBytes 1 s.thermal.holdCount, beBytes 1 s.freeSlots,
    s.estimator.wants.toList.flatMap fun w => w.toList.map fun n => BitVec.ofNat 8 n,
    beBytes 1 ((s.estimator.placed.map fun x => x.pair.val).getD 3), beBytes 4 s.txCharge, beBytes 2 s.rxCharge,
    s.queues.toList.map fun q => BitVec.ofNat 8 q.length, beBytes 1 s.control.length, beBytes 1 (s.control.countP ControlEntry.isPart),
    beBytes 1 s.holdsCandidate.toNat, beBytes 1 (s.port.pauseOn.toNat + 2 * s.port.hold.isSome.toNat), beBytes 1 s.port.requests.length,
    beBytes 1 s.restart.cause.code, beBytes 2 s.restart.restarts, beBytes 2 s.restart.counterClears, [s.attention.toByte]]

/-- The lengths of these parts. -/
def statusLengths : List Nat := [4, 1, 1, 2, 1, 1, 1, 18, 1, 4, 2, 6, 1, 1, 1, 1, 1, 1, 2, 2, 1]

section
variable (s : State)

theorem statusContent_eq : statusContent s = (statusParts s).flatten := by
  unfold statusParts statusContent
  simp only [List.flatten_cons, List.flatten_nil, List.append_nil, List.append_assoc]

theorem wantsBytes_length (w : Vector (Vector Nat 6) 3) :
    (w.toList.flatMap fun r => r.toList.map fun n => BitVec.ofNat 8 n).length = 18 := by
  have hrow (r : Vector Nat 6) : (r.toList.map fun n => BitVec.ofNat 8 n).length = 6 := by
    rw [List.length_map, Vector.length_toList]
  refine (flatMap_length _ 6 hrow _).trans ?_
  rw [Vector.length_toList]

theorem statusParts_lengths : (statusParts s).map List.length = statusLengths := by
  simp only [statusParts, statusLengths, List.map_cons, List.map_nil, timeBytes, beBytes_length, wantsBytes_length, List.length_map,
    Vector.length_toList, List.length_singleton]

theorem statusContent_length : (statusContent s).length = 53 := by
  rw [statusContent_eq]
  exact report_length (statusParts_lengths s)

theorem status_carries {i n v a : Nat} (hi : (statusParts s)[i]? = some (beBytes n v)) (ha : (statusLengths.take i).sum = a) :
    Carries (statusContent s) a n v := by
  rw [statusContent_eq]
  exact carries_part (statusParts_lengths s) i hi ha

theorem status_wants (p : Pair) (m : MainsSlot) : Carries (statusContent s) (11 + 6 * p.val + m.val) 1 s.estimator.wants[p][m] := by
  have hfield := carries_flat (fun w : Vector Nat 6 => w.toList.map fun n => BitVec.ofNat 8 n) 6 (fun w => by simp)
    s.estimator.wants.toList [] p.val s.estimator.wants[p] (vector_getElem? _ p) m.val 1 s.estimator.wants[p][m] (by omega)
    (carries_mapped (f := fun n => n) (vector_getElem? _ m))
  rw [List.append_nil] at hfield
  have hwithin := carries_within (i := 7) (statusParts_lengths s) rfl (by rw [wantsBytes_length]; omega) hfield
  rw [statusContent_eq, Nat.add_assoc]
  exact hwithin

theorem status_queue (q : QueueIx) : Carries (statusContent s) (36 + q.val) 1 (s.queues[q]).length := by
  have hfield := carries_mapped (f := List.length) (vector_getElem? s.queues q)
  rw [statusContent_eq]
  refine carries_within (i := 11) (statusParts_lengths s) rfl ?_ hfield
  rw [List.length_map, Vector.length_toList]
  exact q.isLt

theorem controlParts_count : s.control.countP ControlEntry.isPart = s.control.countP fun c => c != .note && !c.isSound :=
  List.countP_congr fun c _ => by cases c <;> simp [ControlEntry.isPart, ControlEntry.isSound]

theorem flags_value (a : Attention) : a.toByte = BitVec.ofNat 8 ((if a.configDefault then 1 else 0) + (if a.trackerUntrusted then 2 else 0) +
    (if a.poolExhausted then 4 else 0) + (if a.thermalLimited then 8 else 0) + (if a.tableFull then 16 else 0) +
    (if a.relayDrop then 32 else 0)) := by
  unfold Attention.toByte
  rw [toNat_eq_if a.configDefault]
  simp only [flag_weight]

/-- R192, R210: the STATUS report, field by field. -/
theorem status_reported :
    let is := Carries (statusContent s)
    let bit := fun (b : Bool) (n : Nat) => if b then n else 0
    is 0 4 s.lineTime.toNat ∧ (s.startUp = .listening → is 4 1 1) ∧ (s.startUp = .running → is 4 1 2) ∧
    is 5 1 (s.tracker.state.code + bit s.trusted 4) ∧
    is 6 2 (s.tracker.h.getD 0) ∧ is 8 1 (bit s.thermal.limited 1) ∧ is 9 1 s.thermal.holdCount ∧
    is 10 1 ((List.finRange 48).countP fun k => s.pool[k].isNone) ∧
    (∀ (p : Pair) (m : MainsSlot), is (11 + 6 * p.val + m.val) 1 s.estimator.wants[p][m]) ∧
    (s.estimator.placed = none → is 29 1 3) ∧ (∀ x, s.estimator.placed = some x → is 29 1 x.pair.val) ∧
    is 30 4 s.txCharge ∧ is 34 2 s.rxCharge ∧ (∀ q : QueueIx, is (36 + q.val) 1 (s.queues[q]).length) ∧
    is 42 1 s.control.length ∧ is 43 1 (s.control.countP fun c => c != .note && !c.isSound) ∧ is 44 1 (bit s.holdsCandidate 1) ∧
    is 45 1 (bit s.port.pauseOn 1 + bit s.port.hold.isSome 2) ∧ is 46 1 s.port.requests.length ∧
    (s.restart.cause = .power → is 47 1 0) ∧ (s.restart.cause = .pin → is 47 1 1) ∧ (s.restart.cause = .restart → is 47 1 2) ∧
    is 48 2 s.restart.restarts ∧ is 50 2 s.restart.counterClears ∧
    is 52 1 (bit s.attention.configDefault 1 + bit s.attention.trackerUntrusted 2 + bit s.attention.poolExhausted 4 +
      bit s.attention.thermalLimited 8 + bit s.attention.tableFull 16 + bit s.attention.relayDrop 32) := by
  intro is bit
  have hstart : is 4 1 s.startUp.code := status_carries s (i := 1) rfl rfl
  have hplaced : is 29 1 ((s.estimator.placed.map fun x => x.pair.val).getD 3) := status_carries s (i := 8) rfl rfl
  have hcause : is 47 1 s.restart.cause.code := status_carries s (i := 17) rfl rfl
  refine ⟨status_carries s (i := 0) rfl rfl, fun h => carries_congr (by rw [h]; rfl) hstart, fun h => carries_congr (by rw [h]; rfl) hstart,
    carries_congr (congrArg (s.tracker.state.code + ·) (flag_weight s.trusted 4)) (status_carries s (i := 2) rfl rfl),
    status_carries s (i := 3) rfl rfl, carries_congr (toNat_eq_if _) (status_carries s (i := 4) rfl rfl), status_carries s (i := 5) rfl rfl,
    status_carries s (i := 6) rfl rfl, status_wants s, fun h => carries_congr (by rw [h]; rfl) hplaced,
    fun x h => carries_congr (by rw [h]; rfl) hplaced, status_carries s (i := 9) rfl rfl, status_carries s (i := 10) rfl rfl, status_queue s,
    status_carries s (i := 12) rfl rfl, carries_congr (controlParts_count s) (status_carries s (i := 13) rfl rfl),
    carries_congr (toNat_eq_if _) (status_carries s (i := 14) rfl rfl),
    carries_congr (congr (congrArg (· + ·) (toNat_eq_if _)) (flag_weight _ 2)) (status_carries s (i := 15) rfl rfl),
    status_carries s (i := 16) rfl rfl, fun h => carries_congr (by rw [h]; rfl) hcause, fun h => carries_congr (by rw [h]; rfl) hcause,
    fun h => carries_congr (by rw [h]; rfl) hcause, status_carries s (i := 18) rfl rfl, status_carries s (i := 19) rfl rfl,
    status_carries s (i := 20) ?_ rfl⟩
  rw [← byte_eq_field, ← flags_value]
  rfl

/-! ### The counters (R193) -/

theorem countersContent_length : (countersContent s).length = 496 := by
  unfold countersContent
  rw [flatMap_length _ 4 (fun c => beBytes_length 4 _)]
  simp

theorem counters_carry (k : Fin 124) : Carries (countersContent s) (4 * k.val) 4 (s.counters[k]).toNat := by
  have hfield := carries_flat (fun c : BitVec 32 => beBytes 4 c.toNat) 4 (fun c => beBytes_length 4 _) s.counters.toList [] k.val
    s.counters[k] (vector_getElem? _ k) 0 4 (s.counters[k]).toNat (by omega) carries_end
  rw [List.append_nil] at hfield
  exact hfield

end

/-! ### Services (R191) -/

section
variable {s : State} {r : Request} {rest : List Request} {which : RequestBody → Bool}

/-- The part whose head request has left the list. -/
def State.unqueued (s : State) (rest : List Request) : State := { s with port := { s.port with requests := rest } }

/-- The part with a response placed in the buffer. -/
def State.responding (s : State) (rest : List Request) (a : Response) : State :=
  { s with port := { s.port with requests := rest, response := some a } }

/-- The part once a response has been placed and, where it can, goes out. -/
def State.answered (s : State) (rest : List Request) (a : Response) : State :=
  { s with port := { s.port with
      requests := rest, response := some a
      sending := if s.port.sending = none ∧ s.port.hold = none then some .response else s.port.sending } }

theorem serve_head (hq : s.port.requests = r :: rest) (answer : Request → State → Response) :
    serve answer s = s.responding rest (answer r (s.unqueued rest)) := by
  unfold serve
  rw [hq]
  rfl

theorem serviceDue_head (hq : s.port.requests = r :: rest) (hresp : s.port.response = none) (h : which r.body = true) :
    s.serviceDue which = true := by
  unfold State.serviceDue
  rw [hq, hresp]
  exact h

/-- A service that places a response and changes neither the queues, the table nor what else the port holds. -/
theorem settled_service {f : State → State} {t : State} (hr : s.Rested) (hp : s.port.pausePending = none) (a : Response) (hf : f s = t)
    (ht : t.port = { s.port with requests := rest, response := some a }) (he : t.evalDue = s.evalDue) (hq : t.queues = s.queues)
    (htab : t.table = s.table) : settled f s = { t with port := (s.answered rest a).port } := by
  have hpend : t.port.pausePending = none := by rw [ht]; exact hp
  have hsome : t.port.response ≠ none := by rw [ht]; nofun
  rw [served hf hr he hq htab hpend hsome, ht]
  rfl

theorem clearSet_head {clear : BitVec 8} (hq : s.port.requests = r :: rest) (hb : r.body = .status clear) : s.clearSet = clear := by
  unfold State.clearSet
  rw [hq]
  simp only [List.head?_cons, Option.map_some, hb]

theorem clearChoice_head {clear : Bool} (hq : s.port.requests = r :: rest) (hb : r.body = .counters clear) : s.clearChoice = clear := by
  unfold State.clearChoice
  rw [hq]
  simp only [List.head?_cons, Option.map_some, hb]

theorem exec_status {clear : BitVec 8} {c : Instr} (hl : s.Live) (hq : s.port.requests = r :: rest) (hb : r.body = .status clear)
    (hresp : s.port.response = none) (hc : c = .status ∨ (c = .attentionClear ∧ clear &&& 0x3F#8 ≠ 0#8)) :
    exec c s = .next (settled serveStatus s) := by
  rcases hc with rfl | ⟨rfl, hn⟩
  · exact live_due (b := fun s => s.serviceDue RequestBody.isStatus) hl (serviceDue_head hq hresp (by rw [hb]; rfl))
  · exact live_due (b := fun s => s.serviceDue RequestBody.isStatusClear) hl
      (serviceDue_head hq hresp (by rw [hb]; exact bne_iff_ne.2 hn))

theorem exec_counters {clear : Bool} {c : Instr} (hl : s.Live) (hq : s.port.requests = r :: rest) (hb : r.body = .counters clear)
    (hresp : s.port.response = none) (hc : c = .counters ∨ (c = .countersClear ∧ clear = true)) :
    exec c s = .next (settled serveCounters s) := by
  rcases hc with rfl | ⟨rfl, hyes⟩
  · exact live_due (b := fun s => s.serviceDue RequestBody.isCounters) hl (serviceDue_head hq hresp (by rw [hb]; rfl))
  · exact live_due (b := fun s => s.serviceDue RequestBody.isCountersClear) hl (serviceDue_head hq hresp (by rw [hb]; exact hyes))

theorem serveStatus_eq {clear : BitVec 8} (hq : s.port.requests = r :: rest) (hb : r.body = .status clear) :
    serveStatus s = { s.responding rest (r.respond .ok (statusContent (s.unqueued rest))) with
      attention := s.attention.clearNamed clear } := by
  unfold serveStatus
  dsimp only
  rw [clearSet_head hq hb, serve_head hq]
  rfl

theorem serveCounters_keeps (hq : s.port.requests = r :: rest) (hb : r.body = .counters false) :
    serveCounters s = s.responding rest (r.respond .ok (countersContent s)) := by
  unfold serveCounters
  dsimp only
  rw [clearChoice_head hq hb, serve_head hq]
  rfl

theorem serveCounters_clears (hq : s.port.requests = r :: rest) (hb : r.body = .counters true) :
    serveCounters s = clearAllCounters (s.responding rest (r.respond .ok (countersContent s))) := by
  unfold serveCounters
  dsimp only
  rw [clearChoice_head hq hb, serve_head hq]
  rfl

theorem attn_iff (s : State) : s.attn = true ↔ s.held = none ∧ s.startUp ≠ .loading ∧ s.attention.any = true := by
  unfold State.attn
  rw [Bool.and_eq_true, Bool.and_eq_true, Option.isNone_iff_eq_none, bne_iff_ne]
  exact ⟨fun ⟨⟨ha, hh⟩, hs⟩ => ⟨hh, hs, ha⟩, fun ⟨hh, hs, ha⟩ => ⟨⟨ha, hh⟩, hs⟩⟩

theorem attention_any (a : Attention) : a.any = true ↔ a.configDefault = true ∨ a.trackerUntrusted = true ∨ a.poolExhausted = true ∨
    a.thermalLimited = true ∨ a.tableFull = true ∨ a.relayDrop = true := by
  simp [Attention.any, or_assoc]

end

/-- Settles O54: the services of STATUS and COUNTERS, their contents, and ATTN. -/
theorem statusAndCountersServed : Obligations.StatusAndCountersServed := by
  refine ⟨?_, ?_, status_reported, counters_carry, fun s => (attn_iff s).trans (and_congr_right' (and_congr_right' (attention_any _)))⟩
  · intro s r rest clear c hl hr hq hb hresp hp hc waiting answer
    refine ⟨?_, statusContent_length _⟩
    rw [exec_status hl hq hb hresp hc]
    exact nextInj (settled_service hr hp answer (serveStatus_eq hq hb) rfl rfl rfl rfl)
  · intro s r rest clear c hl hr hq hb hresp hp hc answer served
    have hexec := exec_counters hl hq hb hresp hc
    refine ⟨countersContent_length s, fun hno => ?_, fun hyes hlt => ?_⟩
    · subst hno
      exact hexec.trans (nextInj (settled_service (t := s.responding rest answer) hr hp answer (serveCounters_keeps hq hb) rfl rfl rfl rfl))
    · subst hyes
      refine hexec.trans (nextInj ((settled_service hr hp answer (serveCounters_clears hq hb) rfl rfl rfl rfl).trans ?_))
      have hsat : sat16 s.restart.counterClears = s.restart.counterClears + 1 := if_pos hlt
      exact congrArg (fun n => { served with
        counters := Vector.replicate 124 0#32, restart := { s.restart with counterClears := n } }) hsat

end Sys2Proof.Machine
end

/-! ## Proofs: the CONFIG READ report and the responses over a range of indexes (O55, R194, R195) -/

section
namespace Sys2Proof.Machine

theorem byte_single (b : Byte) : [b] = beBytes 1 b.toNat := by
  rw [← byte_eq_field, BitVec.ofNat_toNat, BitVec.setWidth_eq]

/-- A field of part `i`, at its place in the report. -/
theorem carries_inner {parts : List (List Byte)} {lens : List Nat} {n v b : Nat} {P : List Byte} (hl : parts.map List.length = lens)
    (i : Nat) (hi : parts[i]? = some P) (a : Nat) (h : a + n ≤ P.length) (w : Carries P a n v) (hb : (lens.take i).sum + a = b) :
    Carries parts.flatten b n v :=
  hb ▸ carries_within hl hi h w

/-- A field that stands `a` bytes into part `i`, which begins at `p`. -/
theorem carries_at_part {parts : List (List Byte)} {lens : List Nat} {n v a p : Nat} {P : List Byte} (hl : parts.map List.length = lens)
    (i : Nat) (hi : parts[i]? = some P) (hp : (lens.take i).sum = p) (h : a + n ≤ P.length) (w : Carries P a n v) :
    Carries parts.flatten (p + a) n v :=
  hp ▸ carries_within hl hi h w

/-! ### CONFIG READ (R195) -/

section
variable (c : Settings)

/-- R210: the bands of a configuration, filled with zeros to eight. -/
def bandField : List Byte := c.bands.flatMap bandBytes ++ List.replicate (24 - (c.bands.flatMap bandBytes).length) 0#8

theorem bandField_length (h : c.bands.length ≤ 8) : (bandField c).length = 24 := by
  unfold bandField
  rw [List.length_append, List.length_replicate, flatMap_length _ 3 bandBytes_length]
  omega

theorem bandField_band {k : Nat} {b : Band} (hb : c.bands[k]? = some b) :
    Carries (bandField c) (3 * k) 3 (b.first * 2 ^ 14 + b.width * 2 ^ 4 + b.cap) :=
  carries_flat bandBytes 3 bandBytes_length c.bands _ k b hb 0 3 _ (Nat.le_refl _) carries_end

theorem bandField_empty {k : Nat} (h : c.bands.length ≤ k) (hk : k < 8) : Carries (bandField c) (3 * k) 3 0 := by
  have hlen : (c.bands.flatMap bandBytes).length = 3 * c.bands.length := flatMap_length _ 3 bandBytes_length _
  unfold bandField
  rw [carries_skip (by omega), hlen]
  unfold Carries
  rw [List.drop_replicate, List.take_replicate, Nat.min_eq_left (by omega)]
  rfl

/-- R210: the six queue records. -/
def queueField : List Byte := c.queues.toList.flatMap fun q => beBytes 1 q.depth ++ beBytes 2 q.lifetimeMs ++ beBytes 1 q.priority.val

theorem queueRecord_length (q : QueueSettings) : (beBytes 1 q.depth ++ beBytes 2 q.lifetimeMs ++ beBytes 1 q.priority.val).length = 4 := by
  simp

theorem queueField_length : (queueField c).length = 24 := by
  refine (flatMap_length _ 4 queueRecord_length _).trans ?_
  rw [Vector.length_toList]

theorem queueField_carries (q : QueueIx) : Carries (queueField c) (4 * q.val) 1 c.queues[q].depth ∧
    Carries (queueField c) (4 * q.val + 1) 2 c.queues[q].lifetimeMs ∧ Carries (queueField c) (4 * q.val + 3) 1 c.queues[q].priority.val := by
  have hfield (a n v : Nat) (ha : a + n ≤ 4)
      (w : Carries (beBytes 1 c.queues[q].depth ++ beBytes 2 c.queues[q].lifetimeMs ++ beBytes 1 c.queues[q].priority.val) a n v) :
      Carries (queueField c) (4 * q.val + a) n v := by
    have h := carries_flat _ 4 queueRecord_length c.queues.toList [] q.val c.queues[q] (vector_getElem? _ q) a n v ha w
    rw [List.append_nil] at h
    exact h
  simp only [List.append_assoc] at hfield
  exact ⟨hfield 0 1 _ (by omega) carries_here, hfield 1 2 _ (by omega) ((carries_be (by omega)).2 carries_here),
    hfield 3 1 _ (by omega) ((carries_be (by omega)).2 ((carries_be (by omega)).2 carries_end))⟩

theorem vlanBytes_length (v : Vector QueueIx 8) : (vlanBytes v).length = 4 := rfl

theorem vlanBytes_carries {v : Vector QueueIx 8} {k : Nat} {high low : QueueIx} (hh : v[2 * k]? = some high) (hlow : v[2 * k + 1]? = some low) :
    Carries (vlanBytes v) k 1 (16 * (high.val + 1) + (low.val + 1)) := by
  obtain ⟨hk1, rfl⟩ := Vector.getElem?_eq_some_iff.1 hh
  obtain ⟨hk2, rfl⟩ := Vector.getElem?_eq_some_iff.1 hlow
  have hk : k < 4 := by omega
  have hindex : (List.finRange 4)[k]? = some ⟨k, hk⟩ := by
    rw [List.getElem?_eq_getElem (by simpa using hk), List.getElem_finRange]
    rfl
  have h := carries_flat (fun k : Fin 4 => beBytes 1 (16 * (v[2 * k.val].val + 1) + (v[2 * k.val + 1].val + 1))) 1
    (fun k => beBytes_length 1 _) (List.finRange 4) [] k ⟨k, hk⟩ hindex 0 1 _ (Nat.le_refl _) carries_end
  rw [List.append_nil, Nat.one_mul, Nat.add_zero] at h
  exact h

/-- R210: the code of where the station address comes from. -/
def AddrSource.code : AddrSource → Nat
  | .image => 0
  | .factory => 1
  | .fallback => 2

/-- The parts of a CONFIG READ report, in order. -/
def configParts : List (List Byte) :=
  [beBytes 1 (c.relay.toNat + 2 * c.pauseEnable.toNat + 4 * bitsToNat c.pairs.toList), addrBytes c.station, beBytes 2 c.house.toNat,
    beBytes 1 c.margin, beBytes 1 c.bands.length, bandField c, vlanBytes c.vlan, beBytes 1 (c.defaultQueue.val + 1), queueField c,
    beBytes 1 c.tierOrder.val, beBytes 1 (bitsToNat c.leads.toList), beBytes 2 c.noteMs, beBytes 2 c.soundMs, beBytes 1 c.rebuildS,
    beBytes 1 c.dutyPercent, beBytes 1 c.holdPeriods, beBytes 1 c.deferralLimit, beBytes 1 c.segmentRetry, beBytes 1 c.partRetry,
    beBytes 1 c.imageValid.toNat, beBytes 1 c.addrSource.code, beBytes 1 c.clamped]

/-- The lengths of these parts. -/
def configLengths : List Nat := [1, 6, 2, 1, 1, 24, 4, 1, 24, 1, 1, 2, 2, 1, 1, 1, 1, 1, 1, 1, 1, 1]

theorem configContent_eq : configContent c = (configParts c).flatten := by
  unfold configContent configParts bandField queueField
  dsimp only
  simp only [List.flatten_cons, List.flatten_nil, List.append_nil, List.append_assoc]
  cases c.addrSource <;> rfl

variable {c}

theorem configParts_lengths (h : c.bands.length ≤ 8) : (configParts c).map List.length = configLengths := by
  simp only [configParts, configLengths, List.map_cons, List.map_nil, addrBytes, beBytes_length, bandField_length c h, queueField_length,
    vlanBytes_length]

theorem bits_three (v : Vector Bool 3) : bitsToNat v.toList = v[0].toNat + 2 * (v[1].toNat + 2 * v[2].toNat) := by
  rw [toList_three]
  simp only [bitsToNat, Nat.mul_zero, Nat.add_zero]

theorem config_reported (h : c.bands.length ≤ 8) : (configContent c).length = 79 ∧ c.Reported (configContent c) := by
  have hl := configParts_lengths h
  have hlen : (configContent c).length = 79 := by
    rw [configContent_eq]
    exact report_length hl
  refine ⟨hlen, hlen, ?_⟩
  rw [configContent_eq]
  have hsource : Carries (configParts c).flatten 77 1 c.addrSource.code := carries_part hl 20 rfl rfl
  refine ⟨carries_congr ?_ (carries_part hl 0 rfl rfl), carries_part hl 1 rfl rfl, carries_part hl 2 rfl rfl, carries_part hl 3 rfl rfl,
    carries_part hl 4 rfl rfl, fun k b hb => ?_, fun k hk h8 => ?_, fun k high low hh hlow => ?_, carries_part hl 7 rfl rfl,
    fun q => ⟨?_, ?_, ?_⟩, carries_part hl 9 rfl rfl, carries_congr ?_ (carries_part hl 10 rfl rfl), carries_part hl 11 rfl rfl,
    carries_part hl 12 rfl rfl, carries_part hl 13 rfl rfl, carries_part hl 14 rfl rfl, carries_part hl 15 rfl rfl,
    carries_part hl 16 rfl rfl, carries_part hl 17 rfl rfl, carries_part hl 18 rfl rfl,
    carries_congr (toNat_eq_if _) (carries_part hl 19 rfl rfl), fun hs => carries_congr (by rw [hs]; rfl) hsource,
    fun hs => carries_congr (by rw [hs]; rfl) hsource, fun hs => carries_congr (by rw [hs]; rfl) hsource, carries_part hl 21 rfl rfl⟩
  · rw [bits_three]
    simp only [← flag_weight]
    omega
  · have hk : k < c.bands.length := (List.getElem?_eq_some_iff.1 hb).1
    exact carries_inner hl 5 rfl (3 * k) (by rw [bandField_length c h]; omega) (bandField_band c hb) rfl
  · exact carries_inner hl 5 rfl (3 * k) (by rw [bandField_length c h]; omega) (bandField_empty c hk h8) rfl
  · have hk := (Vector.getElem?_eq_some_iff.1 hh).1
    exact carries_inner hl 6 rfl k (by rw [vlanBytes_length]; omega) (vlanBytes_carries hh hlow) rfl
  · exact carries_inner hl 8 rfl (4 * q.val) (by rw [queueField_length]; omega) (queueField_carries c q).1 rfl
  · exact carries_inner hl 8 rfl (4 * q.val + 1) (by rw [queueField_length]; omega) (queueField_carries c q).2.1 (by simp [configLengths]; omega)
  · exact carries_inner hl 8 rfl (4 * q.val + 3) (by rw [queueField_length]; omega) (queueField_carries c q).2.2 (by simp [configLengths]; omega)
  · rw [bits_three]
    simp only [← flag_weight]
    omega

end

/-! ### Ranges of indexes (R194) -/

/-- The bytes of the reports carried. -/
def bytesOf (xs : List (Nat × List Byte)) : List Byte := xs.flatMap (·.2)

theorem bytesOf_cons (x : Nat × List Byte) (xs : List (Nat × List Byte)) : bytesOf (x :: xs) = x.2 ++ bytesOf xs := rfl

/-- R194: what is carried is the longest start whose reports fit. -/
theorem carryWithin_spec : ∀ (xs : List (Nat × List Byte)) (room : Nat), ∃ m, m ≤ xs.length ∧ carryWithin room xs = xs.take m ∧
    (bytesOf (xs.take m)).length ≤ room ∧ (m < xs.length → room < (bytesOf (xs.take (m + 1))).length)
  | [], room => ⟨0, Nat.le_refl _, rfl, Nat.zero_le _, fun h => absurd h (Nat.lt_irrefl _)⟩
  | x :: rest, room => by
    by_cases h : x.2.length ≤ room
    · obtain ⟨m, hm, hc, hfits, hnext⟩ := carryWithin_spec rest (room - x.2.length)
      refine ⟨m + 1, Nat.succ_le_succ hm, ?_, ?_, fun hlt => ?_⟩
      · rw [List.take_succ_cons, ← hc]
        exact if_pos h
      · rw [List.take_succ_cons, bytesOf_cons, List.length_append]
        omega
      · rw [List.take_succ_cons, bytesOf_cons, List.length_append]
        have := hnext (Nat.lt_of_succ_lt_succ hlt)
        omega
    · refine ⟨0, Nat.zero_le _, if_neg h, Nat.zero_le _, fun _ => ?_⟩
      simpa [bytesOf] using Nat.lt_of_not_le h

theorem carried_cons (x : Nat × List Byte) (rest : List (Nat × List Byte)) :
    ∃ m, m ≤ rest.length ∧ carried (x :: rest) = (x :: rest).take (m + 1) ∧ (bytesOf (rest.take m)).length ≤ 1396 - x.2.length ∧
      (m < rest.length → 1396 < (bytesOf ((x :: rest).take (m + 2))).length) := by
  obtain ⟨m, hm, hc, hfits, hnext⟩ := carryWithin_spec rest (1396 - x.2.length)
  refine ⟨m, hm, ?_, hfits, fun h => ?_⟩
  · rw [List.take_succ_cons, ← hc]
    rfl
  · rw [List.take_succ_cons, bytesOf_cons, List.length_append]
    have := hnext h
    omega

section
variable {s : State} {size first last : Nat} {report : Nat → List Byte}

/-- The indexes of a range with their reports. -/
def reportsFrom (report : Nat → List Byte) (first n : Nat) : List (Nat × List Byte) :=
  (List.range n).map fun k => (first + k, report (first + k))

theorem reportsFrom_take {n m : Nat} (h : m ≤ n) : (reportsFrom report first n).take m = reportsFrom report first m := by
  unfold reportsFrom
  rw [← List.map_take, List.take_range, Nat.min_eq_left h]

theorem reportsFrom_length {n : Nat} : (reportsFrom report first n).length = n := by
  simp [reportsFrom]

theorem reportsFrom_bytes {n : Nat} : bytesOf (reportsFrom report first n) = (List.range n).flatMap fun k => report (first + k) := by
  simp [bytesOf, reportsFrom, List.flatMap_map]

theorem reportsFrom_succ {n : Nat} : reportsFrom report first (n + 1) = (first, report first) :: reportsFrom report (first + 1) n := by
  unfold reportsFrom
  rw [List.range_succ_eq_map, List.map_cons, List.map_map]
  refine congrArg (List.cons _) (List.map_congr_left fun k _ => ?_)
  simp only [Function.comp_apply]
  rw [Nat.add_right_comm, Nat.add_assoc]

/-- R194: of a range of `n + 1` reports those up to the last that fits are carried, the first always. -/
theorem carried_range (n : Nat) : ∃ m, m ≤ n ∧ carried (reportsFrom report first (n + 1)) = reportsFrom report first (m + 1) ∧
    (bytesOf (reportsFrom report (first + 1) m)).length ≤ 1396 - (report first).length ∧
    (m < n → 1396 < (bytesOf (reportsFrom report first (m + 2))).length) := by
  obtain ⟨m, hm, hc, hfits, hnext⟩ := carried_cons (first, report first) (reportsFrom report (first + 1) n)
  rw [reportsFrom_length] at hm hnext
  rw [← reportsFrom_succ] at hc hnext
  rw [reportsFrom_take (by omega)] at hc
  rw [reportsFrom_take hm] at hfits
  refine ⟨m, hm, hc, hfits, fun h => ?_⟩
  have := hnext h
  rwa [reportsFrom_take (by omega)] at this

theorem rangeContent_empty (h : min last (size - 1) < first) :
    rangeContent s size report first last = beBytes 1 (s.absent 0) ++ beBytes 1 0 ++ beBytes 1 (s.absent 1) ++ beBytes 1 1 :=
  if_pos h

theorem rangeContent_carried {xs : List (Nat × List Byte)} {n : Nat} (h : first ≤ min last (size - 1))
    (hx : carried (reportsFrom report first (min last (size - 1) + 1 - first)) = xs) (hn : xs.length = n) :
    rangeContent s size report first last = beBytes 1 first ++ beBytes 1 n ++ beBytes 1 (first + n) ++
      beBytes 1 (decide (first + n = min last (size - 1) + 1)).toNat ++ bytesOf xs := by
  have hsome : rangeContent s size report first last =
      (let xs := carried (reportsFrom report first (min last (size - 1) + 1 - first))
       let next := first + xs.length
       beBytes 1 first ++ beBytes 1 xs.length ++ beBytes 1 next ++ beBytes 1 (decide (next = min last (size - 1) + 1)).toNat ++
         bytesOf xs) := if_neg (Nat.not_lt.2 h)
  subst hn
  rw [hsome, hx]

theorem done_byte (b : Bool) : beBytes 1 b.toNat = [if b = true then 1#8 else 0#8] := by
  cases b <;> rfl

/-- R194: the content over a range that is not empty after clipping. -/
theorem rangeContent_spec (hone : ∀ k, 1 ≤ (report k).length) (h : first ≤ min last (size - 1)) :
    let top := min last (size - 1)
    let reports := fun (n : Nat) => (List.range n).flatMap fun k => report (first + k)
    ∃ n, 1 ≤ n ∧ first + n ≤ top + 1 ∧
      rangeContent s size report first last =
        [BitVec.ofNat 8 first, BitVec.ofNat 8 n, BitVec.ofNat 8 (first + n), if first + n = top + 1 then 1#8 else 0#8] ++ reports n ∧
      (n = 1 ∨ 4 + (reports n).length ≤ 1400) ∧ (first + n ≤ top → 1400 < 4 + (reports (n + 1)).length) := by
  intro top reports
  obtain ⟨d, hd⟩ : ∃ d, top = first + d := ⟨top - first, by omega⟩
  obtain ⟨m, hm, hc, hfits, hnext⟩ := carried_range (report := report) (first := first) d
  have hspan : top + 1 - first = d + 1 := by omega
  have hreports : reports (m + 1) = report first ++ bytesOf (reportsFrom report (first + 1) m) := by
    rw [← bytesOf_cons (first, report first), ← reportsFrom_succ, reportsFrom_bytes]
  refine ⟨m + 1, Nat.succ_le_succ (Nat.zero_le _), by omega, ?_, ?_, fun hlt => ?_⟩
  · rw [rangeContent_carried (n := m + 1) h ((congrArg (fun n => carried (reportsFrom report first n)) hspan).trans hc)
      reportsFrom_length, reportsFrom_bytes, done_byte]
    simp only [← byte_eq_field, decide_eq_true_eq]
    rfl
  · by_cases hzero : m = 0
    · exact Or.inl (by rw [hzero])
    · right
      have hsecond : 1 ≤ (bytesOf (reportsFrom report (first + 1) m)).length := by
        obtain ⟨k, rfl⟩ := Nat.exists_eq_succ_of_ne_zero hzero
        rw [reportsFrom_succ, bytesOf_cons, List.length_append]
        exact Nat.le_add_right_of_le (hone _)
      rw [hreports, List.length_append]
      omega
  · have := hnext (by omega)
    rw [reportsFrom_bytes] at this
    show 1400 < 4 + ((List.range (m + 2)).flatMap fun k => report (first + k)).length
    omega

theorem rangeContent_bounded (hshort : ∀ k, (report k).length ≤ 1396) : (rangeContent s size report first last).length ≤ 1400 := by
  by_cases h : first ≤ min last (size - 1)
  · obtain ⟨d, hd⟩ : ∃ d, min last (size - 1) = first + d := ⟨min last (size - 1) - first, by omega⟩
    obtain ⟨m, hm, hc, hfits, -⟩ := carried_range (report := report) (first := first) d
    have hspan : min last (size - 1) + 1 - first = d + 1 := by omega
    rw [rangeContent_carried h ((congrArg (fun n => carried (reportsFrom report first n)) hspan).trans hc) reportsFrom_length, reportsFrom_succ]
    simp only [List.length_append, beBytes_length, bytesOf_cons]
    have := hshort first
    omega
  · rw [rangeContent_empty (Nat.lt_of_not_le h)]
    simp

end

end Sys2Proof.Machine
end

/-! ## Proofs: the reports of the station table and of the address map (O55, R143, R185) -/

section
namespace Sys2Proof.Machine

/-! ### A role record -/

section
variable {s : State} {i : EntryIx} {r : Role} {k : Nat}

theorem roleReport_held {x : SlotIx} {h : HeldGrid} (hs : s.roleSlot i r = some x) (hp : s.pool[x] = some h) :
    roleReport s k i r = [beBytes 1 x.val, [h.grid.tag], beBytes 1 (h.grid.pair.val + 4 * h.grid.columns.length), timeBytes h.grid.issueTime,
      beBytes 3 (if r = .txAssembling then 0 else h.grid.rate)].flatten := by
  unfold roleReport
  rw [hs]
  dsimp only
  rw [hp]
  simp only [List.flatten_cons, List.flatten_nil, List.append_nil, List.append_assoc]

theorem roleReport_none (hs : s.roleSlot i r = none) :
    roleReport s k i r = [beBytes 1 255, beBytes 1 (s.absent k), beBytes 1 (s.absent (k + 1) % 32), beBytes 4 (s.absent (k + 2)),
      beBytes 3 (if r = .txAssembling then 0 else s.absent (k + 3))].flatten := by
  unfold roleReport
  rw [hs]
  simp only [List.flatten_cons, List.flatten_nil, List.append_nil, List.append_assoc]

/-- R210: the fields of a role record. -/
theorem role_reported : s.RoleReported i r (roleReport s k i r) 0 := by
  refine ⟨fun hs => ?_, fun x h hs hp => ?_, fun hr => ?_⟩
  · rw [roleReport_none hs]
    exact carries_part (lens := [1, 1, 1, 4, 3]) (by simp) 0 rfl rfl
  · rw [roleReport_held hs hp]
    have hl : [beBytes 1 x.val, [h.grid.tag], beBytes 1 (h.grid.pair.val + 4 * h.grid.columns.length), timeBytes h.grid.issueTime,
        beBytes 3 (if r = .txAssembling then 0 else h.grid.rate)].map List.length = [1, 1, 1, 4, 3] := by simp [timeBytes]
    exact ⟨carries_part hl 0 rfl rfl, carries_part hl 1 (congrArg some (byte_single _)) rfl, carries_part hl 2 rfl rfl,
      carries_part hl 3 rfl rfl, fun hr => carries_congr (if_neg hr) (carries_part hl 4 rfl rfl)⟩
  · cases hs : s.roleSlot i r with
    | none =>
      rw [roleReport_none hs]
      exact carries_congr (if_pos hr) (carries_part (lens := [1, 1, 1, 4, 3]) (by simp) 4 rfl rfl)
    | some x =>
      obtain ⟨h, hp, -⟩ := roleSlot_some hs
      rw [roleReport_held hs hp]
      exact carries_congr (if_pos hr) (carries_part (lens := [1, 1, 1, 4, 3]) (by simp [timeBytes]) 4 rfl rfl)

/-- A role record keeps its fields in a report that carries what it carries, from its place on. -/
theorem RoleReported.moved {R report : List Byte} {at_ : Nat} (hR : s.RoleReported i r R 0)
    (hmove : ∀ a n v, a + n ≤ 10 → Carries R a n v → Carries report (at_ + a) n v) : s.RoleReported i r report at_ := by
  obtain ⟨hnone, hsome, hassembling⟩ := hR
  refine ⟨fun hs => hmove 0 1 _ (by omega) (hnone hs), fun x h hs hp => ?_, fun hr => hmove 7 3 _ (by omega) (hassembling hr)⟩
  obtain ⟨h1, h2, h3, h4, h5⟩ := hsome x h hs hp
  exact ⟨hmove 0 1 _ (by omega) h1, hmove 1 1 _ (by omega) h2, hmove 2 1 _ (by omega) h3, hmove 3 4 _ (by omega) h4,
    fun hr => hmove 7 3 _ (by omega) (h5 hr)⟩

end

/-! ### The parts of a station's report -/

section
variable {s : State} {e : Entry} {i : EntryIx} {k : Nat}

theorem timeOr_carries {o : Option LineTime} {t : LineTime} (h : o = some t) : s.timeOr k o = beBytes 4 t.toNat := by
  rw [h]
  rfl

theorem seqOr_carries {o : Option Seq} {q : Seq} (h : o = some q) : s.seqOr k o = beBytes 2 q.toNat := by
  rw [h]
  rfl

theorem seqOr_absent {o : Option Seq} (h : o = none) : ∃ x, x < 2 ^ 15 ∧ s.seqOr k o = beBytes 2 (2 ^ 15 + x) := by
  rw [h]
  exact ⟨s.absent k % 4096, by omega, rfl⟩

theorem offsetReport_spec (o : SlotOffset) : ∃ x, x < 8 ∧ (o.confirm ≠ 0 → x = o.candidate.val) ∧
    offsetReport s k o = (o.held.map Fin.val).getD 7 + 8 * x + 64 * o.confirm := by
  have hlt : o.candidate.val < 8 := by omega
  by_cases h : o.confirm = 0
  · refine ⟨s.absent k % 8, Nat.mod_lt _ (by decide), fun hn => absurd h hn, ?_⟩
    unfold offsetReport
    rw [if_pos h]
  · refine ⟨o.candidate.val, hlt, fun _ => rfl, ?_⟩
    unfold offsetReport
    rw [if_neg h]

theorem routeReport_spec (route : Route) : (∃ x, x < 32 ∧ (route = .direct → routeReport s k route = x) ∧
    (route = .noRoute → routeReport s k route = 128 + x)) ∧ ∀ v, route = .via v → routeReport s k route = 64 + v.val := by
  refine ⟨⟨s.absent k % 32, Nat.mod_lt _ (by decide), fun h => by rw [h]; rfl, fun h => by rw [h]; rfl⟩, fun v h => by rw [h]; rfl⟩

theorem entryFlags_value (e : Entry) : entryFlags e = e.state.code + (if e.peerTrusted then 4 else 0) + (if e.relay then 8 else 0) +
    (if e.hold.isSome then 16 else 0) + (if e.lastHeard.isSome then 32 else 0) + (if e.lastNamed.isSome then 64 else 0) +
    (if e.peerBands.isSome then 128 else 0) := by
  unfold entryFlags
  simp only [flag_weight]

/-- R210: the code of the state of a build record. -/
def BuildState.code : BuildState → Nat
  | .building .. => 1
  | .idle => 0

/-- R210: the code of a last outcome. -/
def LastOutcome.code : LastOutcome → Nat
  | .noOutcome => 0
  | .issued .. => 1
  | .heldBack .. => 2
  | .noGrid => 3

theorem buildReport_carries (b : BuildRecord) :
    Carries (buildReport s k b) 0 1 (b.state.code + (if b.remembered.isSome then 2 else 0) +
      (if (b.remembered.map Causes.forced).getD false then 4 else 0) + (if b.retrySpent then 8 else 0) + 16 * b.last.code) ∧
    Carries (buildReport s k b) 1 1 b.boost ∧
    ∀ p n rate, b.last = .issued p n rate ∨ b.last = .heldBack p n rate →
      Carries (buildReport s k b) 2 1 (p.val + 4 * n) ∧ Carries (buildReport s k b) 3 3 rate := by
  have hshape : ∃ x rate, buildReport s k b = beBytes 1 (b.state.code + 2 * b.remembered.isSome.toNat +
      4 * ((b.remembered.map Causes.forced).getD false).toNat + 8 * b.retrySpent.toNat + 16 * b.last.code) ++ (beBytes 1 b.boost ++
        (beBytes 1 x ++ beBytes 3 rate)) ∧
      ∀ p n r, b.last = .issued p n r ∨ b.last = .heldBack p n r → x = p.val + 4 * n ∧ rate = r := by
    unfold buildReport
    simp only [List.append_assoc]
    cases hb : b.state <;> cases hl : b.last
    all_goals refine ⟨_, _, rfl, fun p n r h => ?_⟩
    all_goals rcases h with h | h <;> cases h <;> exact ⟨rfl, rfl⟩
  obtain ⟨x, rate, h, hgrid⟩ := hshape
  rw [h]
  simp only [flag_weight]
  refine ⟨carries_here, (carries_be (Nat.le_refl _)).2 carries_here, fun p n r hlast => ?_⟩
  obtain ⟨rfl, rfl⟩ := hgrid p n r hlast
  exact ⟨(carries_be (by omega)).2 ((carries_be (Nat.le_refl _)).2 carries_here),
    (carries_be (by omega)).2 ((carries_be (by omega)).2 ((carries_be (Nat.le_refl _)).2 carries_end))⟩

/-- The parts of the segment state. -/
def segmentParts (s : State) (k : Nat) (e : Entry) : List (List Byte) :=
  [beBytes 2 e.tx.next.toNat, s.seqOr k e.tx.oldest, beBytes 1 e.tx.unacked.length, beBytes 1 e.tx.marked.length,
    beBytes 1 e.tx.numbered.length, s.seqOr (k + 1) e.rx.expected, beBytes 1 e.rx.reorder.length, beBytes 1 e.rx.assembling.toNat,
    beBytes 2 ((e.rx.joined.map fun j => j.bytes.length).getD 0xFFFF), beBytes 1 e.rx.window.length, beBytes 1 (badCount e.rx.window)]

theorem segmentReport_eq : segmentReport s k e = (segmentParts s k e).flatten := by
  unfold segmentReport segmentParts
  simp only [List.flatten_cons, List.flatten_nil, List.append_nil, List.append_assoc]

theorem segmentParts_lengths : (segmentParts s k e).map List.length = [2, 2, 1, 1, 1, 2, 1, 1, 2, 1, 1] := by
  simp only [segmentParts, List.map_cons, List.map_nil, beBytes_length, seqOr_length]

/-- The parts of the two lists. -/
def listsParts (e : Entry) : List (List Byte) :=
  [beBytes 1 (e.peerBands.getD []).length, (e.peerBands.getD []).flatMap bandBytes, beBytes 1 (e.reach.getD []).length,
    (e.reach.getD []).flatMap fun x => addrBytes x.addr ++ beBytes 3 x.rate]

theorem listsReport_eq : listsReport e = (listsParts e).flatten := by
  unfold listsReport listsParts
  simp only [List.flatten_cons, List.flatten_nil, List.append_nil, List.append_assoc]

theorem listsParts_lengths : (listsParts e).map List.length =
    [1, 3 * (e.peerBands.getD []).length, 1, 9 * (e.reach.getD []).length] := by
  simp only [listsParts, List.map_cons, List.map_nil, beBytes_length, flatMap_length _ 3 bandBytes_length,
    flatMap_length _ 9 reachItem_length]

/-- R210: the fields of the peer band list and the reach list. -/
theorem listsReport_carries :
    let bands := e.peerBands.getD []
    let items := e.reach.getD []
    Carries (listsReport e) 0 1 bands.length ∧
    (∀ (k : Nat) (b : Band), bands[k]? = some b → Carries (listsReport e) (1 + 3 * k) 3 (b.first * 2 ^ 14 + b.width * 2 ^ 4 + b.cap)) ∧
    Carries (listsReport e) (1 + 3 * bands.length) 1 items.length ∧
    ∀ (k : Nat) (x : ReachItem), items[k]? = some x →
      Carries (listsReport e) (2 + 3 * bands.length + 9 * k) 6 x.addr.toNat ∧
      Carries (listsReport e) (8 + 3 * bands.length + 9 * k) 3 x.rate := by
  intro bands items
  have hl := listsParts_lengths (e := e)
  rw [listsReport_eq]
  refine ⟨carries_part hl 0 rfl rfl, fun k b hb => ?_, carries_part hl 2 rfl (by simp [bands]), fun k x hx => ?_⟩
  · have hk : k < (e.peerBands.getD []).length := (List.getElem?_eq_some_iff.1 hb).1
    have h := carries_flat bandBytes 3 bandBytes_length bands [] k b hb 0 3 _ (Nat.le_refl _) carries_end
    rw [List.append_nil] at h
    exact carries_inner hl 1 rfl (3 * k) (by rw [flatMap_length _ 3 bandBytes_length]; omega) h (by simp)
  · have hk : k < (e.reach.getD []).length := (List.getElem?_eq_some_iff.1 hx).1
    have hitem (a n v : Nat) (ha : a + n ≤ 9) (w : Carries (addrBytes x.addr ++ beBytes 3 x.rate) a n v) :
        Carries (listsParts e).flatten (2 + 3 * bands.length + 9 * k + a) n v := by
      have h := carries_flat _ 9 reachItem_length items [] k x hx a n v ha w
      rw [List.append_nil] at h
      exact carries_inner hl 3 rfl (9 * k + a) (by rw [flatMap_length _ 9 reachItem_length]; omega) h (by simp [bands]; omega)
    exact ⟨hitem 0 6 _ (by omega) carries_here,
      carries_at (by omega) (hitem 6 3 _ (by omega) ((carries_be (Nat.le_refl _)).2 carries_end))⟩

/-! ### A station's report -/

/-- The parts of the report of an entry. -/
def stationParts (s : State) (i : EntryIx) (e : Entry) : List (List Byte) :=
  let k := 64 * (i.val + 1)
  [beBytes 1 i.val, beBytes 1 (1 + 2 * e.reach.isSome.toNat), addrBytes e.addr, beBytes 1 (entryFlags e), s.timeOr k e.lastHeard,
    s.timeOr (k + 1) e.lastNamed, beBytes 1 (offsetReport s (k + 2) e.offset), s.timeOr (k + 3) e.hold, beBytes 1 e.streak,
    beBytes 1 (routeReport s (k + 4) e.route), beBytes 3 e.txRate,
    e.snr.toList.flatMap fun p => p.toList.map fun c => BitVec.ofNat 8 c.count, buildReport s (k + 5) e.build,
    roleReport s (k + 8) i .rxCurrent, roleReport s (k + 12) i .rxPending, roleReport s (k + 16) i .txActive,
    roleReport s (k + 20) i .txAssembling, [e.store.nextTag], beBytes 1 e.store.issue.code,
    beBytes 1 (e.store.parts.countP fun p => p.place != .accepted), beBytes 1 (e.store.parts.countP fun p => p.place == .unplaced),
    beBytes 1 (assemblyParts (s.roleGrid i .txAssembling)), segmentReport s (k + 24) e, listsReport e]

theorem stationReport_eq (he : s.entry i = some e) : stationReport s i = (stationParts s i e).flatten := by
  unfold stationReport stationParts
  rw [he]
  simp only [List.flatten_cons, List.flatten_nil, List.append_nil, List.append_assoc]

theorem stationReport_none (he : s.entry i = none) : stationReport s i = [BitVec.ofNat 8 i.val, 0#8] := by
  unfold stationReport
  rw [he]
  dsimp only
  rw [← byte_eq_field, ← byte_eq_field]
  rfl

/-- The lengths of the parts before the two lists. -/
def stationFixed : List Nat := [1, 1, 6, 1, 4, 4, 1, 4, 1, 1, 3, 18, 6, 10, 10, 10, 10, 1, 1, 1, 1, 1, 15]

/-- The lengths of all of them. -/
def stationLengths (e : Entry) : List Nat :=
  stationFixed ++ [2 + 3 * (e.peerBands.getD []).length + 9 * (e.reach.getD []).length]

theorem stationParts_lengths : (stationParts s i e).map List.length = stationLengths e := by
  simp only [stationParts, stationLengths, stationFixed, List.map_cons, List.map_nil, List.cons_append, List.nil_append, beBytes_length,
    addrBytes, timeOr_length, counts_length, buildReport_length, roleReport_length, segmentReport_length, listsReport_length,
    List.length_singleton]

theorem stationLengths_sum (e : Entry) :
    (stationLengths e).sum = 113 + 3 * (e.peerBands.getD []).length + 9 * (e.reach.getD []).length := by
  have hfixed : stationFixed.sum = 111 := rfl
  unfold stationLengths
  rw [List.sum_append, hfixed, List.sum_singleton]
  omega

/-- The place of a part. -/
theorem station_place {j a : Nat} (hj : j ≤ stationFixed.length) (h : (stationFixed.take j).sum = a) :
    ((stationLengths e).take j).sum = a := by
  unfold stationLengths
  rw [List.take_append_of_le_length hj]
  exact h

/-- A part that is a field, at its place. -/
theorem station_part (j : Nat) {a n v : Nat} (hi : (stationParts s i e)[j]? = some (beBytes n v)) (hj : j ≤ stationFixed.length)
    (h : (stationFixed.take j).sum = a) : Carries (stationParts s i e).flatten a n v :=
  carries_part stationParts_lengths j hi (station_place hj h)

/-- A field of a part, at its place. -/
theorem station_within (j : Nat) {p a n v : Nat} {P : List Byte} (hi : (stationParts s i e)[j]? = some P) (hj : j ≤ stationFixed.length)
    (h : (stationFixed.take j).sum = p) (ha : a + n ≤ P.length) (w : Carries P a n v) : Carries (stationParts s i e).flatten (p + a) n v :=
  carries_at_part stationParts_lengths j hi (station_place hj h) ha w

theorem stationReport_length (he : s.entry i = some e) :
    (stationReport s i).length = 113 + 3 * (e.peerBands.getD []).length + 9 * (e.reach.getD []).length := by
  rw [stationReport_eq he, report_length stationParts_lengths, stationLengths_sum]

theorem sampleCounts_carry (p : Pair) (m : MainsSlot) :
    Carries (e.snr.toList.flatMap fun p => p.toList.map fun c => BitVec.ofNat 8 c.count) (6 * p.val + m.val) 1 e.snr[p][m].count := by
  have h := carries_flat (fun w : Vector Cell 6 => w.toList.map fun c => BitVec.ofNat 8 c.count) 6
    (fun w => by rw [List.length_map, Vector.length_toList]) e.snr.toList [] p.val e.snr[p] (vector_getElem? _ p) m.val 1
    e.snr[p][m].count (by omega) (carries_mapped (f := Cell.count) (vector_getElem? _ m))
  rw [List.append_nil] at h
  exact h

/-- R210: the fields of the segment state. -/
theorem segmentReport_carries :
    let is := Carries (segmentReport s k e)
    is 0 2 e.tx.next.toNat ∧ (∀ q, e.tx.oldest = some q → is 2 2 q.toNat) ∧
    (e.tx.oldest = none → ∃ x, x < 2 ^ 15 ∧ is 2 2 (2 ^ 15 + x)) ∧
    is 4 1 e.tx.unacked.length ∧ is 5 1 (e.tx.unacked.countP (·.marked)) ∧ is 6 1 e.tx.numbered.length ∧
    (∀ q, e.rx.expected = some q → is 7 2 q.toNat) ∧ (e.rx.expected = none → ∃ x, x < 2 ^ 15 ∧ is 7 2 (2 ^ 15 + x)) ∧
    is 9 1 e.rx.reorder.length ∧ is 10 1 (if e.rx.assembling then 1 else 0) ∧
    is 11 2 ((e.rx.joined.map fun j => j.bytes.length).getD 0xFFFF) ∧ is 13 1 e.rx.window.length ∧
    is 14 1 (e.rx.window.countP (· == false)) := by
  have hl := segmentParts_lengths (s := s) (k := k) (e := e)
  have habsent {i k' a : Nat} {o : Option Seq} (hi : (segmentParts s k e)[i]? = some (s.seqOr k' o))
      (ha : (([2, 2, 1, 1, 1, 2, 1, 1, 2, 1, 1] : List Nat).take i).sum = a) (ho : o = none) :
      ∃ x, x < 2 ^ 15 ∧ Carries (segmentParts s k e).flatten a 2 (2 ^ 15 + x) := by
    obtain ⟨x, hx, hseq⟩ := seqOr_absent (s := s) (k := k') ho
    exact ⟨x, hx, carries_part hl i (hi.trans (congrArg some hseq)) ha⟩
  intro is
  dsimp only [is]
  rw [segmentReport_eq]
  refine ⟨carries_part hl 0 rfl rfl, fun q hq => carries_part hl 1 (congrArg some (seqOr_carries hq)) rfl, habsent (i := 1) rfl rfl,
    carries_part hl 2 rfl rfl, carries_congr List.countP_eq_length_filter.symm (carries_part hl 3 rfl rfl), carries_part hl 4 rfl rfl,
    fun q hq => carries_part hl 5 (congrArg some (seqOr_carries hq)) rfl, habsent (i := 5) rfl rfl, carries_part hl 6 rfl rfl,
    carries_congr (toNat_eq_if _) (carries_part hl 7 rfl rfl), carries_part hl 8 rfl rfl, carries_part hl 9 rfl rfl,
    carries_congr ?_ (carries_part hl 10 rfl rfl)⟩
  exact List.countP_congr fun b _ => by cases b <;> rfl

/-- R210: the report of an entry, field by field. -/
theorem station_reported (he : s.entry i = some e) : s.EntryReported i e (stationReport s i) := by
  refine ⟨stationReport_length he, ?_⟩
  rw [stationReport_eq he]
  have htime {j k' a : Nat} {o : Option LineTime} (hj : (stationParts s i e)[j]? = some (s.timeOr k' o))
      (hle : j ≤ stationFixed.length) (ha : (stationFixed.take j).sum = a) (t : LineTime) (ht : o = some t) :
      Carries (stationParts s i e).flatten a 4 t.toNat :=
    station_part j (hj.trans (congrArg some (timeOr_carries ht))) hle ha
  have hrole {j k' a : Nat} {r : Role} (hj : (stationParts s i e)[j]? = some (roleReport s k' i r))
      (hle : j ≤ stationFixed.length) (ha : (stationFixed.take j).sum = a) : s.RoleReported i r (stationParts s i e).flatten a :=
    RoleReported.moved role_reported fun b n v hb w => station_within j hj hle ha (by rw [roleReport_length]; exact hb) w
  have hissue : Carries (stationParts s i e).flatten 92 1 e.store.issue.code := station_part 18 rfl (by decide) rfl
  have hassembly : Carries (stationParts s i e).flatten 95 1 (assemblyParts (s.roleGrid i .txAssembling)) := station_part 21 rfl (by decide) rfl
  obtain ⟨x, hx, hcand, hoffset⟩ := offsetReport_spec (s := s) (k := 64 * (i.val + 1) + 2) e.offset
  obtain ⟨⟨y, hy, hdirect, hno⟩, hvia⟩ := routeReport_spec (s := s) (k := 64 * (i.val + 1) + 4) e.route
  have hroute : Carries (stationParts s i e).flatten 23 1 (routeReport s (64 * (i.val + 1) + 4) e.route) := station_part 9 rfl (by decide) rfl
  obtain ⟨hb1, hb2, hb3⟩ := buildReport_carries (s := s) (k := 64 * (i.val + 1) + 5) e.build
  have hbuild {a n v : Nat} (ha : a + n ≤ 6) (w : Carries (buildReport s (64 * (i.val + 1) + 5) e.build) a n v) :
      Carries (stationParts s i e).flatten (45 + a) n v := station_within 12 rfl (by decide) rfl (by rw [buildReport_length]; exact ha) w
  obtain ⟨s1, s2, s3, s4, s5, s6, s7, s8, s9, s10, s11, s12, s13⟩ := segmentReport_carries (s := s) (k := 64 * (i.val + 1) + 24) (e := e)
  have hseg {a n v : Nat} (ha : a + n ≤ 15) (w : Carries (segmentReport s (64 * (i.val + 1) + 24) e) a n v) :
      Carries (stationParts s i e).flatten (96 + a) n v := station_within 22 rfl (by decide) rfl (by rw [segmentReport_length]; exact ha) w
  obtain ⟨l1, l2, l3, l4⟩ := listsReport_carries (e := e)
  have hlist {a n v : Nat} (ha : a + n ≤ 2 + 3 * (e.peerBands.getD []).length + 9 * (e.reach.getD []).length)
      (w : Carries (listsReport e) a n v) : Carries (stationParts s i e).flatten (111 + a) n v :=
    station_within 23 rfl (by decide) rfl (by rw [listsReport_length]; exact ha) w
  refine ⟨station_part 0 rfl (by decide) rfl, carries_congr (congrArg (1 + ·) (flag_weight _ 2)) (station_part 1 rfl (by decide) rfl), station_part 2 rfl (by decide) rfl,
    carries_congr (entryFlags_value e) (station_part 3 rfl (by decide) rfl), htime (j := 4) rfl (by decide) rfl, htime (j := 5) rfl (by decide) rfl,
    ⟨x, hx, hcand, carries_congr hoffset (station_part 6 rfl (by decide) rfl)⟩, htime (j := 7) rfl (by decide) rfl, station_part 8 rfl (by decide) rfl,
    ⟨y, hy, fun h => carries_congr (hdirect h) hroute, fun h => carries_congr (hno h) hroute⟩,
    fun v h => carries_congr (hvia v h) hroute, station_part 10 rfl (by decide) rfl, fun p m => ?_, hbuild (by omega) hb1, hbuild (by omega) hb2,
    fun p n rate h => ⟨hbuild (by omega) (hb3 p n rate h).1, hbuild (by omega) (hb3 p n rate h).2⟩,
    hrole (j := 13) rfl (by decide) rfl, hrole (j := 14) rfl (by decide) rfl, hrole (j := 15) rfl (by decide) rfl, hrole (j := 16) rfl (by decide) rfl,
    station_part 17 (congrArg some (byte_single _)) (by decide) rfl, fun h => carries_congr (by rw [h]; rfl) hissue,
    fun h => carries_congr (by rw [h]; rfl) hissue, fun h => carries_congr (by rw [h]; rfl) hissue, station_part 19 rfl (by decide) rfl,
    station_part 20 rfl (by decide) rfl, fun h => carries_congr (by rw [h]; rfl) hassembly, fun g h => carries_congr (by rw [h]; rfl) hassembly,
    hseg (by omega) s1, fun q hq => hseg (by omega) (s2 q hq), fun h => ?_, hseg (by omega) s4, hseg (by omega) s5, hseg (by omega) s6,
    fun q hq => hseg (by omega) (s7 q hq), fun h => ?_, hseg (by omega) s9, hseg (by omega) s10, hseg (by omega) s11, hseg (by omega) s12,
    hseg (by omega) s13, hlist (by omega) l1, fun n b hb => ?_, ?_, fun n item hitem => ?_⟩
  · refine carries_at (Nat.add_assoc _ _ _) ?_
    exact station_within 11 rfl (by decide) rfl (by rw [counts_length]; omega) (sampleCounts_carry p m)
  · obtain ⟨z, hz, w⟩ := s3 h
    exact ⟨z, hz, hseg (by omega) w⟩
  · obtain ⟨z, hz, w⟩ := s8 h
    exact ⟨z, hz, hseg (by omega) w⟩
  · have hn := (List.getElem?_eq_some_iff.1 hb).1
    exact carries_at (by omega) (hlist (by omega) (l2 n b hb))
  · exact carries_at (by omega) (hlist (by omega) l3)
  · have hn := (List.getElem?_eq_some_iff.1 hitem).1
    obtain ⟨w1, w2⟩ := l4 n item hitem
    exact ⟨carries_at (by omega) (hlist (by omega) w1), carries_at (by omega) (hlist (by omega) w2)⟩

theorem stationReport_bounded (h : ∀ i e, s.entry i = some e → (e.peerBands.getD []).length ≤ 8 ∧ (e.reach.getD []).length ≤ 23)
    (i : EntryIx) : (stationReport s i).length ≤ 1396 := by
  cases he : s.entry i with
  | none =>
    rw [stationReport_none he]
    exact of_decide_eq_true rfl
  | some e =>
    rw [stationReport_length he]
    obtain ⟨hb, hr⟩ := h i e he
    omega

end

/-! ### The address map -/

section
variable {s : State} {i : MapIx} {m : MapEntry}

theorem mapReport_none (h : s.addressMap[i] = none) : mapReport s i = [BitVec.ofNat 8 i.val, 0#8] := by
  unfold mapReport
  rw [h]
  dsimp only
  rw [← byte_eq_field, ← byte_eq_field]
  rfl

theorem mapReport_eq (h : s.addressMap[i] = some m) : ∃ code a, mapReport s i =
    [beBytes 1 i.val, beBytes 1 code, addrBytes m.device, addrBytes a, beBytes 3 (m.learned.dist s.lineTime / 1000)].flatten ∧
    (m.target = .localHost → code = 3 ∧ a = 0#48) ∧ ∀ b, m.target = .station b → code = 1 ∧ a = b := by
  unfold mapReport
  rw [h]
  simp only [List.flatten_cons, List.flatten_nil, List.append_nil, List.append_assoc]
  refine ⟨_, _, rfl, fun ht => ?_, fun b ht => ?_⟩
  · rw [ht]
    exact ⟨rfl, rfl⟩
  · rw [ht]
    exact ⟨rfl, rfl⟩

theorem map_reported (h : s.addressMap[i] = some m) : s.MapReported i m (mapReport s i) := by
  obtain ⟨code, a, heq, hlocal, hstation⟩ := mapReport_eq h
  have hl : [beBytes 1 i.val, beBytes 1 code, addrBytes m.device, addrBytes a,
      beBytes 3 (m.learned.dist s.lineTime / 1000)].map List.length = [1, 1, 6, 6, 3] := by simp [addrBytes]
  rw [heq]
  refine ⟨report_length hl, carries_part hl 0 rfl rfl, carries_part hl 2 rfl rfl, fun ht => ?_, fun b ht => ?_, carries_part hl 4 rfl rfl⟩
  · obtain ⟨rfl, rfl⟩ := hlocal ht
    exact ⟨carries_part hl 1 rfl rfl, carries_part hl 3 rfl rfl⟩
  · obtain ⟨rfl, rfl⟩ := hstation b ht
    exact ⟨carries_part hl 1 rfl rfl, carries_part hl 3 rfl rfl⟩

theorem mapReport_bounded (s : State) (i : MapIx) : (mapReport s i).length ≤ 1396 := by
  cases h : s.addressMap[i] with
  | none =>
    rw [mapReport_none h]
    exact of_decide_eq_true rfl
  | some m =>
    obtain ⟨hlen, -⟩ := map_reported h
    omega

end

end Sys2Proof.Machine
end

/-! ## Proofs: window reads and the services of the other requests (O55, R190, R191, R194 to R200) -/

section
namespace Sys2Proof.Machine

/-! ### The WINDOW READ report (R198 to R200) -/

section
variable (w : WindowRequest) (v : WindowView)

/-- R210: the code of a role in a window read. -/
def Role.windowCode : Role → Nat
  | .rxCurrent => 0
  | .rxPending => 1
  | .txActive => 2
  | .txAssembling => 3

/-- R210: the two bytes of a window's source, about its index. -/
def WindowSource.codes : WindowSource → Nat × Nat
  | .grid r => (0, r.windowCode)
  | .snr p => (1, p.val)

theorem sourceBytes_eq : w.sourceBytes = beBytes 1 w.source.codes.1 ++ (beBytes 1 w.index ++ beBytes 1 w.source.codes.2) := by
  unfold WindowRequest.sourceBytes
  cases w.source with
  | snr p => rfl
  | grid r => cases r <;> rfl

/-- The carrier and slot counts of the window as clipped, and where a response ends. -/
def WindowRequest.after (w : WindowRequest) : Nat := min (w.resume + 1024) w.clip.cells

/-- The cells of a response, a byte each. -/
def windowCells : List Byte :=
  (List.range (w.after - w.resume)).map fun k => BitVec.ofNat 8 (v.cell (w.clip.at_ w.order (w.resume + k)))

/-- The parts of a WINDOW READ report, in order. -/
def windowParts : List (List Byte) :=
  [beBytes 1 w.source.codes.1, beBytes 1 w.index, beBytes 1 w.source.codes.2, beBytes 1 w.order.code, beBytes 2 w.clip.carrierStart,
    beBytes 2 w.clip.carrierEnd, beBytes 1 w.clip.slotStart, beBytes 1 w.clip.slotEnd, beBytes 2 w.clip.cells, beBytes 2 w.resume,
    beBytes 2 (w.after - w.resume), beBytes 2 w.after, beBytes 1 (decide (w.after = w.clip.cells)).toNat,
    beBytes 1 (bitsToNat (v.rows.map (·.isSome))), v.description, windowCells w v]

theorem windowContent_eq : windowContent w v = (windowParts w v).flatten := by
  unfold windowContent windowParts windowCells WindowRequest.after
  dsimp only
  rw [sourceBytes_eq]
  simp only [List.flatten_cons, List.flatten_nil, List.append_nil, List.append_assoc]

/-- The lengths of the parts before the description. -/
def windowFixed : List Nat := [1, 1, 1, 1, 2, 2, 1, 1, 2, 2, 2, 2, 1, 1]

variable {w v}

theorem windowParts_lengths (hd : v.description.length = 30) :
    (windowParts w v).map List.length = windowFixed ++ [30, w.after - w.resume] := by
  simp only [windowParts, windowFixed, windowCells, List.map_cons, List.map_nil, List.cons_append, List.nil_append, beBytes_length, hd,
    List.length_map, List.length_range]

theorem windowContent_length (hd : v.description.length = 30) : (windowContent w v).length = 50 + (w.after - w.resume) := by
  have hfixed : windowFixed.sum = 20 := rfl
  rw [windowContent_eq, report_length (windowParts_lengths hd), List.sum_append, hfixed]
  simp only [List.sum_cons, List.sum_nil]
  omega

theorem window_place {j a : Nat} (hj : j ≤ windowFixed.length) (h : (windowFixed.take j).sum = a) :
    ((windowFixed ++ [30, w.after - w.resume]).take j).sum = a := by
  rw [List.take_append_of_le_length hj]
  exact h

/-- A part that is a field, at its place. -/
theorem window_part (hd : v.description.length = 30) (j : Nat) {a n x : Nat} (hi : (windowParts w v)[j]? = some (beBytes n x))
    (hj : j ≤ windowFixed.length) (h : (windowFixed.take j).sum = a) : Carries (windowContent w v) a n x := by
  rw [windowContent_eq]
  exact carries_part (windowParts_lengths hd) j hi (window_place hj h)

/-- A field of the description. -/
theorem window_description (hd : v.description.length = 30) {a n x : Nat} (ha : a + n ≤ 30) (h : Carries v.description a n x) :
    Carries (windowContent w v) (20 + a) n x := by
  rw [windowContent_eq]
  exact carries_at_part (windowParts_lengths hd) 14 rfl (window_place (by decide) rfl) (by rw [hd]; exact ha) h

/-- R200: each cell, in walk order. -/
theorem window_cell (hd : v.description.length = 30) {k : Nat} (hk : k < w.after - w.resume) :
    Carries (windowContent w v) (50 + k) 1 (v.cell (w.clip.at_ w.order (w.resume + k))) := by
  have hindex : (List.range (w.after - w.resume))[k]? = some k := by
    rw [List.getElem?_range hk]
  have hcell := carries_mapped (f := fun k => v.cell (w.clip.at_ w.order (w.resume + k))) hindex
  have hplace : ((windowFixed ++ [30, w.after - w.resume]).take 15).sum = 50 := rfl
  rw [windowContent_eq]
  refine carries_at_part (windowParts_lengths hd) 15 rfl hplace ?_ hcell
  rw [windowCells, List.length_map, List.length_range]
  exact hk

theorem bits_six (b0 b1 b2 b3 b4 b5 : Bool) : bitsToNat [b0, b1, b2, b3, b4, b5] = (if b0 then 1 else 0) + (if b1 then 2 else 0) +
    (if b2 then 4 else 0) + (if b3 then 8 else 0) + (if b4 then 16 else 0) + (if b5 then 32 else 0) := by
  simp only [bitsToNat, ← flag_weight]
  omega

theorem finRange_six : List.finRange 6 = [0, 1, 2, 3, 4, 5] := rfl

/-- R198 to R200, R210: what the report of a view carries, its rows being those of the slots. -/
theorem window_reported {row : MainsSlot → Option (List Nat)} (hd : v.description.length = 30) (hrows : v.rows = (List.finRange 6).map row) :
    w.Reported row (windowContent w v) := by
  have hsource : Carries (windowContent w v) 0 1 w.source.codes.1 := window_part hd 0 rfl (by decide) rfl
  have hwhich : Carries (windowContent w v) 2 1 w.source.codes.2 := window_part hd 2 rfl (by decide) rfl
  refine ⟨windowContent_length hd, fun r hs => carries_congr (by rw [hs]; rfl) hsource,
    fun p hs => ⟨carries_congr (by rw [hs]; rfl) hsource, carries_congr (by rw [hs]; rfl) hwhich⟩, window_part hd 1 rfl (by decide) rfl,
    fun hs => carries_congr (by rw [hs]; rfl) hwhich, fun hs => carries_congr (by rw [hs]; rfl) hwhich,
    fun hs => carries_congr (by rw [hs]; rfl) hwhich, fun hs => carries_congr (by rw [hs]; rfl) hwhich,
    carries_congr ?_ (window_part hd 3 rfl (by decide) rfl), window_part hd 4 rfl (by decide) rfl, window_part hd 5 rfl (by decide) rfl,
    window_part hd 6 rfl (by decide) rfl, window_part hd 7 rfl (by decide) rfl, window_part hd 8 rfl (by decide) rfl,
    window_part hd 9 rfl (by decide) rfl, window_part hd 10 rfl (by decide) rfl, window_part hd 11 rfl (by decide) rfl,
    carries_congr ?_ (window_part hd 12 rfl (by decide) rfl), carries_congr ?_ (window_part hd 13 rfl (by decide) rfl), ?_⟩
  · unfold WalkOrder.code
    rw [toNat_eq_if]
    simp only [flag_weight]
  · rw [toNat_eq_if]
    simp only [decide_eq_true_eq]
    rfl
  · rw [hrows, List.map_map, finRange_six]
    exact bits_six _ _ _ _ _ _
  · intro k carrier m hk carrierStep slotStep hcarrier hslot
    have hcell := window_cell hd (w := w) (v := v) hk
    have hat : w.clip.at_ w.order (w.resume + k) = (carrier, m.val) := Prod.ext hcarrier.symm hslot.symm
    have hrow : v.rows.getD m.val none = row m := by
      rw [hrows, List.getD_eq_getElem?_getD, List.getElem?_map, List.getElem?_eq_getElem (by simp), List.getElem_finRange]
      rfl
    have hvalue : v.cell (carrier, m.val) = ((row m).map fun r => r.getD carrier 0).getD 0 := by
      unfold WindowView.cell
      rw [hrow]
      cases row m <;> rfl
    rw [hat, hvalue] at hcell
    refine ⟨fun hn => carries_congr (by rw [hn]; rfl) hcell, fun values x hs hx => carries_congr ?_ hcell⟩
    rw [hs, Option.map_some, Option.getD_some, List.getD_eq_getElem?_getD, hx, Option.getD_some]

end

/-! ### The two views (R200) -/

section
variable (w : WindowRequest) (role : Role) (g : Grid)

theorem gridView_rows : (gridView role g).rows = (List.finRange 6).map g.levelsAt := by
  unfold gridView
  refine List.map_congr_left fun m _ => ?_
  unfold Grid.levelsAt
  rw [List.getD_eq_getElem?_getD]
  cases g.columns[(g.map[m]).val]? with
  | none => rfl
  | some c => cases c <;> rfl

/-- The parts of a grid's description. -/
def gridParts : List (List Byte) :=
  [[g.tag], beBytes 1 (g.pair.val + 4 * g.columns.length), beBytes 2 (mapNat g.map), timeBytes g.issueTime,
    beBytes 3 (if role = .txAssembling then 0 else g.rate), List.replicate 19 0#8]

theorem gridView_description : (gridView role g).description = (gridParts role g).flatten := by
  unfold gridView gridParts
  simp only [List.flatten_cons, List.flatten_nil, List.append_nil, List.append_assoc]

theorem gridParts_lengths : (gridParts role g).map List.length = [1, 1, 2, 4, 3, 19] := by
  simp only [gridParts, timeBytes, List.map_cons, List.map_nil, beBytes_length, List.length_singleton, List.length_replicate]

theorem gridView_length : (gridView role g).description.length = 30 := by
  rw [gridView_description]
  exact report_length (gridParts_lengths role g)

theorem mapNat_eq (m : Vector (Fin 4) 6) : mapNat m = m[0].val + 4 * m[1].val + 16 * m[2].val + 64 * m[3].val + 256 * m[4].val +
    1024 * m[5].val := by
  unfold mapNat
  rw [finRange_six]
  show 0 + m[0].val * 4 ^ 0 + m[1].val * 4 ^ 1 + m[2].val * 4 ^ 2 + m[3].val * 4 ^ 3 + m[4].val * 4 ^ 4 + m[5].val * 4 ^ 5 = _
  omega

theorem zeros_field (n : Nat) : List.replicate n 0#8 = beBytes n 0 := by
  induction n with
  | zero => rfl
  | succ n ih =>
    rw [List.replicate_succ, ih]
    simp [beBytes]

theorem grid_window :
    let report := windowContent w (gridView role g)
    w.Reported g.levelsAt report ∧ Carries report 20 1 g.tag.toNat ∧ Carries report 21 1 (g.pair.val + 4 * g.columns.length) ∧
    Carries report 22 2 (g.map[0].val + 4 * g.map[1].val + 16 * g.map[2].val + 64 * g.map[3].val + 256 * g.map[4].val +
      1024 * g.map[5].val) ∧
    Carries report 24 4 g.issueTime.toNat ∧ Carries report 28 3 (if role = .txAssembling then 0 else g.rate) ∧
    Carries report 31 19 0 := by
  intro report
  have hd := gridView_length role g
  have hl := gridParts_lengths role g
  have hpart (j : Nat) {b n x : Nat} (hi : (gridParts role g)[j]? = some (beBytes n x))
      (hb : 20 + (([1, 1, 2, 4, 3, 19] : List Nat).take j).sum = b) (hn : (([1, 1, 2, 4, 3, 19] : List Nat).take j).sum + n ≤ 30) :
      Carries report b n x :=
    carries_at hb.symm (window_description hd hn (by rw [gridView_description]; exact carries_part hl j hi rfl))
  exact ⟨window_reported hd (gridView_rows role g), hpart 0 (congrArg some (byte_single _)) rfl (by decide), hpart 1 rfl rfl (by decide),
    carries_congr (mapNat_eq _) (hpart 2 rfl rfl (by decide)), hpart 3 rfl rfl (by decide), hpart 4 rfl rfl (by decide),
    hpart 5 (congrArg some (zeros_field 19)) rfl (by decide)⟩

end

section
variable (w : WindowRequest) (s : State) (cells : Vector Cell 6)

theorem snrView_rows : (snrView s cells).rows = (List.finRange 6).map fun m => cells[m].carried := rfl

theorem snrTime_length (m : MainsSlot) : (s.timeOr (2 + m.val) (if cells[m].count = 0 then none else some cells[m].last)).length = 4 :=
  timeOr_length _ _ _

theorem snrView_length : (snrView s cells).description.length = 30 := by
  unfold snrView
  rw [List.length_append, List.length_map, Vector.length_toList, flatMap_length _ 4 (snrTime_length s cells), List.length_finRange]

theorem snr_window :
    let report := windowContent w (snrView s cells)
    w.Reported (fun m => cells[m].carried) report ∧
    ∀ m : MainsSlot, Carries report (20 + m.val) 1 cells[m].count ∧
      (cells[m].count ≠ 0 → Carries report (26 + 4 * m.val) 4 cells[m].last.toNat) := by
  intro report
  have hd := snrView_length s cells
  have hcounts : (cells.toList.map fun c => BitVec.ofNat 8 c.count).length = 6 := by rw [List.length_map, Vector.length_toList]
  refine ⟨window_reported hd (snrView_rows s cells), fun m => ⟨?_, fun hn => ?_⟩⟩
  · exact window_description hd (by omega) (carries_left (by omega) (carries_mapped (f := Cell.count) (vector_getElem? cells m)))
  · have hindex : (List.finRange 6)[m.val]? = some m := by
      rw [List.getElem?_eq_getElem (by simp), List.getElem_finRange]
      rfl
    have htime := carries_flat _ 4 (snrTime_length s cells) (List.finRange 6) [] m.val m hindex 0 4 cells[m].last.toNat (Nat.le_refl _)
      (by rw [if_neg hn]; exact carries_end)
    rw [List.append_nil] at htime
    have hin : Carries (snrView s cells).description (6 + 4 * m.val) 4 cells[m].last.toNat := by
      refine (carries_skip (by omega)).2 ?_
      rw [hcounts, Nat.add_sub_cancel_left]
      exact htime
    exact carries_at (by omega) (window_description hd (by omega) hin)

end

/-! ### What a window read is answered with (R197) -/

section
variable {s : State} {w : WindowRequest} {r : Request} {e : Entry}

theorem answerWindow_none {st : ResponseStatus} (h : windowView s w = (st, none)) : answerWindow w r s = r.respond st [] := by
  unfold answerWindow
  rw [h]

theorem answerWindow_some {st : ResponseStatus} {v : WindowView} (h : windowView s w = (st, some v)) :
    answerWindow w r s = r.respond st (windowContent w v) := by
  unfold answerWindow
  rw [h]

theorem window_index (hw : w.index < 24) : (⟨w.index, hw⟩ : EntryIx) = Fin.ofNat 24 w.index :=
  Fin.ext (Nat.mod_eq_of_lt hw).symm

theorem windowView_noEntry (h : s.entry (Fin.ofNat 24 w.index) = none ∨ 24 ≤ w.index) : windowView s w = (.noEntry, none) := by
  unfold windowView
  by_cases hw : w.index < 24
  · have he := h.resolve_right (Nat.not_le.2 hw)
    rw [← window_index hw] at he
    rw [dif_pos hw, he]
  · exact dif_neg hw

theorem windowView_grid {role : Role} {g : Grid} (hw : w.index < 24) (he : s.entry (Fin.ofNat 24 w.index) = some e)
    (hs : w.source = .grid role) (hg : s.roleGrid (Fin.ofNat 24 w.index) role = some g) :
    windowView s w = (.ok, some (gridView role g)) := by
  unfold windowView
  rw [dif_pos hw, window_index hw, he, hs]
  dsimp only
  rw [hg]

theorem windowView_noGrid {role : Role} (hw : w.index < 24) (he : s.entry (Fin.ofNat 24 w.index) = some e)
    (hs : w.source = .grid role) (hg : s.roleGrid (Fin.ofNat 24 w.index) role = none) : windowView s w = (.noGrid, none) := by
  unfold windowView
  rw [dif_pos hw, window_index hw, he, hs]
  dsimp only
  rw [hg]

theorem windowView_snr {p : Pair} (hw : w.index < 24) (he : s.entry (Fin.ofNat 24 w.index) = some e) (hs : w.source = .snr p) :
    windowView s w = (.ok, some (snrView s e.snr[p])) := by
  unfold windowView
  rw [dif_pos hw, window_index hw, he, hs]

end

/-! ### The services -/

section
variable {s : State} {r : Request} {rest : List Request}

/-- The service of a request whose answer takes no free value. -/
theorem service_plain {a : Response} (hr : s.Rested) (hq : s.port.requests = r :: rest) (hp : s.port.pausePending = none)
    (ha : answerOther r (s.unqueued rest) = a) : settled (serve answerOther) s = s.answered rest a :=
  settled_service (t := s.responding rest a) hr hp a ((serve_head hq answerOther).trans (congrArg (s.responding rest) ha)) rfl rfl rfl rfl

/-- The service of a request whose answer may take free values. -/
theorem service_drawn {a : Response} (hr : s.Rested) (hq : s.port.requests = r :: rest) (hp : s.port.pausePending = none)
    (ha : answerOther r (s.unqueued rest) = a) :
    settled (fun s => draw (serve answerOther s)) s = { s.answered rest a with draws := s.draws + 1 } :=
  settled_service (t := draw (s.responding rest a)) hr hp a
    (congrArg draw ((serve_head hq answerOther).trans (congrArg (s.responding rest) ha))) rfl rfl rfl rfl

/-- The service of a request that is not well formed, which is counted. -/
theorem service_unknown {a : Response} (hr : s.Rested) (hq : s.port.requests = r :: rest) (hp : s.port.pausePending = none)
    (ha : answerOther r (s.unqueued rest) = a) :
    settled (fun s => bump .unknownRequests (serve answerOther s)) s = bump .unknownRequests (s.answered rest a) :=
  settled_service (t := bump .unknownRequests (s.responding rest a)) hr hp a
    (congrArg (bump .unknownRequests) ((serve_head hq answerOther).trans (congrArg (s.responding rest) ha))) rfl rfl rfl rfl

theorem answerOther_window {w : WindowRequest} {u : State} (hb : r.body = .windowRead w) : answerOther r u = answerWindow w r u := by
  unfold answerOther
  rw [hb]

end

/-- Settles O55: the services of the other requests and the contents of their responses. -/
theorem requestsServed : Obligations.RequestsServed := by
  refine ⟨?_, fun c hc => config_reported hc, fun s size report first last h1 _ hone => ⟨fun h => rangeContent_spec hone h, fun h => ?_⟩,
    fun s size report first last h => rangeContent_bounded h, fun s i => ⟨stationReport_none, fun e he => station_reported he⟩,
    fun s i => ⟨mapReport_none, fun m hm => map_reported hm⟩, fun s first last => ⟨fun h => ?_, ?_⟩, grid_window, snr_window⟩
  · intro s r rest hl hr hq hresp hp waiting served plain
    have hdue {which : RequestBody → Bool} (h : which r.body = true) : s.serviceDue which = true := serviceDue_head hq hresp h
    have hread {w : WindowRequest} {a : Response} (hb : r.body = .windowRead w) (ha : answerWindow w r waiting = a) :
        exec .windowRead s = .next { served a with draws := s.draws + 1 } :=
      (live_due (b := fun s => s.serviceDue RequestBody.isWindowRead) hl (hdue (by rw [hb]; rfl))).trans
        (nextInj (service_drawn hr hq hp ((answerOther_window hb).trans ha)))
    have hother {a : Response} (ha : answerOther r waiting = a) : answerOther r (s.unqueued rest) = a := ha
    refine ⟨fun hb => ?_, fun hb => ?_, fun hb => ?_, fun a b hb => ?_, fun a b hb => ?_, fun w hb hn => ?_,
      fun w e g role hb hw he hs hg => ?_, fun w e role hb hw he hs hg => ?_, fun w e p hb hw he hs => ?_⟩
    · exact (live_due (b := fun s => s.serviceDue fun b => b == .configRead) hl (hdue (by rw [hb]; rfl))).trans
        (nextInj (service_plain hr hq hp (hother (by unfold answerOther; rw [hb]; rfl))))
    · exact (live_due (b := fun s => s.serviceDue fun b => b == .restart) hl (hdue (by rw [hb]; rfl))).trans
        (nextInj (service_plain hr hq hp (hother (by unfold answerOther; rw [hb]; rfl))))
    · exact (live_due (b := fun s => s.serviceDue fun b => b == .malformed) hl (hdue (by rw [hb]; rfl))).trans
        (nextInj (service_unknown hr hq hp (hother (by unfold answerOther; rw [hb]; rfl))))
    · exact (live_due (b := fun s => s.serviceDue RequestBody.isStationTable) hl (hdue (by rw [hb]; rfl))).trans
        (nextInj (service_drawn hr hq hp (hother (by unfold answerOther; rw [hb]; rfl))))
    · exact (live_due (b := fun s => s.serviceDue RequestBody.isAddressMap) hl (hdue (by rw [hb]; rfl))).trans
        (nextInj (service_drawn hr hq hp (hother (by unfold answerOther; rw [hb]; rfl))))
    · exact hread hb (answerWindow_none (windowView_noEntry hn))
    · exact hread hb (answerWindow_some (windowView_grid hw he hs hg))
    · exact hread hb (answerWindow_none (windowView_noGrid hw he hs hg))
    · exact hread hb (answerWindow_some (windowView_snr hw he hs))
  · refine ⟨BitVec.ofNat 8 (s.absent 0), BitVec.ofNat 8 (s.absent 1), ?_⟩
    rw [rangeContent_empty h]
    simp only [← byte_eq_field]
    rfl
  · exact rangeContent_bounded fun k => stationReport_bounded h _
  · exact rangeContent_bounded fun k => mapReport_bounded s _

end Sys2Proof.Machine
end

/-! ## Proofs: control payloads are read back whole (O60)

What a payload carries at a place is what is read there; each reader then undoes its writer field by field. -/

section
namespace Sys2Proof.Machine

/-! ### Reading what a report carries -/

section
variable {b : List Byte} {a n v : Nat}

theorem readBE_foldl (l : List Byte) (acc : Nat) :
    l.foldl (fun n x => n * 256 + x.toNat) acc = acc * 256 ^ l.length + readBE l := by
  induction l generalizing acc with
  | nil => simp [readBE]
  | cons x l ih =>
    have hcons : readBE (x :: l) = (0 * 256 + x.toNat) * 256 ^ l.length + readBE l := ih _
    rw [List.foldl_cons, ih, hcons, List.length_cons, Nat.pow_succ, Nat.zero_mul, Nat.zero_add, Nat.add_mul, Nat.mul_assoc,
      Nat.mul_comm 256, Nat.add_assoc]

theorem readBE_beBytes (n v : Nat) : readBE (beBytes n v) = v % 256 ^ n := by
  induction n with
  | zero => simp [readBE, beBytes, Nat.mod_one]
  | succ n ih =>
    have hcons : readBE (beBytes (n + 1) v) = (v / 256 ^ n % 256) * 256 ^ n + readBE (beBytes n v) := by
      conv => lhs; rw [readBE, beBytes, List.foldl_cons, readBE_foldl, beBytes_length]
      simp
    rw [hcons, ih, Nat.pow_succ, Nat.mod_mul, Nat.add_comm, Nat.mul_comm]

theorem carries_fits (h : Carries b a n v) (hn : n ≠ 0) : a + n ≤ b.length := by
  have hlen := congrArg List.length h
  rw [List.length_take, List.length_drop, beBytes_length] at hlen
  omega

/-- The number read where a value is carried. -/
theorem fieldAt_carried (h : Carries b a n v) : fieldAt a n b = v % 256 ^ n := by
  by_cases hn : n = 0
  · subst hn
    simp [fieldAt, Nat.mod_one]
  · have hfits := carries_fits h hn
    have hbytes : (List.range n).map (fun i => byteAt (a + i) b) = (b.drop a).take n := by
      apply List.ext_getElem
      · rw [List.length_map, List.length_range, List.length_take, List.length_drop]
        omega
      · intro i h1 h2
        rw [List.length_map, List.length_range] at h1
        rw [List.getElem_map, List.getElem_range, List.getElem_take, List.getElem_drop]
        exact (List.getElem_eq_getD _).symm
    have hfold : fieldAt a n b = readBE ((List.range n).map fun i => byteAt (a + i) b) := by
      unfold fieldAt readBE
      rw [List.foldl_map]
    rw [hfold, hbytes, h, readBE_beBytes]

theorem fieldAt_carried_lt (h : Carries b a n v) (hv : v < 256 ^ n) : fieldAt a n b = v := by
  rw [fieldAt_carried h, Nat.mod_eq_of_lt hv]

/-- The byte read where a value is carried in one byte. -/
theorem byteAt_carried (h : Carries b a 1 v) : byteAt a b = BitVec.ofNat 8 v := by
  have hfits := carries_fits h (by decide)
  have hbyte : (b.drop a).take 1 = [byteAt a b] := by
    rw [List.drop_eq_getElem_cons (by omega)]
    exact congrArg (fun x => [x]) (List.getElem_eq_getD _)
  have hsame : [byteAt a b] = [BitVec.ofNat 8 v] := hbyte.symm.trans (h.trans (byte_eq_field v).symm)
  exact List.singleton_inj.1 hsame

theorem byteAt_carried_toNat (h : Carries b a 1 v) (hv : v < 256) : (byteAt a b).toNat = v := by
  rw [byteAt_carried h, BitVec.toNat_ofNat, Nat.mod_eq_of_lt hv]

theorem addrAt_carried {x : Addr} (h : Carries b a 6 x.toNat) : addrAt a b = x := by
  unfold addrAt
  rw [fieldAt_carried_lt h x.isLt, BitVec.ofNat_toNat, BitVec.setWidth_eq]

end

section
variable {A B : List Byte} {n : Nat}

theorem slice_prefix (h : A.length = n) : slice 0 n (A ++ B) = A := by
  subst h
  exact List.take_left

/-- The field behind a payload's bytes. -/
theorem fieldAt_behind {m v : Nat} (h : A.length = n) (hv : v < 256 ^ m) : fieldAt n m (A ++ (beBytes m v ++ B)) = v := by
  refine fieldAt_carried_lt ?_ hv
  rw [carries_skip (by omega), h, Nat.sub_self]
  exact carries_here

end

/-! ### Bits -/

theorem bitsToNat_testBit (l : List Bool) (i : Nat) : (bitsToNat l).testBit i = l.getD i false := by
  induction l generalizing i with
  | nil => simp [bitsToNat]
  | cons b l ih =>
    have hb : b.toNat ≤ 1 := Bool.toNat_le b
    rw [bitsToNat]
    cases i with
    | zero =>
      rw [Nat.testBit_zero, List.getD_cons_zero]
      cases b <;> simp
    | succ i =>
      have hhalf : (b.toNat + 2 * bitsToNat l) / 2 = bitsToNat l := by omega
      rw [Nat.testBit_succ, hhalf, ih, List.getD_cons_succ]

/-- A byte of bits gives them back. -/
theorem bits_read (l : List Bool) (h : l.length ≤ 8) : (List.range l.length).map (fun i => (BitVec.ofNat 8 (bitsToNat l)).getLsbD i) = l := by
  apply List.ext_getElem
  · simp
  · intro i h1 h2
    rw [List.getElem_map, List.getElem_range, BitVec.getLsbD_ofNat, bitsToNat_testBit, ← List.getElem_eq_getD (h := h2),
      decide_eq_true (by omega : i < 8), Bool.true_and]

/-! ### Bands -/

theorem clampBands_of_lawful {l : List Band} (h : ∀ b ∈ l, b.Lawful) : (clampBands l).1 = l := by
  rw [clampBands_kept, List.filter_eq_self.2 fun b hb => decide_eq_true (h b hb).1]
  conv => rhs; rw [← List.map_id l]
  refine List.map_congr_left fun b hb => ?_
  obtain ⟨h1, h2, h3, h4⟩ := h b hb
  have hwidth : min (max 1 b.width) (768 - b.first) = b.width := by omega
  have hcap : min 10 b.cap = b.cap := Nat.min_eq_right h4
  rw [hwidth, hcap]
  rfl

/-- A lawful band is read back. -/
theorem bandAt_carried {b : List Byte} {a : Nat} {x : Band} (hx : x.Lawful)
    (h : Carries b a 3 (x.first * 2 ^ 14 + x.width * 2 ^ 4 + x.cap)) : bandAt a b = x := by
  obtain ⟨h1, h2, h3, h4⟩ := hx
  unfold bandAt
  rw [fieldAt_carried_lt h (by omega)]
  have hf : bitsOf (x.first * 2 ^ 14 + x.width * 2 ^ 4 + x.cap) 14 10 = x.first := by unfold bitsOf; omega
  have hw : bitsOf (x.first * 2 ^ 14 + x.width * 2 ^ 4 + x.cap) 4 10 = x.width := by unfold bitsOf; omega
  have hc : bitsOf (x.first * 2 ^ 14 + x.width * 2 ^ 4 + x.cap) 0 4 = x.cap := by unfold bitsOf; omega
  dsimp only
  rw [hf, hw, hc]

/-- A list of lawful bands is read back. -/
theorem receivedBands_carried {b : List Byte} {a : Nat} {l : List Band} (hl : ∀ x ∈ l, x.Lawful)
    (h : ∀ (k : Nat) (x : Band), l[k]? = some x → Carries b (a + 3 * k) 3 (x.first * 2 ^ 14 + x.width * 2 ^ 4 + x.cap)) :
    receivedBands a l.length b = l := by
  have hread : bandsAt a l.length b = l := by
    unfold bandsAt
    apply List.ext_getElem
    · simp
    · intro k h1 h2
      rw [List.getElem_map, List.getElem_range]
      exact bandAt_carried (hl _ (List.getElem_mem h2)) (h k _ (List.getElem?_eq_getElem h2))
  unfold receivedBands
  rw [hread, clampBands_of_lawful hl]

/-! ### RESP bodies (R31) -/

section
variable (r : RespBody)

/-- The bands of a RESP body, filled with zeros. -/
def respBands : List Byte :=
  (r.bands.getD []).flatMap bandBytes ++ List.replicate (42 - ((r.bands.getD []).flatMap bandBytes).length) 0#8

/-- The parts of a RESP body before its check. -/
def respParts : List (List Byte) :=
  [beBytes 1 r.status.code, beBytes 1 r.entries.length, beBytes 1 (bitsToNat r.entries),
    beBytes 1 (r.bands.isSome.toNat * 128 + (r.bands.getD []).length), respBands r]

theorem respBody_eq : respBody r = (respParts r).flatten := by
  unfold respBody respParts respBands
  dsimp only
  rw [← List.flatMap_def]
  simp only [List.flatten_cons, List.flatten_nil, List.append_nil, List.append_assoc]

variable {r}

theorem resp_bands_short (hr : r.Lawful) : (r.bands.getD []).length ≤ 8 := by
  cases h : r.bands with
  | none => exact Nat.zero_le _
  | some l => exact (hr.2 l h).1

theorem respParts_lengths (hr : r.Lawful) : (respParts r).map List.length = [1, 1, 1, 1, 42] := by
  have hbands := resp_bands_short hr
  have hlen : (respBands r).length = 42 := by
    unfold respBands
    rw [List.length_append, List.length_replicate, flatMap_length _ 3 bandBytes_length]
    omega
  simp only [respParts, List.map_cons, List.map_nil, beBytes_length, hlen]

theorem respBody_length (hr : r.Lawful) : (respBody r).length = 46 := by
  rw [respBody_eq]
  exact report_length (respParts_lengths hr)

theorem respBytes_length (hr : r.Lawful) : (respBytes r).length = 48 := by
  rw [respBytes, List.length_append, respBody_length hr, beBytes_length]

/-- A field of the body, read from the whole. -/
theorem resp_carries (hr : r.Lawful) (j : Nat) {a n v : Nat} (hi : (respParts r)[j]? = some (beBytes n v))
    (ha : (([1, 1, 1, 1, 42] : List Nat).take j).sum = a) (hle : a + n ≤ 46) : Carries (respBytes r) a n v := by
  refine carries_left (by rw [respBody_length hr]; exact hle) ?_
  rw [respBody_eq]
  exact carries_part (respParts_lengths hr) j hi ha

theorem resp_band (hr : r.Lawful) {l : List Band} (hl : r.bands = some l) {k : Nat} {x : Band} (hx : l[k]? = some x) :
    Carries (respBytes r) (4 + 3 * k) 3 (x.first * 2 ^ 14 + x.width * 2 ^ 4 + x.cap) := by
  have hk : k < l.length := (List.getElem?_eq_some_iff.1 hx).1
  have h8 := (hr.2 l hl).1
  have hfield : Carries (respBands r) (3 * k) 3 (x.first * 2 ^ 14 + x.width * 2 ^ 4 + x.cap) := by
    unfold respBands
    rw [hl, Option.getD_some]
    exact carries_flat bandBytes 3 bandBytes_length l _ k x hx 0 3 _ (Nat.le_refl _) carries_end
  have hlen : (respBands r).length = 42 := by
    have h := respParts_lengths hr
    simp only [respParts, List.map_cons, List.map_nil, List.cons.injEq] at h
    exact h.2.2.2.2.1
  refine carries_left (by rw [respBody_length hr]; omega) ?_
  rw [respBody_eq]
  exact carries_at_part (respParts_lengths hr) 4 rfl rfl (by omega) hfield

theorem respStatus_read (st : RespStatus) : RespStatus.ofCode st.code = some st := by
  cases st <;> rfl

theorem respStatus_code_lt (st : RespStatus) : st.code < 256 := by
  cases st <;> decide

theorem respFlags_some (n : Nat) (hn : n ≤ 8) : (BitVec.ofNat 8 (1 * 128 + n)).getLsbD 7 = true ∧
    bitsOf (BitVec.ofNat 8 (1 * 128 + n)).toNat 0 4 = n := by
  revert n
  decide

/-- R31: a RESP body is read back whole. -/
theorem readResp_bytes (hr : r.Lawful) : readResp (respBytes r) = some (r, r.entries.length) := by
  have hbody := respBody_length hr
  have hentries : r.entries.length ≤ 8 := hr.1
  have hcheck : fieldAt 46 2 (respBytes r) == (crc16 (slice 0 46 (respBytes r))).toNat := by
    have hfield := fieldAt_behind (B := []) (m := 2) (v := (crc16 (respBody r)).toNat) hbody (crc16 (respBody r)).isLt
    rw [List.append_nil] at hfield
    have hslice : slice 0 46 (respBytes r) = respBody r := slice_prefix hbody
    rw [hslice]
    exact beq_iff_eq.2 hfield
  have hstatus : (byteAt 0 (respBytes r)).toNat = r.status.code :=
    byteAt_carried_toNat (resp_carries hr 0 rfl rfl (by decide)) (respStatus_code_lt _)
  have hcount : (byteAt 1 (respBytes r)).toNat = r.entries.length :=
    byteAt_carried_toNat (resp_carries hr 1 rfl rfl (by decide)) (by omega)
  have hverdicts : byteAt 2 (respBytes r) = BitVec.ofNat 8 (bitsToNat r.entries) :=
    byteAt_carried (resp_carries hr 2 rfl rfl (by decide))
  have hflags : byteAt 3 (respBytes r) = BitVec.ofNat 8 (r.bands.isSome.toNat * 128 + (r.bands.getD []).length) :=
    byteAt_carried (resp_carries hr 3 rfl rfl (by decide))
  have hbands : (if (byteAt 3 (respBytes r)).getLsbD 7 then
      some (receivedBands 4 (min (bitsOf (byteAt 3 (respBytes r)).toNat 0 4) 8) (respBytes r)) else none) = r.bands := by
    rw [hflags]
    cases hl : r.bands with
    | none => rfl
    | some l =>
      obtain ⟨h8, hlaw⟩ := hr.2 l hl
      obtain ⟨hset, hn⟩ := respFlags_some l.length h8
      have hread := receivedBands_carried (b := respBytes r) (a := 4) hlaw fun k x hx => resp_band hr hl hx
      rw [Option.isSome_some, Bool.toNat_true, Option.getD_some, hset, hn, Nat.min_eq_left h8, hread]
      rfl
  unfold readResp
  rw [if_pos hcheck, hstatus, respStatus_read]
  dsimp only
  rw [hcount, Nat.min_eq_left hentries, hverdicts, bits_read _ hentries, hbands]

end

/-! ### GRID parts (R34) -/

theorem readMap_mapNat (m : Vector (Fin 4) 6) : readMap (mapNat m) = m := by
  apply Vector.ext
  intro i hi
  unfold readMap
  rw [Vector.getElem_ofFn]
  apply Fin.ext
  rw [mapNat_eq]
  have h0 : m[0].val < 4 := m[0].isLt
  have h1 : m[1].val < 4 := m[1].isLt
  have h2 : m[2].val < 4 := m[2].isLt
  have h3 : m[3].val < 4 := m[3].isLt
  have h4 : m[4].val < 4 := m[4].isLt
  have h5 : m[5].val < 4 := m[5].isLt
  unfold bitsOf
  have hslot : i = 0 ∨ i = 1 ∨ i = 2 ∨ i = 3 ∨ i = 4 ∨ i = 5 := by omega
  rcases hslot with rfl | rfl | rfl | rfl | rfl | rfl <;> simp only [Fin.ofNat] <;> omega

theorem mapNat_lt (m : Vector (Fin 4) 6) : mapNat m < 4096 := by
  rw [mapNat_eq]
  omega

/-- The number of eight levels, the first in the highest bits. -/
def levelsNat (a b c d e f g h : Level) : Nat := [a, b, c, d, e, f, g, h].foldl (fun n l => n * 8 + l.val) 0

theorem levelsNat_lt (a b c d e f g h : Level) : levelsNat a b c d e f g h < 16777216 := by
  simp only [levelsNat, List.foldl_cons, List.foldl_nil]
  omega

theorem levelsNat_digits (a b c d e f g h : Level) :
    ((List.range 8).map fun i => (Fin.ofNat 8 (bitsOf (levelsNat a b c d e f g h) (21 - 3 * i) 3) : Level)) = [a, b, c, d, e, f, g, h] := by
  have hrange : List.range 8 = [0, 1, 2, 3, 4, 5, 6, 7] := rfl
  rw [hrange]
  simp only [List.map_cons, List.map_nil, List.cons.injEq, and_true, levelsNat, List.foldl_cons, List.foldl_nil, bitsOf]
  refine ⟨?_, ?_, ?_, ?_, ?_, ?_, ?_, ?_⟩ <;> apply Fin.ext <;> simp only [Fin.ofNat] <;> omega

theorem readLevels_eight (a b c d e f g h : Level) (bytes : List Byte) :
    readLevels (beBytes 3 (levelsNat a b c d e f g h) ++ bytes) = [a, b, c, d, e, f, g, h] ++ readLevels bytes := by
  have hlt := levelsNat_lt a b c d e f g h
  rw [← levelsNat_digits a b c d e f g h]
  generalize levelsNat a b c d e f g h = x at hlt ⊢
  have hx : (BitVec.ofNat 8 (x / 256 ^ 2)).toNat * 65536 + (BitVec.ofNat 8 (x / 256 ^ 1)).toNat * 256 + (BitVec.ofNat 8 (x / 256 ^ 0)).toNat = x := by
    simp only [BitVec.toNat_ofNat]
    omega
  conv => rhs; rw [← hx]
  rfl

theorem levels_read : ∀ (n : Nat) (c : Column), c.length = 8 * n → (levelBytes c).length = 3 * n ∧ readLevels (levelBytes c) = c
  | 0, c, h => by
    rw [List.length_eq_zero_iff.1 h]
    exact ⟨rfl, rfl⟩
  | n + 1, a :: b :: c :: d :: e :: f :: g :: h :: rest, hlen => by
    have hrest : rest.length = 8 * n := by
      simp only [List.length_cons] at hlen
      omega
    obtain ⟨hl, hr⟩ := levels_read n rest hrest
    have hshape : levelBytes (a :: b :: c :: d :: e :: f :: g :: h :: rest) =
        beBytes 3 (levelsNat a b c d e f g h) ++ levelBytes rest := rfl
    rw [hshape, readLevels_eight, hr, List.length_append, hl, beBytes_length]
    exact ⟨by omega, rfl⟩

section
variable (p : GridPart)

/-- The parts of a GRID payload before its check. -/
def gridPartParts : List (List Byte) :=
  [[p.tag], beBytes 1 (p.k + 8 * p.index.val + 32 * p.pair.val), beBytes 2 (mapNat p.map), beBytes 3 p.rate, beBytes 1 0, levelBytes p.column]

theorem gridPartBody_eq : gridPartBody p = (gridPartParts p).flatten := by
  unfold gridPartBody gridPartParts
  simp only [List.flatten_cons, List.flatten_nil, List.append_nil, List.append_assoc]

variable {p}

theorem column_read (hp : p.Lawful) : (levelBytes p.column).length = 288 ∧ readLevels (levelBytes p.column) = p.column :=
  levels_read 96 p.column hp.2.2.2.2.2.2.2

theorem gridPartParts_lengths (hp : p.Lawful) : (gridPartParts p).map List.length = [1, 1, 2, 3, 1, 288] := by
  simp only [gridPartParts, List.map_cons, List.map_nil, beBytes_length, (column_read hp).1, List.length_singleton]

theorem gridPartBody_length (hp : p.Lawful) : (gridPartBody p).length = 296 := by
  rw [gridPartBody_eq]
  exact report_length (gridPartParts_lengths hp)

theorem gridPartBytes_length (hp : p.Lawful) : (gridPartBytes p).length = 300 := by
  rw [gridPartBytes, List.length_append, gridPartBody_length hp, beBytes_length]

theorem gridPart_carries (hp : p.Lawful) (j : Nat) {a n v : Nat} (hi : (gridPartParts p)[j]? = some (beBytes n v))
    (ha : (([1, 1, 2, 3, 1, 288] : List Nat).take j).sum = a) (hle : a + n ≤ 296) : Carries (gridPartBytes p) a n v := by
  refine carries_left (by rw [gridPartBody_length hp]; exact hle) ?_
  rw [gridPartBody_eq]
  exact carries_part (gridPartParts_lengths hp) j hi ha

/-- The levels of a part stand behind its first eight bytes. -/
theorem gridPart_levels (hp : p.Lawful) : slice 8 288 (gridPartBytes p) = levelBytes p.column := by
  have hsplit (tail : List Byte) : gridPartBody p ++ tail = ([p.tag] ++ (beBytes 1 (p.k + 8 * p.index.val + 32 * p.pair.val) ++
      (beBytes 2 (mapNat p.map) ++ (beBytes 3 p.rate ++ beBytes 1 0)))) ++ (levelBytes p.column ++ tail) := by
    unfold gridPartBody
    simp only [List.append_assoc]
  unfold slice
  rw [gridPartBytes, hsplit, List.drop_left' (by simp), ← (column_read hp).1]
  exact List.take_left

/-- The pair, the index and the count of parts in their byte. -/
theorem gridPart_packed {k i q : Nat} (hk : k ≤ 4) (hi : i < 4) (hq : q < 3) :
    k + 8 * i + 32 * q < 256 ∧ bitsOf (k + 8 * i + 32 * q) 0 3 = k ∧ bitsOf (k + 8 * i + 32 * q) 3 2 = i ∧
      bitsOf (k + 8 * i + 32 * q) 5 2 = q := by
  unfold bitsOf
  omega

/-- R34: a part of a grid is read back whole. -/
theorem readGridPart_bytes (hp : p.Lawful) : readGridPart (gridPartBytes p) = some p := by
  have hbody := gridPartBody_length hp
  obtain ⟨htag, hk1, hk4, hidx, hmap, hevery, hrate, hcol⟩ := hp
  have hp : p.Lawful := ⟨htag, hk1, hk4, hidx, hmap, hevery, hrate, hcol⟩
  obtain ⟨hpacked, hk, hi, hq⟩ := gridPart_packed hk4 p.index.isLt p.pair.isLt
  have hcheck : fieldAt 296 4 (gridPartBytes p) = (crc32 (slice 0 296 (gridPartBytes p))).toNat := by
    have hfield := fieldAt_behind (B := []) (m := 4) (v := (crc32 (gridPartBody p)).toNat) hbody (crc32 (gridPartBody p)).isLt
    rw [List.append_nil] at hfield
    have hslice : slice 0 296 (gridPartBytes p) = gridPartBody p := slice_prefix hbody
    rw [hslice]
    exact hfield
  have h0 : byteAt 0 (gridPartBytes p) = p.tag := by
    have hread : byteAt 0 (gridPartBytes p) = BitVec.ofNat 8 p.tag.toNat :=
      byteAt_carried (gridPart_carries hp 0 (congrArg some (byte_single _)) rfl (by decide))
    rw [hread, BitVec.ofNat_toNat, BitVec.setWidth_eq]
  have h1 : (byteAt 1 (gridPartBytes p)).toNat = p.k + 8 * p.index.val + 32 * p.pair.val :=
    byteAt_carried_toNat (gridPart_carries hp 1 rfl rfl (by decide)) hpacked
  have h2 : fieldAt 2 2 (gridPartBytes p) = mapNat p.map :=
    fieldAt_carried_lt (gridPart_carries hp 2 rfl rfl (by decide)) (by have := mapNat_lt p.map; omega)
  have h4 : fieldAt 4 3 (gridPartBytes p) = p.rate :=
    fieldAt_carried_lt (gridPart_carries hp 3 rfl rfl (by decide)) (Nat.lt_of_le_of_lt hrate (by decide))
  have hcolumns : (List.finRange 6).all (fun s => decide (p.map[s].val < p.k)) = true :=
    List.all_eq_true.2 fun m _ => decide_eq_true (hmap m)
  have hnamed : (List.range p.k).all (fun c => (List.finRange 6).any fun s => p.map[s].val == c) = true := by
    refine List.all_eq_true.2 fun c hc => List.any_eq_true.2 ?_
    have hlt := List.mem_range.1 hc
    obtain ⟨m, hm⟩ := hevery ⟨c, by omega⟩ hlt
    exact ⟨m, List.mem_finRange m, beq_iff_eq.2 (congrArg Fin.val hm)⟩
  unfold readGridPart
  simp only [h1, h2, hk, hi, hq, readMap_mapNat, h0, h4, gridPart_levels hp, (column_read hp).2]
  rw [dif_pos ⟨p.pair.isLt, p.index.isLt⟩, if_pos]
  simp only [Bool.and_eq_true, beq_iff_eq, bne_iff_ne, decide_eq_true_eq]
  exact ⟨⟨⟨⟨hcheck, htag⟩, hk1, hk4, hidx⟩, hcolumns⟩, hnamed⟩

end

/-! ### NOTEs (R35) -/

section
variable (p : NotePayload)

/-- The parts of a NOTE before its check. -/
def noteParts : List (List Byte) :=
  [beBytes 1 p.relay.toNat, beBytes 1 p.bands.length, beBytes 1 p.items.length, beBytes 1 0, p.bands.flatMap bandBytes,
    p.items.flatMap noteItemBytes]

theorem noteBody_eq : noteBody p = (noteParts p).flatten := by
  unfold noteBody noteParts
  rw [← List.flatMap_def, ← List.flatMap_def]
  simp only [List.flatten_cons, List.flatten_nil, List.append_nil, List.append_assoc]

theorem noteItemBytes_length (x : NoteItem) : (noteItemBytes x).length = 11 := by
  unfold noteItemBytes
  cases x.request <;> simp [addrBytes]

theorem noteParts_lengths : (noteParts p).map List.length = [1, 1, 1, 1, 3 * p.bands.length, 11 * p.items.length] := by
  simp only [noteParts, List.map_cons, List.map_nil, beBytes_length, flatMap_length _ 3 bandBytes_length,
    flatMap_length _ 11 noteItemBytes_length]

theorem noteBody_length : (noteBody p).length = 4 + 3 * p.bands.length + 11 * p.items.length := by
  rw [noteBody_eq, report_length (noteParts_lengths p)]
  simp only [List.sum_cons, List.sum_nil]
  omega

theorem noteBytes_length : (noteBytes p).length = 8 + 3 * p.bands.length + 11 * p.items.length := by
  rw [noteBytes, List.length_append, noteBody_length, beBytes_length]
  omega

variable {p} {rest : List Byte}

theorem note_carries (j : Nat) {a n v : Nat} (hi : (noteParts p)[j]? = some (beBytes n v)) (hj : j ≤ 4)
    (ha : (([1, 1, 1, 1] : List Nat).take j).sum = a) (hle : a + n ≤ 4) : Carries (noteBytes p ++ rest) a n v := by
  have hplace : (([1, 1, 1, 1, 3 * p.bands.length, 11 * p.items.length] : List Nat).take j).sum = a := by
    rw [← ha]
    exact congrArg List.sum (List.take_append_of_le_length (l₁ := [1, 1, 1, 1]) hj)
  unfold noteBytes
  rw [List.append_assoc]
  refine carries_left (by rw [noteBody_length]; omega) ?_
  rw [noteBody_eq]
  exact carries_part (noteParts_lengths p) j hi hplace

theorem note_band {k : Nat} {x : Band} (hx : p.bands[k]? = some x) :
    Carries (noteBytes p ++ rest) (4 + 3 * k) 3 (x.first * 2 ^ 14 + x.width * 2 ^ 4 + x.cap) := by
  have hk : k < p.bands.length := (List.getElem?_eq_some_iff.1 hx).1
  have hfield := carries_flat bandBytes 3 bandBytes_length p.bands [] k x hx 0 3 _ (Nat.le_refl _) carries_end
  rw [List.append_nil] at hfield
  unfold noteBytes
  rw [List.append_assoc]
  refine carries_left (by rw [noteBody_length]; omega) ?_
  rw [noteBody_eq]
  exact carries_at_part (noteParts_lengths p) 4 rfl rfl (by rw [flatMap_length _ 3 bandBytes_length]; omega) hfield

/-- A field of an item of a NOTE. -/
theorem note_item {k a n v : Nat} {x : NoteItem} (hx : p.items[k]? = some x) (ha : a + n ≤ 11) (w : Carries (noteItemBytes x) a n v) :
    Carries (noteBytes p ++ rest) (4 + 3 * p.bands.length + 11 * k + a) n v := by
  have hk : k < p.items.length := (List.getElem?_eq_some_iff.1 hx).1
  have hfield := carries_flat noteItemBytes 11 noteItemBytes_length p.items [] k x hx a n v ha w
  rw [List.append_nil] at hfield
  have hplace : (([1, 1, 1, 1, 3 * p.bands.length, 11 * p.items.length] : List Nat).take 5).sum = 4 + 3 * p.bands.length := by
    simp only [List.take_succ_cons, List.take_zero, List.sum_cons, List.sum_nil]
    omega
  unfold noteBytes
  rw [List.append_assoc]
  refine carries_left (by rw [noteBody_length]; omega) ?_
  rw [noteBody_eq]
  refine carries_at (Nat.add_assoc _ _ _) ?_
  exact carries_at_part (noteParts_lengths p) 5 rfl hplace (by rw [flatMap_length _ 11 noteItemBytes_length]; omega) hfield

theorem noteItem_shape (x : NoteItem) : ∃ flags slots, noteItemBytes x = addrBytes x.addr ++ (beBytes 3 x.rate ++ (beBytes 1 flags ++ beBytes 1 slots)) ∧
    (x.request = none → flags = 0) ∧ ∀ q, x.request = some q → flags = 128 + q.pair.val ∧ slots = q.slots.toNat := by
  unfold noteItemBytes
  simp only [List.append_assoc]
  cases x.request with
  | none => exact ⟨0, 0, rfl, fun _ => rfl, nofun⟩
  | some q => exact ⟨_, _, rfl, nofun, fun q' h => by cases h; exact ⟨rfl, rfl⟩⟩

/-- R35: the byte of a request that names a pair. -/
theorem requestFlags (q : Pair) : (BitVec.ofNat 8 (128 + q.val)).getLsbD 7 = true ∧ bitsOf (BitVec.ofNat 8 (128 + q.val)).toNat 0 2 = q.val := by
  revert q
  decide

theorem noteItemAt_carried {k : Nat} {x : NoteItem} (hx : p.items[k]? = some x) (hrate : x.rate ≤ Config.maxRate)
    (hslots : ∀ q, x.request = some q → q.slots ≠ 0#6) :
    noteItemAt (4 + 3 * p.bands.length + 11 * k) (noteBytes p ++ rest) = x := by
  obtain ⟨flags, slots, hshape, hnone, hsome⟩ := noteItem_shape x
  have hfield {a n v : Nat} (ha : a + n ≤ 11) (w : Carries (addrBytes x.addr ++ (beBytes 3 x.rate ++ (beBytes 1 flags ++ beBytes 1 slots))) a n v) :
      Carries (noteBytes p ++ rest) (4 + 3 * p.bands.length + 11 * k + a) n v := note_item hx ha (by rw [hshape]; exact w)
  have h1 := addrAt_carried (hfield (a := 0) (n := 6) (by omega) carries_here)
  have h2 := fieldAt_carried_lt (hfield (a := 6) (n := 3) (by omega) ((carries_be (Nat.le_refl _)).2 carries_here))
    (Nat.lt_of_le_of_lt hrate (by decide))
  have h3 := byteAt_carried (hfield (a := 9) (by omega) ((carries_be (by omega)).2 ((carries_be (Nat.le_refl _)).2 carries_here)))
  have h4 := byteAt_carried (hfield (a := 10) (by omega)
    ((carries_be (by omega)).2 ((carries_be (by omega)).2 ((carries_be (Nat.le_refl _)).2 carries_end))))
  rw [Nat.add_zero] at h1
  unfold noteItemAt
  rw [h1, h2, h3, h4, Nat.min_eq_left hrate]
  obtain ⟨addr, rate, request⟩ := x
  refine congrArg (NoteItem.mk addr rate) ?_
  cases request with
  | none =>
    rw [hnone rfl]
    rfl
  | some q =>
    obtain ⟨rfl, rfl⟩ := hsome q rfl
    obtain ⟨hset, hpair⟩ := requestFlags q.pair
    have htrunc : (BitVec.ofNat 8 q.slots.toNat).truncate 6 = q.slots := by
      apply BitVec.eq_of_toNat_eq
      have := q.slots.isLt
      simp only [BitVec.truncate_eq_setWidth, BitVec.toNat_setWidth, BitVec.toNat_ofNat]
      omega
    simp only [hset, hpair, htrunc, Bool.true_and, bne_iff_ne]
    rw [dif_pos q.pair.isLt, if_pos (hslots q rfl)]

/-- R35: a NOTE is read back whole, whatever follows it. -/
theorem readNote_bytes {n : Nat} (hp : p.Lawful) (hn : 8 + 3 * p.bands.length + 11 * p.items.length ≤ 24 * n) :
    readNote n (noteBytes p ++ rest) = some p := by
  obtain ⟨hbands, hlaw, hitems, hlawful⟩ := hp
  have h0 : (byteAt 0 (noteBytes p ++ rest)).getLsbD 0 = p.relay := by
    have hread : byteAt 0 (noteBytes p ++ rest) = BitVec.ofNat 8 p.relay.toNat :=
      byteAt_carried (note_carries 0 rfl (by decide) rfl (by decide))
    rw [hread]
    cases p.relay <;> rfl
  have h1 : (byteAt 1 (noteBytes p ++ rest)).toNat = p.bands.length :=
    byteAt_carried_toNat (note_carries 1 rfl (by decide) rfl (by decide)) (by omega)
  have h2 : (byteAt 2 (noteBytes p ++ rest)).toNat = p.items.length :=
    byteAt_carried_toNat (note_carries 2 rfl (by decide) rfl (by decide)) (by omega)
  have hcheck : fieldAt (4 + 3 * p.bands.length + 11 * p.items.length) 4 (noteBytes p ++ rest) =
      (crc32 (slice 0 (4 + 3 * p.bands.length + 11 * p.items.length) (noteBytes p ++ rest))).toNat := by
    have hsplit : noteBytes p ++ rest = noteBody p ++ (beBytes 4 (crc32 (noteBody p)).toNat ++ rest) := by
      rw [noteBytes, List.append_assoc]
    rw [hsplit, slice_prefix (noteBody_length p)]
    exact fieldAt_behind (noteBody_length p) (crc32 (noteBody p)).isLt
  have hread : ((List.range p.items.length).map fun i => noteItemAt (4 + 3 * p.bands.length + 11 * i) (noteBytes p ++ rest)) = p.items := by
    apply List.ext_getElem
    · simp
    · intro i hi1 hi2
      rw [List.getElem_map, List.getElem_range]
      obtain ⟨-, hrate, hslots⟩ := hlawful _ (List.getElem_mem hi2)
      exact noteItemAt_carried (List.getElem?_eq_getElem hi2) hrate hslots
  have hkept : (p.items.filter fun i => i.addr != Addr.broadcast) = p.items :=
    List.filter_eq_self.2 fun x hx => bne_iff_ne.2 (hlawful x hx).1
  unfold readNote
  rw [h1, h2]
  dsimp only
  rw [hread, hkept, h0, receivedBands_carried hlaw fun k x hx => note_band hx, if_pos]
  simp only [Bool.and_eq_true, decide_eq_true_eq, beq_iff_eq]
  exact ⟨⟨hbands, hitems, hn⟩, hcheck⟩

end

/-- R20: a robust symbol holds 24 bytes. -/
theorem robust_infoBytes (n : Nat) : Loading.robust.infoBytes n = 24 * n := by
  have hcapacity : Loading.robust.capacity n = n * 384 := List.sum_replicate_nat
  unfold Loading.infoBytes
  dsimp only
  rw [hcapacity]
  omega

/-- Settles O60: the control payloads have their lengths and are read back whole. -/
theorem controlPayloadsRoundTrip : Obligations.ControlPayloadsRoundTrip :=
  ⟨fun _ hr => ⟨respBytes_length hr, readResp_bytes hr⟩, fun _ hp => ⟨gridPartBytes_length hp, readGridPart_bytes hp⟩,
    fun p _ _ hp hn => ⟨noteBytes_length p, readNote_bytes hp hn⟩,
    fun n b => by rw [Loading.fill, robust_infoBytes]⟩

end Sys2Proof.Machine
end

/-! ## Proofs: headers are read back whole, and the signal on the line (O58) -/

section
namespace Sys2Proof.Machine

/-! ### Headers (R24) -/

section
variable (h : Header)

/-- The byte of a header's pair, priority and two flags. -/
def Header.packed (h : Header) : Nat := h.pair.val + 4 * h.priority.val + 16 * h.trusted.toNat + 32 * h.floor.toNat

/-- The parts of a header before its check. -/
def headerParts : List (List Byte) :=
  [beBytes 1 h.kind.code, beBytes 2 h.house.toNat, addrBytes h.tx, addrBytes h.rx, beBytes 1 h.packed, beBytes 2 h.phase.toNat, [h.tag],
    beBytes 1 h.symbols, beBytes 2 (h.segments * 4096 + h.floorSeq.toNat)]

/-- The lengths of these parts. -/
def headerLengths : List Nat := [1, 2, 6, 6, 1, 2, 1, 1, 2]

theorem headerBody_eq : headerBody h = (headerParts h).flatten := by
  unfold headerBody headerParts Header.packed
  simp only [List.flatten_cons, List.flatten_nil, List.append_nil, List.append_assoc]

theorem headerParts_lengths : (headerParts h).map List.length = headerLengths := by
  simp only [headerParts, headerLengths, addrBytes, List.map_cons, List.map_nil, beBytes_length, List.length_singleton]

theorem headerBody_length : (headerBody h).length = 22 := by
  rw [headerBody_eq]
  exact report_length (headerParts_lengths h)

theorem headerBytes_length : (headerBytes h).length = 24 := by
  rw [headerBytes, List.length_append, headerBody_length, beBytes_length]

variable {h}

theorem header_carries (j : Nat) {a n v : Nat} (hi : (headerParts h)[j]? = some (beBytes n v)) (ha : (headerLengths.take j).sum = a)
    (hle : a + n ≤ 22) : Carries (headerBytes h) a n v := by
  refine carries_left (by rw [headerBody_length]; exact hle) ?_
  rw [headerBody_eq]
  exact carries_part (headerParts_lengths h) j hi ha

theorem headerCheck_bytes : headerCheck (headerBytes h) = true := by
  have hfield := fieldAt_behind (B := []) (m := 2) (v := (crc16 (headerBody h)).toNat) (headerBody_length h) (crc16 (headerBody h)).isLt
  rw [List.append_nil] at hfield
  have hslice : slice 0 22 (headerBytes h) = headerBody h := slice_prefix (headerBody_length h)
  unfold headerCheck
  rw [hslice]
  exact beq_iff_eq.2 hfield

theorem frameKind_read (k : FrameKind) : FrameKind.ofCode k.code = some k := by
  cases k <;> rfl

theorem frameKind_code_lt (k : FrameKind) : k.code < 256 := by
  cases k <;> decide

theorem header_kind : FrameKind.ofCode (byteAt 0 (headerBytes h)).toNat = some h.kind := by
  have hread : (byteAt 0 (headerBytes h)).toNat = h.kind.code :=
    byteAt_carried_toNat (header_carries 0 rfl rfl (by decide)) (frameKind_code_lt _)
  rw [hread, frameKind_read]

theorem packed_fields : ∀ (p : Pair) (q : Fin 4) (t f : Bool), let x := BitVec.ofNat 8 (p.val + 4 * q.val + 16 * t.toNat + 32 * f.toNat)
    bitsOf x.toNat 0 2 = p.val ∧ (Fin.ofNat 4 (bitsOf x.toNat 2 2) : Fin 4) = q ∧ x.getLsbD 4 = t ∧ x.getLsbD 5 = f := by
  decide

theorem header_packed : let x := byteAt 15 (headerBytes h)
    bitsOf x.toNat 0 2 = h.pair.val ∧ (Fin.ofNat 4 (bitsOf x.toNat 2 2) : Fin 4) = h.priority ∧ x.getLsbD 4 = h.trusted ∧
      x.getLsbD 5 = h.floor := by
  have hread : byteAt 15 (headerBytes h) = BitVec.ofNat 8 h.packed := byteAt_carried (header_carries 4 rfl rfl (by decide))
  intro x
  have hx : x = BitVec.ofNat 8 h.packed := hread
  rw [hx]
  exact packed_fields h.pair h.priority h.trusted h.floor

theorem countsLawful_le {k : FrameKind} {n g : Nat} (hc : countsLawful k n g = true) : n ≤ 96 ∧ g ≤ 8 := by
  cases k <;> simp [countsLawful] at hc <;> omega

/-- R24, R210: a lawful header is read back whole. -/
theorem readHeader_bytes {copyPair : Pair} (hh : h.Lawful) (hcopy : h.kind = .sound → h.pair = copyPair) :
    readHeader copyPair (headerBytes h) = some h := by
  obtain ⟨hcounts, hbroadcast, htag, hfloor⟩ := hh
  obtain ⟨hsymbols, hsegments⟩ := countsLawful_le hcounts
  obtain ⟨hp, hq, ht, hf⟩ := header_packed (h := h)
  have hhouse : BitVec.ofNat 16 (fieldAt 1 2 (headerBytes h)) = h.house := by
    have hread : fieldAt 1 2 (headerBytes h) = h.house.toNat := fieldAt_carried_lt (header_carries 1 rfl rfl (by decide)) h.house.isLt
    rw [hread, BitVec.ofNat_toNat, BitVec.setWidth_eq]
  have htx : addrAt 3 (headerBytes h) = h.tx := addrAt_carried (header_carries 2 rfl rfl (by decide))
  have hrx : addrAt 9 (headerBytes h) = h.rx := addrAt_carried (header_carries 3 rfl rfl (by decide))
  have hphase : BitVec.ofNat 10 (fieldAt 16 2 (headerBytes h)) = h.phase := by
    have hread : fieldAt 16 2 (headerBytes h) = h.phase.toNat :=
      fieldAt_carried_lt (header_carries 5 rfl rfl (by decide)) (Nat.lt_of_lt_of_le h.phase.isLt (by decide))
    rw [hread, BitVec.ofNat_toNat, BitVec.setWidth_eq]
  have htagRead : byteAt 18 (headerBytes h) = h.tag := by
    have hread : byteAt 18 (headerBytes h) = BitVec.ofNat 8 h.tag.toNat :=
      byteAt_carried (header_carries 6 (congrArg some (byte_single _)) rfl (by decide))
    rw [hread, BitVec.ofNat_toNat, BitVec.setWidth_eq]
  have hsymbolsRead : (byteAt 19 (headerBytes h)).toNat = h.symbols :=
    byteAt_carried_toNat (header_carries 7 rfl rfl (by decide)) (by omega)
  have hseq := h.floorSeq.isLt
  have hlast : fieldAt 20 2 (headerBytes h) = h.segments * 4096 + h.floorSeq.toNat :=
    fieldAt_carried_lt (header_carries 8 rfl rfl (by decide)) (by omega)
  have hsegmentsRead : bitsOf (fieldAt 20 2 (headerBytes h)) 12 4 = h.segments := by
    rw [hlast]
    unfold bitsOf
    omega
  have hseqRead : BitVec.ofNat 12 (fieldAt 20 2 (headerBytes h)) = h.floorSeq := by
    apply BitVec.eq_of_toNat_eq
    rw [hlast, BitVec.toNat_ofNat]
    omega
  have hcond : (countsLawful h.kind h.symbols h.segments && ((h.rx == Addr.broadcast) == (h.kind == .sound || h.kind == .note)) &&
      (h.tag == 0#8 || h.kind == .data) && (!h.floor || (h.kind == .data && h.tag != 0#8)) &&
      (h.kind != .sound || h.pair == copyPair)) = true := by
    have h1 : ((h.rx == Addr.broadcast) == (h.kind == .sound || h.kind == .note)) = true := by
      rw [beq_iff_eq, Bool.eq_iff_iff, beq_iff_eq, Bool.or_eq_true, beq_iff_eq, beq_iff_eq]
      exact hbroadcast
    have h2 : (h.tag == 0#8 || h.kind == .data) = true := by
      rw [Bool.or_eq_true, beq_iff_eq, beq_iff_eq]
      exact htag
    have h3 : (!h.floor || (h.kind == .data && h.tag != 0#8)) = true := by
      cases hfl : h.floor with
      | false => rfl
      | true =>
        rw [Bool.not_true, Bool.false_or, Bool.and_eq_true, beq_iff_eq, bne_iff_ne]
        exact hfloor hfl
    have h4 : (h.kind != .sound || h.pair == copyPair) = true := by
      rw [Bool.or_eq_true, bne_iff_ne, beq_iff_eq]
      exact (Decidable.em (h.kind = .sound)).symm.imp id hcopy
    rw [hcounts, h1, h2, h3, h4]
    rfl
  unfold readHeader
  rw [header_kind]
  dsimp only
  simp only [hp, hq, ht, hf, hhouse, htx, hrx, hphase, htagRead, hsymbolsRead, hsegmentsRead, hseqRead]
  rw [dif_pos h.pair.isLt]
  exact if_pos hcond

/-- R24, R36: a SOUND's header is not read on the copy of another pair. -/
theorem readHeader_other {copyPair : Pair} (hk : h.kind = .sound) (hp : h.pair ≠ copyPair) :
    readHeader copyPair (headerBytes h) = none := by
  obtain ⟨hpair, -, -, -⟩ := header_packed (h := h)
  unfold readHeader
  rw [header_kind, hk]
  dsimp only
  simp only [hpair]
  rw [dif_pos h.pair.isLt]
  refine if_neg ?_
  simp [hp]

end

/-! ### The robust map and the placing of bits (R19, R20) -/

theorem robustSymbol_length (coded : List Bool) : (robustSymbol coded).length = 768 := by
  rw [robustSymbol, List.length_map, List.length_range]
  rfl

theorem robustSymbol_carrier (coded : List Bool) {g j : Nat} (hg : g < 192) (hj : j < 4) :
    (robustSymbol coded)[g + 192 * j]? = some (.bits ((coded.drop (2 * g)).take 2)) := by
  have hlt : g + 192 * j < Config.carriers := by
    show g + 192 * j < 768
    omega
  have hgroup : groupOfCarrier (g + 192 * j) = g := by
    show (g + 192 * j) % 192 = g
    omega
  rw [robustSymbol, List.getElem?_map, List.getElem?_range hlt, Option.map_some, hgroup]

theorem live_copies (copies : List CarrierCopy) : (copies.filter fun c => !erased c.energy) =
    copies.filter fun x => decide (Config.silenceThreshold ≤ x.energy) :=
  List.filter_congr fun c _ => by
    unfold erased
    rw [← decide_not]
    exact decide_eq_decide.2 Nat.not_lt

theorem combineGroup_erased {copies : List CarrierCopy} (h : ∀ c ∈ copies, c.energy < Config.silenceThreshold) :
    combineGroup copies = none := by
  have hnone : (copies.filter fun c => !erased c.energy) = [] :=
    List.filter_eq_nil_iff.2 fun c hc => by rw [erased, decide_eq_true (h c hc)]; exact Bool.false_ne_true
  unfold combineGroup
  dsimp only
  rw [hnone]
  rfl

theorem combineGroup_live {copies : List CarrierCopy} {c : CarrierCopy} (hc : c ∈ copies) (h : Config.silenceThreshold ≤ c.energy) :
    let live := copies.filter fun x => decide (Config.silenceThreshold ≤ x.energy)
    combineGroup copies = some ((live.map fun x => (x.energy : Int) * x.soft.1).sum,
      (live.map fun x => (x.energy : Int) * x.soft.2).sum) := by
  intro live
  have hmem : c ∈ live := List.mem_filter.2 ⟨hc, decide_eq_true h⟩
  unfold combineGroup
  dsimp only
  rw [live_copies]
  exact if_neg fun hempty => List.ne_nil_of_mem hmem (List.isEmpty_iff.1 hempty)

theorem placeBits_carrier : ∀ (x : Column) (coded : List Bool) (k : Nat) (l : Level), x[k]? = some l →
    (placeBits x coded)[k]? = some (if l.bits = 0 then .silent else .bits ((coded.drop (columnSum (x.take k))).take l.bits))
  | [], _, _, _, h => nomatch h
  | y :: rest, coded, 0, l, h => by
    obtain rfl : y = l := Option.some.inj h
    rfl
  | y :: rest, coded, k + 1, l, h => by
    have ih := placeBits_carrier rest (coded.drop y.bits) k l h
    rw [List.drop_drop] at ih
    rw [List.take_succ_cons]
    exact ih

/-! ### The signal of a frame (R19, R21) -/

section
variable {s : State} {f : TxFrame}

theorem silence_eq (bands : List Band) (signal : List CarrierSignal) : silence bands signal =
    signal.zipIdx.map fun x => if capOf bands x.2 = 0 then CarrierSignal.silent else x.1 :=
  List.map_congr_left fun _ _ => ite_of_iff beq_iff_eq rfl rfl

theorem lineOutput_idle (h : s.line.sending = none) : s.lineOutput = none := by
  unfold State.lineOutput
  rw [h]

theorem lineOutput_part {p : FramePart} (hf : s.line.sending = some f)
    (hp : framePart f.header.payloadSymbols (f.start.dist s.lineTime) = some p) :
    s.lineOutput = some (f.header.pair,
      (f.part p).zipIdx.map fun x => if capOf s.settings.bands x.2 = 0 then CarrierSignal.silent else x.1) := by
  unfold State.lineOutput
  rw [hf]
  dsimp only
  rw [hp, Option.map_some, silence_eq]

theorem lineOutput_over (hf : s.line.sending = some f) (hp : framePart f.header.payloadSymbols (f.start.dist s.lineTime) = none) :
    s.lineOutput = none := by
  unfold State.lineOutput
  rw [hf]
  dsimp only
  rw [hp]
  rfl

variable {n d i : Nat}

theorem framePart_preamble (h : d < 64) : framePart n d = some .preamble := if_pos h

theorem framePart_header (hi : i < 4) (h1 : 64 + 32 * i ≤ d) (h2 : d < 96 + 32 * i) : framePart n d = some (.header i) := by
  have hindex : (d - 64) / 32 = i := by omega
  unfold framePart
  rw [if_neg (by omega), if_pos (by omega), hindex]

theorem framePart_payload (hi : i < n) (h1 : 192 + 32 * i ≤ d) (h2 : d < 224 + 32 * i) : framePart n d = some (.payload i) := by
  have hindex : (d - 192) / 32 = i := by omega
  unfold framePart
  rw [if_neg (by omega), if_neg (by omega), if_pos (by omega), hindex]

theorem framePart_over (h : 192 + 32 * n ≤ d) : framePart n d = none := by
  unfold framePart
  rw [if_neg (by omega), if_neg (by omega), if_neg (by omega)]

theorem payloadSymbol_robust (h : f.loading = .robust) : f.part (.payload i) = robustSymbol (codedRun .half f.payload (384 * i) 384) := by
  unfold TxFrame.part TxFrame.payloadSymbol
  rw [h]
  rfl

theorem payloadSymbol_sounding (h : f.loading = .sounding) : f.part (.payload i) = List.replicate 768 .known := by
  unfold TxFrame.part TxFrame.payloadSymbol
  rw [h]
  rfl

end

/-! ### Reception (R20, R110, R119, R120) -/

section
variable {α β : Type}

theorem pairs_length (f g : α → β) (l : List α) : (l.flatMap fun x => [f x, g x]).length = 2 * l.length := by
  induction l with
  | nil => rfl
  | cons x l ih =>
    rw [List.flatMap_cons, List.length_append, ih, List.length_cons]
    simp only [List.length_cons, List.length_nil]
    omega

theorem pairs_getElem (f g : α → β) (l : List α) (k : Nat) (x : α) (hx : l[k]? = some x) :
    (l.flatMap fun x => [f x, g x])[2 * k]? = some (f x) ∧ (l.flatMap fun x => [f x, g x])[2 * k + 1]? = some (g x) := by
  induction l generalizing k with
  | nil => cases hx
  | cons y l ih =>
    cases k with
    | zero =>
      obtain rfl : y = x := Option.some.inj hx
      exact ⟨rfl, rfl⟩
    | succ k => exact ih k hx

theorem zipIdx_flatMap (f : α → List β) (l : List α) : (l.zipIdx.flatMap fun x => f x.1) = l.flatMap f := by
  conv => rhs; rw [← List.zipIdx_map_fst 0 l]
  rw [List.flatMap_map]

/-- A walk by index through a second list of the same length walks through both. -/
theorem zipIdx_flatMap_zip {γ : Type} (f : α → Option γ → List β) (l : List α) (cols : List γ) (h : cols.length = l.length) :
    (l.zipIdx.flatMap fun x => f x.1 cols[x.2]?) = (l.zip cols).flatMap fun x => f x.1 (some x.2) := by
  have hmaps : (l.zipIdx.map fun x => f x.1 cols[x.2]?) = (l.zip cols).map fun x => f x.1 (some x.2) := by
    apply List.ext_getElem
    · simp [h]
    · intro i h1 h2
      have hi : i < cols.length := by
        rw [List.length_map, List.length_zipIdx] at h1
        omega
      simp [List.getElem?_eq_getElem hi]
  rw [List.flatMap_def, hmaps, ← List.flatMap_def]

end

section
variable {r : Reception} {p : Pair} {symbol : List (List Int)}

theorem robustBits_length : (r.robustBits p symbol).length = 384 := by
  unfold Reception.robustBits combineRobust
  rw [pairs_length, List.length_map, List.length_range]
  rfl

theorem robustBits_group {g : Nat} (hg : g < 192) :
    let group := combineGroup ((List.range 4).map fun j => r.copyAt p symbol (g + 192 * j))
    (r.robustBits p symbol)[2 * g]? = some (group.map (·.1)) ∧ (r.robustBits p symbol)[2 * g + 1]? = some (group.map (·.2)) := by
  have hindex : (combineRobust (r.copyAt p symbol))[g]? = some (combineGroup ((groupCarriers g).map (r.copyAt p symbol))) := by
    rw [combineRobust, List.getElem?_map, List.getElem?_range (by exact hg), Option.map_some]
  have hgroup : (groupCarriers g).map (r.copyAt p symbol) = (List.range 4).map fun j => r.copyAt p symbol (g + 192 * j) := by
    rw [groupCarriers, List.map_map]
    rfl
  rw [hgroup] at hindex
  exact pairs_getElem _ _ _ g _ hindex

/-- The bits of the carriers before one, and its own. -/
theorem columnBits_walk {β : Type} (f : Nat → Nat → β) : ∀ (x : Column) (start k : Nat) (l : Level) (i : Nat), x[k]? = some l → i < l.bits →
    ((x.zipIdx start).flatMap fun y => (List.range y.1.bits).map (f y.2))[columnSum (x.take k) + i]? = some (f (start + k) i)
  | [], _, _, _, _, h, _ => nomatch h
  | y :: rest, start, 0, l, i, h, hi => by
    obtain rfl : y = l := Option.some.inj h
    rw [List.zipIdx_cons, List.flatMap_cons, List.take_zero, List.getElem?_append_left (by simpa [columnSum] using hi)]
    simp [columnSum, List.getElem?_range hi]
  | y :: rest, start, k + 1, l, i, h, hi => by
    have ih := columnBits_walk f rest (start + 1) k l i h hi
    have hsum : columnSum ((y :: rest).take (k + 1)) = y.bits + columnSum (rest.take k) := by
      rw [List.take_succ_cons]
      rfl
    rw [List.zipIdx_cons, List.flatMap_cons, hsum, List.getElem?_append_right 
      (by rw [List.length_map, List.length_range]; exact Nat.le_add_right_of_le (Nat.le_add_right _ _)), List.length_map, List.length_range, Nat.add_assoc, Nat.add_sub_cancel_left, ih, Nat.add_right_comm]
    rfl

theorem columnBits_carrier {x : Column} {k : Nat} {l : Level} {i : Nat} (hx : x[k]? = some l) (hi : i < l.bits) :
    (r.columnBits p x symbol)[columnSum (x.take k) + i]? =
      some (if (r.energies.getD p.val []).getD k 0 < Config.silenceThreshold then none else some ((symbol.getD k []).getD i 0)) := by
  have hwalk := columnBits_walk (fun k i => if erased ((r.energies.getD p.val []).getD k 0) then none else some ((symbol.getD k []).getD i 0))
    x 0 k l i hx hi
  rw [Nat.zero_add] at hwalk
  exact hwalk.trans (congrArg some (ite_of_iff decide_eq_true_iff rfl rfl))

variable {h : Header} {res : Resolution} {l : Latched} {symbols : List (List (List Int))}

theorem symbolMap_robust (hr : r.header = .used h .processed res)
    (hk : h.kind = .grid ∨ h.kind = .resp ∨ h.kind = .note ∨ (h.kind = .data ∧ res = .robust)) (i : Nat) : r.symbolMap i = some .robust := by
  unfold Reception.symbolMap
  rw [hr]
  rcases hk with hk | hk | hk | ⟨hk, rfl⟩ <;> simp only [hk]

theorem rate_half (hr : r.header = .used h .processed res) (hn : ∀ l, res ≠ .latched l) : r.rate = .half := by
  unfold Reception.rate
  rw [hr]
  cases res with
  | latched l => exact absurd rfl (hn l)
  | robust => rfl
  | unresolved => rfl

theorem rate_latched (hr : r.header = .used h .processed (.latched l)) : r.rate = .threeQuarters := by
  unfold Reception.rate
  rw [hr]

theorem payloadBytes_used (hr : r.header = .used h .processed res) :
    r.payloadBytes (.soft symbols) = Config.decoded r.rate (symbols.zipIdx.flatMap fun x => r.symbolBits h.pair x.1 x.2) := by
  unfold Reception.payloadBytes
  dsimp only
  rw [hr]

theorem payloadBytes_robust (hr : r.header = .used h .processed res)
    (hk : h.kind = .grid ∨ h.kind = .resp ∨ h.kind = .note ∨ (h.kind = .data ∧ res = .robust)) (hn : ∀ l, res ≠ .latched l) :
    r.payloadBytes (.soft symbols) = Config.decoded .half (symbols.flatMap (r.robustBits h.pair)) := by
  have hbits (x : List (List Int) × Nat) : r.symbolBits h.pair x.1 x.2 = r.robustBits h.pair x.1 := by
    unfold Reception.symbolBits
    rw [symbolMap_robust hr hk]
  simp only [payloadBytes_used hr, rate_half hr hn, hbits, zipIdx_flatMap]

theorem payloadBytes_floor (hr : r.header = .used h .processed (.latched l)) (hk : h.kind = .data) (hf : h.floor = true) :
    r.payloadBytes (.soft symbols) = Config.decoded .threeQuarters (symbols.flatMap (r.columnBits h.pair l.grid.floorColumn)) := by
  have hbits (x : List (List Int) × Nat) : r.symbolBits h.pair x.1 x.2 = r.columnBits h.pair l.grid.floorColumn x.1 := by
    have hmap : r.symbolMap x.2 = some (.column l.grid.floorColumn) := by
      unfold Reception.symbolMap
      rw [hr]
      simp only [hk, hf]
      rfl
    unfold Reception.symbolBits
    rw [hmap]
  simp only [payloadBytes_used hr, rate_latched hr, hbits, zipIdx_flatMap]

/-- The bits of a symbol whose column was taken, if one was. -/
def Reception.bitsOfColumn (r : Reception) (p : Pair) (g : Grid) (symbol : List (List Int)) (c : Option (Fin 4)) : List (Option Int) :=
  (c.map fun c => r.columnBits p ((g.columns.getD c.val none).getD []) symbol).getD []

theorem payloadBytes_perSlot (hr : r.header = .used h .processed (.latched l)) (hk : h.kind = .data) (hf : h.floor = false)
    (hlen : r.columns.length = symbols.length) :
    r.payloadBytes (.soft symbols) = Config.decoded .threeQuarters ((symbols.zip r.columns).flatMap fun x =>
      r.columnBits h.pair ((l.grid.columns.getD x.2.val none).getD []) x.1) := by
  have hbits (x : List (List Int) × Nat) : r.symbolBits h.pair x.1 x.2 = r.bitsOfColumn h.pair l.grid x.1 (r.columns[x.2]?) := by
    have hmap : r.symbolMap x.2 = r.columns[x.2]?.map fun c => .column ((l.grid.columns.getD c.val none).getD []) := by
      unfold Reception.symbolMap
      rw [hr]
      simp only [hk, hf, Bool.false_eq_true, if_false]
    unfold Reception.symbolBits Reception.bitsOfColumn
    rw [hmap]
    cases r.columns[x.2]? <;> rfl
  simp only [payloadBytes_used hr, rate_latched hr, hbits]
  rw [zipIdx_flatMap_zip (r.bitsOfColumn h.pair l.grid) symbols r.columns hlen]
  rfl

end

/-- Settles O58: headers, the robust map, the placing of bits and the signal on the line. -/
theorem headerAndLineSignal : Obligations.HeaderAndLineSignal := by
  refine ⟨fun h p hh hp => ⟨headerBytes_length h, headerCheck_bytes, readHeader_bytes hh hp, rfl⟩, fun h p hk hp => readHeader_other hk hp,
    fun coded g j hg hj => ⟨robustSymbol_length coded, robustSymbol_carrier coded hg hj⟩,
    fun copies => ⟨combineGroup_erased, fun c hc h => combineGroup_live hc h⟩, placeBits_carrier, fun s f hf => ?_,
    fun s hs => lineOutput_idle hs, fun r p symbol => ⟨robustBits_length, fun g hg => robustBits_group hg,
      fun x k l i hx hi => columnBits_carrier hx hi⟩, fun r p symbols => ⟨rfl, fun h res hr hk hn => payloadBytes_robust hr hk hn,
      fun h l hr hk hf => payloadBytes_floor hr hk hf, fun h l hr hk hf hlen => payloadBytes_perSlot hr hk hf hlen⟩⟩
  intro d sent
  exact ⟨fun hd => lineOutput_part hf (framePart_preamble hd),
    fun i hi h1 h2 => ⟨lineOutput_part hf (framePart_header hi h1 h2), rfl⟩,
    fun i hi h1 h2 => ⟨lineOutput_part hf (framePart_payload hi h1 h2), payloadSymbol_robust, payloadSymbol_sounding⟩,
    fun hd => lineOutput_over hf (framePart_over hd)⟩

end Sys2Proof.Machine
end

/-! ## Proofs: segments are walked as they were written, and pieces are joined to their frame (O59) -/

section
namespace Sys2Proof.Machine

/-! ### The walk over a DATA payload (R28) -/

section
variable (q : Seq) (first last : Bool) (p rest : List Byte)

/-- The first two bytes of a segment as a number. -/
def segmentWord (q : Seq) (first last : Bool) : Nat := first.toNat * 2 ^ 15 + last.toNat * 2 ^ 14 + q.toNat

theorem segmentWord_lt : segmentWord q first last < 256 ^ 2 := by
  have hq := q.isLt
  unfold segmentWord
  cases first <;> cases last <;> simp only [Bool.toNat_false, Bool.toNat_true] <;> omega

theorem segmentWord_seq : (BitVec.ofNat 12 (segmentWord q first last) : Seq) = q := by
  have hq := q.isLt
  apply BitVec.eq_of_toNat_eq
  rw [BitVec.toNat_ofNat]
  unfold segmentWord
  cases first <;> cases last <;> simp only [Bool.toNat_false, Bool.toNat_true] <;> omega

theorem segmentWord_first : (BitVec.ofNat 8 (segmentWord q first last / 256 ^ 1)).getLsbD 7 = first := by
  have hq := q.isLt
  rw [BitVec.getLsbD_ofNat, Nat.testBit_eq_decide_div_mod_eq]
  unfold segmentWord
  cases first <;> cases last <;> simp only [Bool.toNat_false, Bool.toNat_true] <;> simp <;> omega

theorem segmentWord_last : (BitVec.ofNat 8 (segmentWord q first last / 256 ^ 1)).getLsbD 6 = last := by
  have hq := q.isLt
  rw [BitVec.getLsbD_ofNat, Nat.testBit_eq_decide_div_mod_eq]
  unfold segmentWord
  cases first <;> cases last <;> simp only [Bool.toNat_false, Bool.toNat_true] <;> simp <;> omega

theorem segmentHead_length (n : Nat) : (segmentHead q first last n).length = 6 := by
  simp only [segmentHead, List.length_append, beBytes_length]

/-- The bytes that a segment's CRC covers. -/
def segmentCovered (q : Seq) (first last : Bool) (p : List Byte) : List Byte :=
  segmentHead q first last p.length ++ (beBytes 2 (crc16 (segmentHead q first last p.length)).toNat ++ p)

theorem segmentCovered_length : (segmentCovered q first last p).length = 8 + p.length := by
  unfold segmentCovered
  rw [List.length_append, List.length_append, segmentHead_length, beBytes_length]
  omega

theorem segmentBytes_eq : segmentBytes q first last p =
    segmentCovered q first last p ++ beBytes 4 (crc32 (segmentCovered q first last p)).toNat := by
  unfold segmentBytes segmentCovered
  simp only [List.append_assoc]

theorem segmentBytes_length : (segmentBytes q first last p).length = 8 + p.length + 4 := by
  rw [segmentBytes_eq, List.length_append, segmentCovered_length, beBytes_length]

/-- R28: the walk over a segment as it was written reads it, and goes on behind it. -/
theorem walkSegments_written (n : Nat) (h1 : 1 ≤ p.length) (h2 : p.length ≤ 480) :
    walkSegments (n + 1) (segmentBytes q first last p ++ rest) = .intact q first last p :: walkSegments n rest := by
  generalize hb : segmentBytes q first last p ++ rest = b
  have hcovered : b = segmentCovered q first last p ++ (beBytes 4 (crc32 (segmentCovered q first last p)).toNat ++ rest) := by
    rw [← hb, segmentBytes_eq, List.append_assoc]
  have hheaded : b = segmentHead q first last p.length ++ (beBytes 2 (crc16 (segmentHead q first last p.length)).toNat ++
      (p ++ (beBytes 4 (crc32 (segmentCovered q first last p)).toNat ++ rest))) := by
    rw [hcovered, segmentCovered, List.append_assoc, List.append_assoc]
  have hworded : ∃ y, b = beBytes 2 (segmentWord q first last) ++ (beBytes 2 p.length ++ y) := by
    rw [hheaded, segmentHead]
    simp only [List.append_assoc]
    exact ⟨_, rfl⟩
  have hlen : bitsOf (fieldAt 2 2 b) 0 9 = p.length := by
    obtain ⟨y, hy⟩ := hworded
    rw [hy, fieldAt_behind (beBytes_length 2 _) (by omega), bitsOf]
    omega
  have hseq : (BitVec.ofNat 12 (fieldAt 0 2 b) : Seq) = q := by
    obtain ⟨y, hy⟩ := hworded
    rw [hy, fieldAt_carried_lt carries_here (segmentWord_lt q first last), segmentWord_seq]
  have hbyte : byteAt 0 b = BitVec.ofNat 8 (segmentWord q first last / 256 ^ 1) := by
    obtain ⟨y, hy⟩ := hworded
    rw [hy]
    rfl
  have hcrc16 : fieldAt 6 2 b = (crc16 (slice 0 6 b)).toNat := by
    rw [hheaded, slice_prefix (segmentHead_length _ _ _ _), fieldAt_behind (segmentHead_length _ _ _ _) (BitVec.isLt _)]
  have hcrc32 : fieldAt (8 + p.length) 4 b = (crc32 (slice 0 (8 + p.length) b)).toNat := by
    rw [hcovered, slice_prefix (segmentCovered_length _ _ _ _), fieldAt_behind (segmentCovered_length _ _ _ _) (BitVec.isLt _)]
  have hpayload : slice 8 p.length b = p := by
    rw [hheaded, ← List.append_assoc, slice,
      List.drop_left' (by rw [List.length_append, segmentHead_length, beBytes_length]), List.take_left]
  have hbehind : b.drop (8 + p.length + 4) = rest := hb ▸ List.drop_left' (segmentBytes_length q first last p)
  have hfits : 8 + p.length + 4 ≤ b.length := by
    rw [← hb, List.length_append, segmentBytes_length]
    omega
  have hsize : 1 ≤ p.length ∧ p.length ≤ Config.pieceBytes := ⟨h1, h2⟩
  rw [walkSegments]
  simp only [hlen, hseq, hbyte, segmentWord_first, segmentWord_last, ← hcrc16, ← hcrc32, hpayload, hbehind, hsize, hfits,
    beq_self_eq_true, and_self, decide_true, Bool.and_self, if_true]

end

theorem walkSegments_all (xs : List (Seq × Bool × Bool × List Byte)) (rest : List Byte)
    (h : ∀ x ∈ xs, 1 ≤ x.2.2.2.length ∧ x.2.2.2.length ≤ 480) :
    walkSegments xs.length ((xs.map fun x => segmentBytes x.1 x.2.1 x.2.2.1 x.2.2.2).flatten ++ rest) =
      xs.map fun x => .intact x.1 x.2.1 x.2.2.1 x.2.2.2 := by
  induction xs with
  | nil => rfl
  | cons x xs ih =>
    obtain ⟨h1, h2⟩ := h x (List.mem_cons_self ..)
    rw [List.map_cons, List.flatten_cons, List.append_assoc, List.length_cons, walkSegments_written _ _ _ _ _ _ h1 h2,
      ih fun y hy => h y (List.mem_cons_of_mem _ hy), List.map_cons]

/-! ### Feeding (R161, R162) -/

section
variable (r : RxState) (x : StoredSegment) (j : JoinedPieces) (last : Bool) (c : Option Counter)

theorem joinTo_long (h : 1538 < j.bytes.length) : r.joinTo j last c =
    { rx := { r with assembling := false, joined := none }, complete := none, count := some .outOfStep } := if_pos h

theorem joinTo_more (h : j.bytes.length ≤ 1538) : r.joinTo j false c =
    { rx := { r with assembling := true, joined := some j }, complete := none, count := c } := if_neg (Nat.not_lt.2 h)

theorem joinTo_last (h : j.bytes.length ≤ 1538) : r.joinTo j true c =
    { rx := { r with assembling := true, joined := none }, complete := some j, count := c } := if_neg (Nat.not_lt.2 h)

/-- R161: what a segment with the first flag opens. -/
def StoredSegment.opened (x : StoredSegment) : JoinedPieces := { bytes := x.payload, charge := (x.payload.length + 63) / 64 * 64 }

/-- R161: what the joined pieces are with one segment more. -/
def JoinedPieces.longerBy (j : JoinedPieces) (x : StoredSegment) : JoinedPieces :=
  { bytes := j.bytes ++ x.payload, charge := j.charge + (x.payload.length + 63) / 64 * 64 }

theorem feed_hunting (ha : r.assembling = false) (hf : x.first = false) :
    r.feed x = { rx := r, complete := none, count := some .huntingDiscards } := by
  unfold RxState.feed
  rw [ha, hf]
  rfl

theorem feed_unopened (ha : r.assembling = true) (hj : r.joined = none) (hf : x.first = false) :
    r.feed x = { rx := { r with assembling := false, joined := none }, complete := none, count := some .outOfStep } := by
  unfold RxState.feed
  rw [ha, hj, hf]
  obtain ⟨_, _, _, _, _⟩ := r
  cases hj
  rfl

theorem feed_first (hf : x.first = true) : r.feed x =
    r.joinTo x.opened x.last (if r.assembling = true ∧ r.joined ≠ none then some Counter.outOfStep else none) := by
  unfold RxState.feed
  rw [hf]
  cases ha : r.assembling <;> cases hj : r.joined <;> rfl

theorem feed_next {j : JoinedPieces} (ha : r.assembling = true) (hj : r.joined = some j) (hf : x.first = false) :
    r.feed x = r.joinTo (j.longerBy x) x.last none := by
  unfold RxState.feed
  rw [ha, hj, hf]
  rfl

end

/-! ### The pieces of a host frame, in order (R29, R160 to R162) -/

section
variable {s : State} {i : EntryIx} {e : Entry} {q : Seq}

/-- The part with the receive state of entry `i` changed. -/
def State.received (s : State) (i : EntryIx) (e : Entry) (r : RxState) : State :=
  { s with table := s.table.set i (some { e with rx := r }) }

theorem received_entry (r : RxState) : (s.received i e r).entry i = some { e with rx := r } := entry_setEntry_self i _ s

theorem received_received (x : Entry) (r : RxState) : setEntry i (some x) (s.received i e r) = { s with table := s.table.set i (some x) } := by
  unfold setEntry State.received
  simp only [Vector.set_set]

theorem sum_set_add (l : List Nat) (n v : Nat) (h : n < l.length) : (l.set n v).sum + l[n] = l.sum + v := by
  induction l generalizing n with
  | nil => exact absurd h (Nat.not_lt_zero _)
  | cons a l ih =>
    cases n with
    | zero => simp only [List.set_cons_zero, List.sum_cons, List.getElem_cons_zero]; omega
    | succ n =>
      have := ih n (Nat.lt_of_succ_lt_succ h)
      simp only [List.set_cons_succ, List.sum_cons, List.getElem_cons_succ]
      omega

theorem rxCharge_received (he : s.entry i = some e) (r : RxState) :
    (s.received i e r).rxCharge + e.rx.charge = s.rxCharge + r.charge := by
  have hi : s.table.toList[i.val]'(by simp) = some e := by rw [Vector.getElem_toList]; exact he
  have hsum := sum_set_add (s.table.toList.map fun e => (e.map fun x => x.rx.charge).getD 0) i.val r.charge (by simp)
  rw [List.getElem_map, hi] at hsum
  unfold State.rxCharge State.received
  dsimp only at hsum ⊢
  rw [Vector.toList_set, List.map_set]
  simp only [Option.map_some, Option.getD_some] at hsum ⊢
  omega

/-- R162: the frame that a feeding completes goes to carriage inspection. -/
def inspectCompleted : Option JoinedPieces → State → State
  | some j, s => inspect j (bump .framesReassembled s)
  | none, s => s

/-- R161: the receive state with one segment stored, and with that segment on its way to reassembly. -/
def RxState.storing (r : RxState) (x : StoredSegment) : RxState := { r with reorder := [x] }
def RxState.advanced (r : RxState) (q : Seq) : RxState := { r with expected := some q, reorder := [] }

/-- R161: the segment expected next, alone on the reorder list, is delivered. -/
theorem deliverAll_single {x : StoredSegment} {fed : Feeding} (he : s.entry i = some e) (hq : e.rx.expected = some q)
    (hr : e.rx.reorder = [x]) (hx : x.seq = q) (hc : fed.count = none) (hfed : (e.rx.advanced (q + 1#12)).feed x = fed) :
    deliverAll i s = inspectCompleted fed.complete (s.received i e fed.rx) := by
  have hcount : storedCount i s = 1 := by rw [storedCount, he, Option.map_some, hr]; rfl
  rw [deliverAll_times, hcount]
  show deliverOne i s = _
  unfold deliverOne
  rw [he]
  dsimp only
  rw [hq]
  dsimp only
  have hfind : [x].find? (fun y => y.seq == q) = some x := List.find?_cons_of_pos (beq_iff_eq.2 hx)
  have hleft : [x].filter (fun y => y.seq != q) = [] := List.filter_cons_of_neg (by simp [hx])
  rw [hr, hfind]
  dsimp only
  rw [hleft]
  rw [RxState.advanced] at hfed
  rw [hfed, hc]
  cases fed.complete <;> rfl

/-- R160, R161: the segment expected next, with nothing stored, is good and is fed to reassembly. -/
theorem judgeIntact_next {fed : Feeding} (first last : Bool) (p : List Byte) (he : s.entry i = some e) (hq : e.rx.expected = some q)
    (hr : e.rx.reorder = []) (hroom : s.rxCharge + (p.length + 63) / 64 * 64 ≤ 16384) (hc : fed.count = none)
    (hfed : (e.rx.advanced (q + 1#12)).feed { seq := q, first := first, last := last, payload := p } = fed) :
    judgeIntact i q first last p s = (true, inspectCompleted fed.complete (s.received i e fed.rx)) := by
  have hself : q - q = 0#12 := BitVec.sub_self q
  have hbehind : Seq.ahead q q = false := by
    unfold Seq.ahead
    rw [hself]
    rfl
  have hwithin : (q - q).toNat ≤ 63 := by
    rw [hself]
    exact Nat.zero_le _
  have hmod : modRx i (fun r => { r with reorder := r.reorder ++ [{ seq := q, first := first, last := last, payload := p }] }) s =
      s.received i e (e.rx.storing { seq := q, first := first, last := last, payload := p }) := by
    unfold modRx modEntry
    rw [he]
    dsimp only
    rw [hr]
    rfl
  have hunstored : e.rx.reorder.any (fun y => y.seq == q) = false := by rw [hr]; rfl
  unfold judgeIntact
  rw [he]
  simp only [Option.bind_some, hq, Option.map_some, hbehind, Bool.false_eq_true, if_false, if_pos hwithin, hunstored]
  rw [if_pos (show s.rxCharge + segmentCharge p.length ≤ Config.receiveLimit from hroom), hmod,
    deliverAll_single (received_entry (e.rx.storing { seq := q, first := first, last := last, payload := p })) hq rfl rfl hc hfed]
  exact congrArg (fun t => (true, inspectCompleted fed.complete t)) (received_received _ _)

end

/-! The frame's own run: what is joined and charged after its first `k` pieces. -/

section
variable {s : State} {i : EntryIx} {e : Entry} {q : Seq} (f : HostFrame)

/-- What is joined of a frame after its first `k` pieces. -/
def HostFrame.joinedTo (f : HostFrame) (k : Nat) : JoinedPieces :=
  { bytes := f.bytes.take (480 * k), charge := ((List.range k).map fun j => ((f.piece j).length + 63) / 64 * 64).sum }

/-- A piece as a received segment. -/
def HostFrame.segmentAt (f : HostFrame) (q : Seq) (n k : Nat) : RxSegment :=
  .intact (q + BitVec.ofNat 12 k) (k == 0) (k + 1 == n) (f.piece k)

theorem joinedTo_next (k : Nat) (x : StoredSegment) (hx : x.payload = f.piece k) : (f.joinedTo k).longerBy x = f.joinedTo (k + 1) := by
  unfold HostFrame.joinedTo JoinedPieces.longerBy
  rw [hx, List.range_succ, List.map_append, List.sum_append]
  have hbytes : f.bytes.take (480 * k) ++ f.piece k = f.bytes.take (480 * (k + 1)) := by
    unfold HostFrame.piece slice
    rw [Nat.mul_succ, List.take_add]
    rfl
  rw [hbytes]
  rfl

theorem joinedTo_opened (x : StoredSegment) (hx : x.payload = f.piece 0) : x.opened = f.joinedTo 1 := by
  rw [← joinedTo_next f 0 x hx]
  unfold StoredSegment.opened HostFrame.joinedTo JoinedPieces.longerBy
  rw [Nat.mul_zero, List.take_zero, List.nil_append]
  simp

/-- The receive state after the first `k` pieces of a frame, `k` at least 1, and after all of its `n`. -/
def HostFrame.rxAt (f : HostFrame) (r : RxState) (q : Seq) (k : Nat) : RxState :=
  { r.advanced (q + BitVec.ofNat 12 k) with assembling := true, joined := some (f.joinedTo k) }
def RxState.joinedWhole (r : RxState) (q : Seq) (n : Nat) : RxState :=
  { r.advanced (q + BitVec.ofNat 12 n) with assembling := true, joined := none }

theorem seq_next (q : Seq) (k : Nat) : q + BitVec.ofNat 12 k + 1#12 = q + BitVec.ofNat 12 (k + 1) := by
  rw [BitVec.add_assoc, BitVec.ofNat_add]

theorem charge_at_start (hj : e.rx.joined = none) (hr : e.rx.reorder = []) : e.rx.charge = 0 := by
  unfold RxState.charge
  rw [hj, hr]
  rfl

theorem rxAt_charge (k : Nat) : (f.rxAt e.rx q k).charge = (f.joinedTo k).charge := by
  unfold RxState.charge HostFrame.rxAt RxState.advanced
  simp

theorem joinedTo_charge_le {k n : Nat} (h : k ≤ n) : (f.joinedTo k).charge ≤ (f.joinedTo n).charge := by
  induction h with
  | refl => exact Nat.le_refl _
  | @step n _ ih =>
    rw [← joinedTo_next f n { seq := 0, first := false, last := false, payload := f.piece n } rfl]
    exact Nat.le_trans ih (Nat.le_add_right _ _)

theorem joinedTo_bytes_le (hlong : f.bytes.length ≤ 1538) (k : Nat) : (f.joinedTo k).bytes.length ≤ 1538 := by
  refine Nat.le_trans ?_ hlong
  unfold HostFrame.joinedTo
  rw [List.length_take]
  exact Nat.min_le_right _ _

theorem judgeAll_good {t u : State} {vs : List Bool} (q : Seq) (first last : Bool) (p : List Byte) (rest : List RxSegment)
    (h : judgeIntact i q first last p s = (true, t)) (hrest : judgeAll i rest t = (vs, u)) :
    judgeAll i (.intact q first last p :: rest) s = (true :: vs, u) := by
  rw [judgeAll, h]
  dsimp only
  rw [hrest]

variable (he : s.entry i = some e) (hq : e.rx.expected = some q) (hj : e.rx.joined = none) (hr : e.rx.reorder = [])
  (hlong : f.bytes.length ≤ 1538) {n : Nat} (hroom : s.rxCharge + (f.joinedTo n).charge ≤ 16384)

include he hq hj hr hlong hroom

/-- The first piece opens the run, or is the whole of it. -/
theorem first_piece_judged (hn : 1 ≤ n) (last : Bool) : judgeIntact i q true last (f.piece 0) s = (true,
    if last then inspectCompleted (some (f.joinedTo 1)) (s.received i e (e.rx.joinedWhole q 1))
    else s.received i e (f.rxAt e.rx q 1)) := by
  have hfed : (e.rx.advanced (q + 1#12)).feed { seq := q, first := true, last := last, payload := f.piece 0 } =
      (e.rx.advanced (q + 1#12)).joinTo (f.joinedTo 1) last none := by
    rw [feed_first _ _ rfl, joinedTo_opened f _ rfl, if_neg fun h => h.2 hj]
  have hle := joinedTo_charge_le f hn
  have hone : s.rxCharge + ((f.piece 0).length + 63) / 64 * 64 ≤ 16384 := by
    have hcharge : (f.joinedTo 1).charge = ((f.piece 0).length + 63) / 64 * 64 := by
      simp [HostFrame.joinedTo]
    omega
  cases last with
  | true =>
    rw [joinTo_last _ _ _ (joinedTo_bytes_le f hlong 1)] at hfed
    exact judgeIntact_next true true _ he hq hr hone rfl hfed
  | false =>
    rw [joinTo_more _ _ _ (joinedTo_bytes_le f hlong 1)] at hfed
    exact judgeIntact_next true false _ he hq hr hone rfl hfed

omit hq in
/-- Each later piece joins the run, or completes it. -/
theorem later_piece_judged {k : Nat} (hk : k < n) (last : Bool) :
    judgeIntact i (q + BitVec.ofNat 12 k) false last (f.piece k) (s.received i e (f.rxAt e.rx q k)) = (true,
      if last then inspectCompleted (some (f.joinedTo (k + 1))) (s.received i e (e.rx.joinedWhole q (k + 1)))
      else s.received i e (f.rxAt e.rx q (k + 1))) := by
  have hfed : ((f.rxAt e.rx q k).advanced (q + BitVec.ofNat 12 k + 1#12)).feed
      { seq := q + BitVec.ofNat 12 k, first := false, last := last, payload := f.piece k } =
      ((f.rxAt e.rx q k).advanced (q + BitVec.ofNat 12 k + 1#12)).joinTo (f.joinedTo (k + 1)) last none := by
    rw [feed_next (j := f.joinedTo k) _ _ rfl rfl rfl, joinedTo_next f _ _ rfl]
  have hnow := rxCharge_received he (f.rxAt e.rx q k)
  rw [charge_at_start hj hr, rxAt_charge] at hnow
  have hle : (f.joinedTo (k + 1)).charge ≤ (f.joinedTo n).charge := joinedTo_charge_le f hk
  have hadded : (f.joinedTo (k + 1)).charge = (f.joinedTo k).charge + ((f.piece k).length + 63) / 64 * 64 := by
    rw [← joinedTo_next f k { seq := 0, first := false, last := false, payload := f.piece k } rfl]
    rfl
  have hone : (s.received i e (f.rxAt e.rx q k)).rxCharge + ((f.piece k).length + 63) / 64 * 64 ≤ 16384 := by omega
  have hstate : ∀ r, (s.received i e (f.rxAt e.rx q k)).received i { e with rx := f.rxAt e.rx q k } r = s.received i e r :=
    fun r => received_received _ _
  cases last with
  | true =>
    rw [joinTo_last _ _ _ (joinedTo_bytes_le f hlong (k + 1))] at hfed
    rw [judgeIntact_next false true _ (received_entry _) rfl rfl hone rfl hfed, hstate, seq_next]
    rfl
  | false =>
    rw [joinTo_more _ _ _ (joinedTo_bytes_le f hlong (k + 1))] at hfed
    rw [judgeIntact_next false false _ (received_entry _) rfl rfl hone rfl hfed, hstate, seq_next]
    rfl

omit hq in
/-- The pieces from the `k`-th on, with the earlier ones joined. -/
theorem later_pieces_judged (m k : Nat) (hk : 1 ≤ k) (hm : k + (m + 1) = n) :
    judgeAll i ((List.range' k (m + 1)).map (f.segmentAt q n)) (s.received i e (f.rxAt e.rx q k)) =
      (List.replicate (m + 1) true, inspectCompleted (some (f.joinedTo n)) (s.received i e (e.rx.joinedWhole q n))) := by
  induction m generalizing k with
  | zero =>
    subst hm
    have hjudged := later_piece_judged (q := q) f he hj hr hlong hroom (Nat.lt_succ_self k) true
    have hfirst : (k == 0) = false := beq_eq_false_iff_ne.2 (by omega)
    rw [List.range'_succ, List.map_cons, HostFrame.segmentAt, hfirst, Nat.zero_add, beq_self_eq_true]
    exact judgeAll_good _ _ _ _ _ hjudged rfl
  | succ m ih =>
    have hjudged := later_piece_judged (q := q) f he hj hr hlong hroom (k := k) (by omega) false
    have hfirst : (k == 0) = false := beq_eq_false_iff_ne.2 (by omega)
    have hlast : (k + 1 == n) = false := beq_eq_false_iff_ne.2 (by omega)
    rw [List.range'_succ, List.map_cons, HostFrame.segmentAt, hfirst, hlast]
    exact judgeAll_good _ _ _ _ _ hjudged (ih (k + 1) (by omega) (by omega))

/-- R160 to R162: all pieces of a frame, in order. -/
theorem pieces_judged (hn : 1 ≤ n) : judgeAll i ((List.range n).map (f.segmentAt q n)) s =
    (List.replicate n true, inspectCompleted (some (f.joinedTo n)) (s.received i e (e.rx.joinedWhole q n))) := by
  obtain ⟨m, rfl⟩ : ∃ m, n = m + 1 := ⟨n - 1, by omega⟩
  have hstart : q + BitVec.ofNat 12 0 = q := BitVec.add_zero q
  rw [List.range_eq_range', List.range'_succ, List.map_cons, HostFrame.segmentAt, hstart]
  cases m with
  | zero => exact judgeAll_good _ _ _ _ _ (first_piece_judged f he hq hj hr hlong hroom hn true) rfl
  | succ m =>
    have hlast : (0 + 1 == m + 1 + 1) = false := beq_eq_false_iff_ne.2 (by omega)
    rw [hlast]
    exact judgeAll_good _ _ _ _ _ (first_piece_judged f he hq hj hr hlong hroom hn false)
      (later_pieces_judged f he hj hr hlong hroom m 1 (Nat.le_refl 1) (by omega))

end

theorem hostFrame_bytes_length (f : HostFrame) : f.bytes.length = f.eth.length + 16 := by
  simp only [HostFrame.bytes, carriageBytes, addrBytes, List.length_append, beBytes_length]
  omega

/-- Settles O59: the walk by induction on the segments written, feeding by the cases of the reassembly state, and the pieces of a
frame by induction on the pieces still to come. -/
theorem segmentsWalkedAndJoined : Obligations.SegmentsWalkedAndJoined := by
  refine ⟨walkSegments_all, ?_, ?_⟩
  · intro r x hx charge opened fed
    refine ⟨feed_hunting r x, feed_unopened r x, ?_, ?_⟩
    · intro hf broken
      have hshort : x.opened.bytes.length ≤ 1538 := Nat.le_trans hx (by decide)
      refine ⟨fun hl => ?_, fun hl => ?_⟩
      · rw [feed_first r x hf, hl, joinTo_more _ _ _ hshort]; rfl
      · rw [feed_first r x hf, hl, joinTo_last _ _ _ hshort]; rfl
    · intro j ha hj hf longer
      refine ⟨fun hlong => ?_, fun hshort hl => ?_, fun hshort hl => ?_⟩
      · rw [feed_next r x ha hj hf, joinTo_long r (j.longerBy x) _ _ hlong]
      · rw [feed_next r x ha hj hf, hl, joinTo_more r (j.longerBy x) _ hshort]; rfl
      · rw [feed_next r x ha hj hf, hl, joinTo_last r (j.longerBy x) _ hshort]; rfl
  · intro s i e f q he hq hr hj hlong n charge hroom
    have hlen := hostFrame_bytes_length f
    have hjudged := pieces_judged f he hq hj hr (by omega) (n := n) hroom (by omega)
    have hwhole : f.bytes.take (480 * n) = f.bytes := List.take_of_length_le (by omega)
    have hrx : e.rx.joinedWhole q n = { e.rx with expected := some (q + BitVec.ofNat 12 n), assembling := true, joined := none } := by
      rw [RxState.joinedWhole, RxState.advanced, ← hr]
    rw [HostFrame.joinedTo, hwhole, hrx] at hjudged
    exact hjudged

end Sys2Proof.Machine
end

/-! ## Proofs: the aging deadlines and the hold expiry of an entry (O44) -/

section
namespace Sys2Proof.Machine

section
variable {s t : State} {i : EntryIx} {e : Entry}

/-- A command that its condition lets happen answers the part settled after it. -/
theorem entryAging_answer (hl : s.Live) (hd : s.agingDue i = true) :
    exec (.entryAgingDeadline i) s = .next (settle s.txCharge (ageOut i s)) :=
  live_due (b := fun s => s.agingDue i) (f := settled (ageOut i)) hl hd

theorem holdExpiry_answer (hl : s.Live) (he : s.entry i = some e) (hh : e.hold = some s.lineTime) :
    exec (.holdExpiry i) s = .next (settle s.txCharge (clearHold i s)) :=
  live_due (b := fun s => s.holdDue i) (f := settled (clearHold i)) hl (State.holdDue_iff.2 ⟨e, he, hh⟩)

theorem ageOut_present (he : s.entry i = some e) (hp : e.state.present = true) :
    ageOut i s = recompute (markEval (bump .entriesStale (setEntry i (some { e with state := .stale }) s))) := by
  unfold ageOut
  rw [he]
  exact if_pos hp

theorem ageOut_absent (he : s.entry i = some e) (hp : e.state.present = false) : ageOut i s = bump .entriesRemoved (removeEntry i s) := by
  unfold ageOut
  rw [he]
  dsimp only
  rw [hp]
  rfl

theorem clearHold_held (he : s.entry i = some e) {l : LineTime} (hh : e.hold = some l) :
    clearHold i s = recompute (setEntry i (some { e with hold := none }) s) := by
  unfold clearHold
  rw [he]
  dsimp only
  rw [hh]
  exact if_pos rfl

/-- R138: an entry after the table is formed again. -/
theorem recompute_some (he : s.entry i = some e) : (recompute s).entry i =
    some { e with txRate := s.directRate i, route := chooseRoute s.table s.directRate i e } := by
  rw [recompute_entry]
  unfold State.rerouted
  rw [he]
  rfl

/-- R138: a via is an entry of the table. -/
theorem recompute_via_held {j : EntryIx} (h : ((recompute s).entry j).map (·.route) = some (.via i)) : s.entry i ≠ none := by
  rw [recompute_entry] at h
  unfold State.rerouted at h
  obtain ⟨x, hx, hroute⟩ := Option.map_eq_some_iff.1 h
  obtain ⟨y, -, rfl⟩ := Option.map_eq_some_iff.1 hx
  obtain ⟨r, hvalid⟩ := (chooseRoute_sound s.table s.directRate j y).2.1 i hroute
  obtain ⟨-, -, pe, -, -, -, hp, -⟩ := hvalid
  exact fun hnone => Option.some_ne_none pe (hp.symm.trans hnone)

theorem removeEntry_recomputes (he : s.entry i = some e) : ∃ u, removeEntry i s = recompute u := by
  unfold removeEntry
  rw [he]
  exact ⟨_, rfl⟩

theorem removeEntry_unused (he : s.entry i = some e) (j : EntryIx) : ((removeEntry i s).entry j).map (·.route) ≠ some (.via i) := by
  obtain ⟨hgone, -⟩ := removeEntry_spec he
  obtain ⟨u, hu⟩ := removeEntry_recomputes he
  rw [hu] at hgone ⊢
  refine fun h => recompute_via_held h ?_
  rw [recompute_entry] at hgone
  exact Option.map_eq_none_iff.1 hgone

/-- An entry changed and the routes formed again leave the others, their routes apart. -/
theorem OthersKept.recomputed {u : State} (hu : ∀ j, j ≠ i → u.entry j = s.entry j) : s.OthersKept (recompute u) i := fun j hj => by
  rw [recompute_unrouted, hu j hj]

theorem OthersKept.settled {u : State} {n : Nat} (h : s.OthersKept u i) : s.OthersKept (settle n u) i := fun j hj => by
  rw [settle_entry]
  exact h j hj

/-- R131: a HEARD or LINKED entry turns STALE. -/
theorem turnsStale (hl : s.Live) (hr : s.Rested) (he : s.entry i = some e) (hp : e.state = .heard ∨ e.state = .linked)
    (hd : s.agingDue i = true) :
    ∃ t e', exec (.entryAgingDeadline i) s = .next t ∧ t.entry i = some e' ∧
      e' = { e with state := .stale, txRate := 0, route := e'.route } ∧ e'.route ≠ .direct ∧ s.OthersKept t i ∧
      t.count .entriesStale = satInc (s.count .entriesStale) ∧ t = { s with table := t.table }.endedAs t := by
  have haged := ageOut_present he ((present_iff _).2 hp)
  generalize hu : markEval (bump .entriesStale (setEntry i (some { e with state := .stale }) s)) = u at haged
  have hentry : u.entry i = some { e with state := .stale } := by
    rw [← hu, entry_mark, entry_bump]
    exact entry_setEntry_self i _ s
  have hothers (j : EntryIx) (hj : j ≠ i) : u.entry j = s.entry j := by
    rw [← hu, entry_mark, entry_bump]
    exact entry_setEntry_ne hj _ s
  have hframe : TableFrame s u := by
    rw [← hu]
    exact ((((TableFrame.refl s).set i _).bump _)).mark
  have hcount : u.count .entriesStale = satInc (s.count .entriesStale) := by
    rw [← hu, cnt_mark, cnt_self]
    rfl
  have hrate : u.directRate i = 0 := by
    rw [directRate_eq hentry]
    exact if_neg fun h => h.1.elim (fun h => nomatch h) (fun h => nomatch h)
  refine ⟨_, _, (entryAging_answer hl hd).trans (by rw [haged]), (settle_entry _ _ i).trans (recompute_some hentry), ?_, ?_,
    OthersKept.settled (OthersKept.recomputed hothers), ?_, table_frame hframe.rec hr.1⟩
  · rw [hrate]
  · exact chooseRoute_absent _ _ _ _ rfl
  · rw [cnt_settle (by decide) (by decide), cnt_recompute (by decide), hcount]

/-- R131, R132: an entry of another state is removed. -/
theorem isRemoved (hl : s.Live) (hr : s.Rested) (he : s.entry i = some e) (hp : e.state.present = false) (hd : s.agingDue i = true) :
    ∃ t, exec (.entryAgingDeadline i) s = .next t ∧ t.entry i = none ∧
      (∀ j, j ≠ i → (t.entry j).map (·.addr) = (s.entry j).map (·.addr)) ∧ (s.control.length < 16 → s.OthersKept t i) ∧
      (let left := s.leftBy i
       left.OthersKept t i ∧ t.control = left.control) ∧
      (∀ k : SlotIx, t.pool[k] = (s.pool[k]).filter fun g => g.entry != i) ∧
      (∀ k : MapIx, t.addressMap[k] = (s.addressMap[k]).filter fun m => m.target != .station e.addr) ∧
      t.inFlight = s.inFlight.filter (fun r => r.entry != i) ∧
      (s.control.length < 16 → t.control = s.control.filter fun c => !c.partOf i) ∧
      (∀ j, j ≠ i → (t.entry j).map (·.route) ≠ some (.via i)) ∧
      t.count .entriesRemoved = satInc (s.count .entriesRemoved) ∧
      t = { s with table := t.table, pool := t.pool, inFlight := t.inFlight, control := t.control,
                   addressMap := t.addressMap }.endedAs t := by
  obtain ⟨rgone, raddr, rothers, rpool, rmap, rflight, rcontrol⟩ := removeEntry_spec he
  obtain ⟨lothers, lcontrol⟩ := removeEntry_left he
  have runused := removeEntry_unused he
  have rcount : (removeEntry i s).count .entriesRemoved = s.count .entriesRemoved := cnt_remove (by decide) (by decide) i s
  have rframe : EntryFrame s (removeEntry i s) := (EntryFrame.refl s).removeEntry i
  have hexec := entryAging_answer hl hd
  rw [ageOut_absent he hp] at hexec
  generalize removeEntry i s = gone at *
  have hentry (j : EntryIx) : (settle s.txCharge (bump .entriesRemoved gone)).entry j = gone.entry j := settle_entry _ _ j
  have hkept {u : State} (h : u.OthersKept gone i) : u.OthersKept (settle s.txCharge (bump .entriesRemoved gone)) i :=
    OthersKept.trans h (OthersKept.of_entries fun j _ => hentry j)
  have hcontrol : (settle s.txCharge (bump .entriesRemoved gone)).control = gone.control := settle_control _ _
  refine ⟨_, hexec, (hentry i).trans rgone, fun j hj => ?_, fun hroom => hkept (rothers hroom), ⟨hkept lothers, hcontrol.trans lcontrol⟩,
    fun k => ?_, fun k => ?_, ?_, fun hroom => hcontrol.trans (rcontrol hroom), fun j _ => ?_, ?_,
    settle_entryFrame (rframe.bump _) hr.1 rfl⟩
  · rw [hentry, raddr j hj]
  · rw [settle_pool]
    exact rpool k
  · rw [settle_map]
    exact rmap k
  · exact (settle_inFlight _ _).trans rflight
  · rw [hentry]
    exact runused j
  · rw [cnt_settle (by decide) (by decide), cnt_self, rcount]

/-- R134, R135: the direct hold is cleared, and the direct rate is the entry's own again. -/
theorem holdEnds (hl : s.Live) (hr : s.Rested) (he : s.entry i = some e) (hh : e.hold = some s.lineTime) :
    ∃ t e', exec (.holdExpiry i) s = .next t ∧ t.entry i = some e' ∧
      e' = { e with hold := none, txRate := e'.txRate, route := e'.route } ∧
      e'.txRate = (if e.state = .heard ∨ e.state = .linked then ((s.roleGrid i .txActive).map (·.rate)).getD 6000 else 0) ∧
      s.OthersKept t i ∧ t = { s with table := t.table }.endedAs t := by
  have hcleared := clearHold_held he hh
  generalize hu : setEntry i (some { e with hold := none }) s = u at hcleared
  have hentry : u.entry i = some { e with hold := none } := by
    rw [← hu]
    exact entry_setEntry_self i _ s
  have hothers (j : EntryIx) (hj : j ≠ i) : u.entry j = s.entry j := by
    rw [← hu]
    exact entry_setEntry_ne hj _ s
  have hframe : TableFrame s u := by
    rw [← hu]
    exact (TableFrame.refl s).set i _
  have hgrid : u.roleGrid i .txActive = s.roleGrid i .txActive := by rw [← hu]; rfl
  refine ⟨_, _, (holdExpiry_answer hl he hh).trans (by rw [hcleared]), (settle_entry _ _ i).trans (recompute_some hentry), rfl, ?_,
    OthersKept.settled (OthersKept.recomputed hothers), table_frame hframe.rec hr.1⟩
  dsimp only
  rw [directRate_eq hentry, hgrid]
  exact ite_of_iff (and_iff_left rfl) rfl rfl

end

/-- Settles O44: by the state of the entry at its aging deadline, and the clearing of its hold, each followed by a route recomputation
that its own lemmas describe. -/
theorem entryDeadlines : Obligations.EntryDeadlines := by
  refine ⟨fun s i e hl hr he => ⟨fun l hp hheard hnow => ?_, fun l hdue => ?_⟩, fun s i e hl hr he hh => holdEnds hl hr he hh⟩
  · exact turnsStale hl hr he hp (State.agingDue_iff.2 ⟨e, he, Or.inl ⟨hp, l, hheard, hnow⟩⟩)
  · rcases hdue with ⟨hst, hheard, hnow⟩ | ⟨hst, hnamed, hnow⟩
    · exact isRemoved hl hr he (by rw [hst]; rfl) (State.agingDue_iff.2 ⟨e, he, Or.inr (Or.inl ⟨hst, l, hheard, hnow⟩)⟩)
    · exact isRemoved hl hr he (by rw [hst]; rfl) (State.agingDue_iff.2 ⟨e, he, Or.inr (Or.inr ⟨hst, l, hnamed, hnow⟩)⟩)

end Sys2Proof.Machine
end

/-! ## Proofs: host frames that end at the port, and requests read field by field (O50) -/

section
namespace Sys2Proof.Machine

/-! ### Fields read and written (R210) -/

theorem beBytes_above (n k x : Nat) : beBytes n (k * 256 ^ n + x) = beBytes n x := by
  induction n generalizing k with
  | zero => rfl
  | succ n ih =>
    have hpow : k * 256 ^ (n + 1) = k * 256 * 256 ^ n := by rw [Nat.pow_succ, Nat.mul_comm (256 ^ n), Nat.mul_assoc]
    have htop : (k * 256 * 256 ^ n + x) / 256 ^ n = k * 256 + x / 256 ^ n := by
      rw [Nat.add_comm, Nat.add_mul_div_right _ _ (Nat.pow_pos (by decide)), Nat.add_comm]
    have hbyte : BitVec.ofNat 8 (k * 256 + x / 256 ^ n) = BitVec.ofNat 8 (x / 256 ^ n) := by
      apply BitVec.eq_of_toNat_eq
      rw [BitVec.toNat_ofNat, BitVec.toNat_ofNat]
      omega
    rw [beBytes, beBytes, hpow, htop, hbyte, ih]

theorem beBytes_readBE (l : List Byte) : beBytes l.length (readBE l) = l := by
  induction l with
  | nil => rfl
  | cons b l ih =>
    have hread : readBE (b :: l) = b.toNat * 256 ^ l.length + readBE l := by
      have := readBE_foldl l b.toNat
      rw [readBE, List.foldl_cons, Nat.zero_mul, Nat.zero_add]
      exact this
    have hlt : readBE l < 256 ^ l.length := by
      rw [← ih, readBE_beBytes]
      simp only [beBytes_length]
      exact Nat.mod_lt _ (Nat.pow_pos (by decide))
    have htop : (b.toNat * 256 ^ l.length + readBE l) / 256 ^ l.length = b.toNat := by
      rw [Nat.add_comm, Nat.add_mul_div_right _ _ (Nat.pow_pos (by decide)), Nat.div_eq_of_lt hlt, Nat.zero_add]
    rw [List.length_cons, beBytes, hread, htop, beBytes_above, ih, BitVec.ofNat_toNat, BitVec.setWidth_eq]

/-- A field that lies within a run of bytes is carried there as it is read. -/
theorem carries_fieldAt {b : List Byte} {a n : Nat} (h : a + n ≤ b.length) : Carries b a n (fieldAt a n b) := by
  have hlen : ((b.drop a).take n).length = n := by
    rw [List.length_take, List.length_drop]
    omega
  have hcarried : Carries b a n (readBE ((b.drop a).take n)) := by
    have := beBytes_readBE ((b.drop a).take n)
    rw [hlen] at this
    exact this.symm
  have hread := fieldAt_carried hcarried
  rw [hread]
  show _ = beBytes n (_ % 256 ^ n)
  rw [← readBE_beBytes, ← hcarried]
  exact hcarried

theorem carries_addrAt {b : List Byte} {a : Nat} (h : a + 6 ≤ b.length) : Carries b a 6 (addrAt a b).toNat := by
  have hfield := carries_fieldAt h
  have hlt : fieldAt a 6 b < 2 ^ 48 := by
    have := fieldAt_carried hfield
    rw [this]
    exact Nat.mod_lt _ (by decide)
  rw [addrAt, BitVec.toNat_ofNat, Nat.mod_eq_of_lt hlt]
  exact hfield

/-! ### Frames from the host (R186, R187, R190) -/

section
variable {s : State} {b : List Byte} {v : EthView}

theorem hostFrame_answer (hl : s.Live) {t : State} (h : takeHostFrame b s = t) :
    exec (.hostFrameReceived b) s = .next (settle s.txCharge t) := by
  rw [← h]
  exact whenLive_of_live hl _

theorem takeHostFrame_loading (h : s.startUp = .loading) : takeHostFrame b s = s := if_pos h

theorem takeHostFrame_size (h : s.startUp ≠ .loading) (hb : b.length < 64 ∨ 1522 < b.length) :
    takeHostFrame b s = bump .hostSizeErrors s := by
  unfold takeHostFrame
  rw [if_neg h, if_pos hb]

/-- R186: a frame of a lawful size is taken, or its check sequence does not match. -/
theorem takeHostFrame_fcs (h : s.startUp ≠ .loading) (h1 : 64 ≤ b.length) (h2 : b.length ≤ 1522) (hf : fcsMatches b = false) :
    takeHostFrame b s = bump .hostFcsErrors s := by
  unfold takeHostFrame
  rw [if_neg h, if_neg (by omega), if_pos hf]

/-- R186: a whole frame outside LOADING. -/
structure HostFrameWhole (s : State) (b : List Byte) : Prop where
  started : s.startUp ≠ .loading
  long : 64 ≤ b.length
  short : b.length ≤ 1522
  fcs : fcsMatches b = true

theorem takeHostFrame_whole (h : HostFrameWhole s b) : takeHostFrame b s =
    if (ethView b).etherType = 0x8808 then macControl (ethView b) s
    else if (ethView b).etherType = 0x88B5 ∧ (ethView b).dst = s.settings.station then takeRequest (ethView b) s
    else if (ethView b).dst = s.settings.station then bump .ownAddressDrops s
    else hostFrame b (bump .hostFramesReceived s) := by
  have hsize : ¬(b.length < 64 ∨ 1522 < b.length) := by
    have := h.long
    have := h.short
    omega
  unfold takeHostFrame
  rw [if_neg h.started, if_neg hsize, if_neg (by rw [h.fcs]; decide)]

theorem takeHostFrame_control (h : HostFrameWhole s b) (ht : (ethView b).etherType = 0x8808) :
    takeHostFrame b s = macControl (ethView b) s := by
  rw [takeHostFrame_whole h, if_pos ht]

theorem takeHostFrame_request (h : HostFrameWhole s b) (ht : (ethView b).etherType = 0x88B5) (hd : (ethView b).dst = s.settings.station) :
    takeHostFrame b s = takeRequest (ethView b) s := by
  rw [takeHostFrame_whole h, if_neg (by rw [ht]; decide), if_pos ⟨ht, hd⟩]

theorem takeHostFrame_own (h : HostFrameWhole s b) (h1 : (ethView b).etherType ≠ 0x8808) (h2 : (ethView b).etherType ≠ 0x88B5)
    (hd : (ethView b).dst = s.settings.station) : takeHostFrame b s = bump .ownAddressDrops s := by
  rw [takeHostFrame_whole h, if_neg h1, if_neg fun k => h2 k.1, if_pos hd]

theorem takeHostFrame_forwarded (h : HostFrameWhole s b) (h1 : (ethView b).etherType ≠ 0x8808) (hd : (ethView b).dst ≠ s.settings.station) :
    takeHostFrame b s = hostFrame b (bump .hostFramesReceived s) := by
  rw [takeHostFrame_whole h, if_neg h1, if_neg fun k => hd k.2, if_neg hd]

theorem macControl_other (h : fieldAt 0 2 v.data ≠ 1) : macControl v s = bump .macControlDrops s := if_neg h

theorem macControl_ignored (h : fieldAt 0 2 v.data = 1) (hp : s.settings.pauseEnable = false) :
    macControl v s = bump .pauseReceived s := by
  unfold macControl
  rw [if_pos h]
  exact if_neg (by rw [show (bump .pauseReceived s).settings = s.settings from rfl, hp]; decide)

theorem macControl_pause (h : fieldAt 0 2 v.data = 1) (hp : s.settings.pauseEnable = true) : macControl v s =
    bump .pauseReceived { s with port := { s.port with hold := s.holdEnd (fieldAt 2 2 v.data) } } := by
  unfold macControl
  rw [if_pos h]
  exact if_pos hp

/-- A host hold set or ended while the transmitter is busy leaves the part at rest. -/
theorem settle_held (hr : s.Rested) (hs : s.port.sending ≠ none) (c : Counter) (hold : Option LineTime) :
    settle s.txCharge (bump c { s with port := { s.port with hold := hold } }) =
      bump c { s with port := { s.port with hold := hold } } :=
  settle_of_rested ⟨hr.1, Or.inl (Option.isSome_iff_ne_none.2 hs)⟩ rfl

/-- A request that joins the list leaves the part at rest. -/
theorem settle_requested (hr : s.Rested) (r : Request) :
    settle s.txCharge (bump .requestsReceived { s with port := { s.port with requests := s.port.requests ++ [r] } }) =
      bump .requestsReceived { s with port := { s.port with requests := s.port.requests ++ [r] } } := by
  refine settle_of_rested ⟨hr.1, hr.2.imp_right fun h => ⟨h.1, h.2.imp_right fun k => ⟨k.1, Or.inr ?_⟩⟩⟩ rfl
  exact List.append_ne_nil_of_right_ne_nil _ (List.cons_ne_nil _ _)

theorem takeRequest_room (h : s.port.requests.length < 4) : takeRequest v s =
    bump .requestsReceived { s with port := { s.port with requests := s.port.requests ++ [readRequest v] } } := if_neg (by omega)

theorem takeRequest_full (h : 4 ≤ s.port.requests.length) : takeRequest v s = bump .requestOverflow s := if_pos h

end

/-! ### A request, field by field (R190, R197) -/

section
variable {d : List Byte}

/-- R197: the source that bytes 3 and 5 of a WINDOW READ name. -/
def SourceNamed (k r : Nat) (x : WindowSource) : Prop :=
  (k = 0 ∧ ((r = 0 ∧ x = .grid .rxCurrent) ∨ (r = 1 ∧ x = .grid .rxPending) ∨ (r = 2 ∧ x = .grid .txActive) ∨
    (r = 3 ∧ x = .grid .txAssembling))) ∨ (k = 1 ∧ ∃ p : Pair, r = p.val ∧ x = .snr p)

theorem walkOrder_bits (n : Nat) (h : n < 8) :
    ({ slotMajor := n % 2 == 1, carrierReverse := n / 2 % 2 == 1, slotReverse := n / 4 == 1 } : WalkOrder) =
      { slotMajor := n.testBit 0, carrierReverse := n.testBit 1, slotReverse := n.testBit 2 } := by
  revert n
  decide

theorem readWindow_named {x : WindowSource} (hx : SourceNamed (byteAt 3 d).toNat (byteAt 5 d).toNat x) (h6 : (byteAt 6 d).toNat ≤ 1)
    (h7 : (byteAt 7 d).toNat ≤ 7) : readWindow d = some
      { source := x, index := (byteAt 4 d).toNat, extentMode := (byteAt 6 d).toNat == 1
        order := { slotMajor := (byteAt 7 d).toNat.testBit 0, carrierReverse := (byteAt 7 d).toNat.testBit 1
                   slotReverse := (byteAt 7 d).toNat.testBit 2 }
        carrierStart := fieldAt 8 2 d, carrierStop := fieldAt 10 2 d, slotStart := (byteAt 12 d).toNat
        slotStop := (byteAt 13 d).toNat, resume := fieldAt 14 2 d } := by
  have hcoded : ((byteAt 6 d).toNat < 2 && (byteAt 7 d).toNat < 8) = true := by
    rw [Bool.and_eq_true, decide_eq_true_eq, decide_eq_true_eq]
    omega
  rw [← walkOrder_bits _ (by omega)]
  unfold readWindow
  rcases hx with ⟨h3, hx⟩ | ⟨h3, p, hp, rfl⟩
  · rcases hx with ⟨h5, rfl⟩ | ⟨h5, rfl⟩ | ⟨h5, rfl⟩ | ⟨h5, rfl⟩ <;> simp only [h3, h5, hcoded, if_true]
  · rcases pair_cases p with rfl | rfl | rfl <;> simp only [h3, hp, hcoded, if_true] <;> rfl

theorem readWindow_some {w : WindowRequest} (h : readWindow d = some w) :
    SourceNamed (byteAt 3 d).toNat (byteAt 5 d).toNat w.source ∧ (byteAt 6 d).toNat ≤ 1 ∧ (byteAt 7 d).toNat ≤ 7 := by
  have hcoded {x : WindowSource} {y : WindowRequest} (hy : y.source = x)
      (hx : SourceNamed (byteAt 3 d).toNat (byteAt 5 d).toNat x)
      (h : (if ((byteAt 6 d).toNat < 2 && (byteAt 7 d).toNat < 8) = true then some y else none) = some w) :
      SourceNamed (byteAt 3 d).toNat (byteAt 5 d).toNat w.source ∧ (byteAt 6 d).toNat ≤ 1 ∧ (byteAt 7 d).toNat ≤ 7 := by
    split at h
    · next hc =>
      rw [Bool.and_eq_true, decide_eq_true_eq, decide_eq_true_eq] at hc
      cases h
      rw [hy]
      exact ⟨hx, by omega, by omega⟩
    · cases h
  unfold readWindow at h
  dsimp only at h
  split at h
  · cases h
  · next src hsrc =>
    refine hcoded rfl ?_ h
    split at hsrc <;> cases hsrc <;> simp_all [SourceNamed]

theorem readBody_status (hk : (byteAt 2 d).toNat = 1) : readBody d = if d.length < 4 then .malformed else .status (byteAt 3 d) := by
  unfold readBody
  simp only [hk]
  rfl

theorem readBody_counters (hk : (byteAt 2 d).toNat = 2) :
    readBody d = if d.length < 4 then .malformed else .counters ((byteAt 3 d).toNat != 0) := by
  have hbyte : (byteAt 3 d != 0#8) = ((byteAt 3 d).toNat != 0) :=
    Bool.eq_iff_iff.2 (by rw [bne_iff_ne, bne_iff_ne, ne_eq, ne_eq, ← BitVec.toNat_inj]; rfl)
  unfold readBody
  simp only [hk, hbyte]
  rfl

theorem readBody_stationTable (hk : (byteAt 2 d).toNat = 3) :
    readBody d = if d.length < 5 then .malformed else .stationTable (byteAt 3 d).toNat (byteAt 4 d).toNat := by
  unfold readBody
  simp only [hk]
  rfl

theorem readBody_addressMap (hk : (byteAt 2 d).toNat = 5) :
    readBody d = if d.length < 5 then .malformed else .addressMap (byteAt 3 d).toNat (byteAt 4 d).toNat := by
  unfold readBody
  simp only [hk]
  rfl

theorem readBody_window {w : WindowRequest} (hk : (byteAt 2 d).toNat = 4) (hlen : 16 ≤ d.length) (hw : readWindow d = some w) :
    readBody d = .windowRead w := by
  unfold readBody
  simp only [hk, hw]
  exact if_neg (Nat.not_lt.2 hlen)

theorem readBody_window_malformed (hk : (byteAt 2 d).toNat = 4) (h : d.length < 16 ∨ readWindow d = none) : readBody d = .malformed := by
  unfold readBody
  simp only [hk]
  rcases h with hlen | hw
  · exact if_pos hlen
  · simp only [hw, ite_self]

/-- A byte that is not 0 lies within its run. -/
theorem byteAt_within {k : Nat} (h : (byteAt k d).toNat ≠ 0) : k < d.length := by
  refine Nat.lt_of_not_le fun hk => h ?_
  rw [byteAt, List.getD_eq_getElem?_getD, List.getElem?_eq_none hk]
  rfl

theorem readBody_config (hk : (byteAt 2 d).toNat = 6) : readBody d = .configRead := by
  have hlen := byteAt_within (d := d) (k := 2) (by omega)
  unfold readBody
  simp only [hk]
  exact if_neg (Nat.not_lt.2 hlen)

theorem readBody_restart (hk : (byteAt 2 d).toNat = 7) : readBody d = .restart := by
  have hlen := byteAt_within (d := d) (k := 2) (by omega)
  unfold readBody
  simp only [hk]
  exact if_neg (Nat.not_lt.2 hlen)

theorem readBody_unknown (h : (byteAt 2 d).toNat = 0 ∨ 7 < (byteAt 2 d).toNat) : readBody d = .malformed := by
  unfold readBody
  dsimp only
  split
  · rfl
  · split
    case h_8 => rfl
    all_goals omega

end

/-- The two bytes from `a` as a number fit the word that is read from them. -/
theorem fieldAt_two_lt (a : Nat) (b : List Byte) : fieldAt a 2 b < 2 ^ 16 := by
  have h1 := (byteAt a b).isLt
  have h2 := (byteAt (a + 1) b).isLt
  rw [fieldAt_two]
  omega

/-- R190: a request read, field by field. -/
theorem request_read (v : EthView) :
    let d := v.data
    let r := readRequest v
    let byte := fun k => (byteAt k d).toNat
    let word := fun k => byte k * 256 + byte (k + 1)
    r.source = v.src ∧ r.tag.toNat = word 0 ∧ r.kind.toNat = byte 2 ∧ r.body = readBody d := by
  refine ⟨rfl, ?_, rfl, rfl⟩
  show (BitVec.ofNat 16 (fieldAt 0 2 v.data)).toNat = _
  rw [BitVec.toNat_ofNat, Nat.mod_eq_of_lt (fieldAt_two_lt 0 _), fieldAt_two]

/-- R186: a frame taken apart. -/
theorem ethView_parts (b : List Byte) (hb : 64 ≤ b.length) :
    let v := ethView b
    let word := fun k => (byteAt k b).toNat * 256 + (byteAt (k + 1) b).toNat
    Carries b 0 6 v.dst.toNat ∧ Carries b 6 6 v.src.toNat ∧
    (word 12 ≠ 0x8100 → v.vlan = none ∧ v.etherType = word 12 ∧ v.data = (b.drop 14).take (b.length - 18)) ∧
    (word 12 = 0x8100 → v.vlan.map (·.val) = some ((byteAt 14 b).toNat / 32) ∧ v.etherType = word 16 ∧
      v.data = (b.drop 18).take (b.length - 22)) := by
  intro v word
  have hword (k : Nat) : fieldAt k 2 b = word k := fieldAt_two k b
  have hdata (a : Nat) (ha : a ≤ b.length - 4) : (b.take (b.length - 4)).drop a = (b.drop a).take (b.length - (4 + a)) := by
    rw [List.drop_take, Nat.sub_sub]
  refine ⟨carries_addrAt (by omega), carries_addrAt (by omega), fun hplain => ?_, fun htagged => ?_⟩
  · have htest : (fieldAt 12 2 b == 0x8100) = false := beq_eq_false_iff_ne.2 (by rw [hword]; exact hplain)
    refine ⟨?_, ?_, ?_⟩
    · show (if (fieldAt 12 2 b == 0x8100) = true then _ else _) = _
      rw [htest]
      rfl
    · show fieldAt (if (fieldAt 12 2 b == 0x8100) = true then 16 else 12) 2 b = _
      rw [htest]
      exact hword 12
    · show (b.take (b.length - 4)).drop ((if (fieldAt 12 2 b == 0x8100) = true then 16 else 12) + 2) = _
      rw [htest]
      exact hdata 14 (by omega)
  · have htest : (fieldAt 12 2 b == 0x8100) = true := beq_iff_eq.2 ((hword 12).trans htagged)
    refine ⟨?_, ?_, ?_⟩
    · show Option.map _ (if (fieldAt 12 2 b == 0x8100) = true then some (Fin.ofNat 8 (bitsOf (fieldAt 14 2 b) 13 3)) else none) = _
      have h1 := (byteAt 14 b).isLt
      have h2 := (byteAt (14 + 1) b).isLt
      rw [htest, if_pos rfl, Option.map_some, fieldAt_two, bitsOf]
      refine congrArg some ?_
      show _ % 8 = _
      omega
    · show fieldAt (if (fieldAt 12 2 b == 0x8100) = true then 16 else 12) 2 b = _
      rw [htest]
      exact hword 16
    · show (b.take (b.length - 4)).drop ((if (fieldAt 12 2 b == 0x8100) = true then 16 else 12) + 2) = _
      rw [htest]
      exact hdata 18 (by omega)

/-- Settles O50: the tests of a host frame in their order, the pause frame and the request by their cases, and each reader by the bytes
that it reads. -/
theorem hostFramesEndingAtPort : Obligations.HostFramesEndingAtPort := by
  refine ⟨?_, ?_, ?_, ethView_parts, ?_⟩
  · intro s b hl hr v whole
    refine ⟨fun h => ?_, fun h hb => ?_, fun h h1 h2 hf => ?_, fun h ⟨h1, h2, hf⟩ hd ht1 ht2 => ?_, fun h ⟨h1, h2, hf⟩ ht hop => ?_⟩
    · exact (hostFrame_answer hl (takeHostFrame_loading h)).trans (next_at_rest hr rfl rfl rfl rfl rfl)
    · exact (hostFrame_answer hl (takeHostFrame_size h hb)).trans (next_at_rest hr rfl rfl rfl rfl rfl)
    · exact (hostFrame_answer hl (takeHostFrame_fcs h h1 h2 hf)).trans (next_at_rest hr rfl rfl rfl rfl rfl)
    · exact (hostFrame_answer hl (takeHostFrame_own ⟨h, h1, h2, hf⟩ ht1 ht2 hd)).trans (next_at_rest hr rfl rfl rfl rfl rfl)
    · exact (hostFrame_answer hl ((takeHostFrame_control ⟨h, h1, h2, hf⟩ ht).trans (macControl_other hop))).trans
        (next_at_rest hr rfl rfl rfl rfl rfl)
  · intro s b hl hr h h1 h2 hf ht hop hs quanta
    have htaken := takeHostFrame_control ⟨h, h1, h2, hf⟩ ht
    have hset (hp : s.settings.pauseEnable = true) (hold : Option LineTime) (hq : s.holdEnd quanta = hold) :
        exec (.hostFrameReceived b) s = .next (bump .pauseReceived { s with port := { s.port with hold := hold } }) := by
      rw [hostFrame_answer hl (htaken.trans (macControl_pause hop hp)), settle_held hr hs, ← hq]
    refine ⟨fun hp => ?_, fun hp hq => ?_, fun hp hq hm => ?_, fun hp hq hm => ?_⟩
    · exact (hostFrame_answer hl (htaken.trans (macControl_ignored hop hp))).trans (next_at_rest hr rfl rfl rfl rfl rfl)
    · exact hset hp _ (if_pos hq)
    · refine hset hp _ ((if_neg hq).trans ?_)
      rw [hm]
      rfl
    · refine hset hp _ ((if_neg hq).trans ?_)
      rw [hm]
      rfl
  · intro s b hl hr h h1 h2 hf ht hd
    have htaken := takeHostFrame_request ⟨h, h1, h2, hf⟩ ht hd
    refine ⟨fun hroom => ?_, fun hfull => ?_⟩
    · rw [hostFrame_answer hl (htaken.trans (takeRequest_room hroom)), settle_requested hr]
    · exact (hostFrame_answer hl (htaken.trans (takeRequest_full hfull))).trans (next_at_rest hr rfl rfl rfl rfl rfl)
  · intro v d r byte word named
    obtain ⟨hsource, htag, hkind, hbody⟩ := request_read v
    refine ⟨hsource, htag, hkind, readBody_status, readBody_counters, readBody_stationTable,
      fun hk => ⟨fun x hlen hx h6 h7 => ?_, fun hbad => readBody_window_malformed hk ?_⟩, readBody_addressMap, readBody_config, readBody_restart, readBody_unknown⟩
    · refine readBody_window hk hlen ((readWindow_named hx h6 h7).trans ?_)
      rw [fieldAt_two, fieldAt_two, fieldAt_two]
    · refine hbad.imp_right fun hbad => Option.eq_none_iff_forall_ne_some.2 fun w hw => ?_
      obtain ⟨hx, h6, h7⟩ := readWindow_some hw
      rcases hbad with hn | hn | hn
      · exact hn _ hx
      · exact absurd h6 (Nat.not_le.2 hn)
      · exact absurd h7 (Nat.not_le.2 hn)

end Sys2Proof.Machine
end

/-! ## Proofs: admission, the inspection of a carriage, and host frames queued or replicated (O49, O51) -/

section
namespace Sys2Proof.Machine

/-! ### Admission (R145, R167) -/

section
variable {s : State} {f : HostFrame}

theorem admission_deep (h : (s.settings.queues[f.queue]).depth ≤ (s.queues[f.queue]).length) :
    admission f s = (false, bump (.tailDrops f.queue) s) := if_pos h

theorem admission_short (h1 : (s.queues[f.queue]).length < (s.settings.queues[f.queue]).depth) (h2 : 180224 < s.txCharge + f.charge) :
    admission f s = (false, bump (.bufferDrops f.queue) s) := by
  unfold admission
  dsimp only
  rw [if_neg (Nat.not_le.2 h1)]
  exact if_pos h2

/-- R167: the frame as it stands in the queue that takes it. -/
def State.admitted (s : State) (f : HostFrame) : HostFrame :=
  { f with id := s.nextFrameId, expiry := s.lineTime.plus ((s.settings.queues[f.queue]).lifetimeMs * 1000) }

theorem admission_room (h1 : (s.queues[f.queue]).length < (s.settings.queues[f.queue]).depth) (h2 : s.txCharge + f.charge ≤ 180224) :
    admission f s =
      (true, setQueue f.queue (s.queues[f.queue] ++ [s.admitted f]) { s with nextFrameId := s.nextFrameId + 1 }) := by
  unfold admission
  dsimp only
  rw [if_neg (Nat.not_le.2 h1)]
  exact if_neg (Nat.not_lt.2 h2)

theorem chargesOf_append (l : List HostFrame) (g : HostFrame) : chargesOf (l ++ [g]) = chargesOf l + g.charge := by
  unfold chargesOf
  rw [List.map_append, List.sum_append]
  simp

/-- R144: the transmit charge with a frame more in a queue. -/
theorem txCharge_appended {t : State} (q : QueueIx) (g : HostFrame) (hq : t.queues = s.queues.set q (s.queues[q] ++ [g]))
    (ht : t.table = s.table) : t.txCharge = s.txCharge + g.charge := by
  have hsum := sum_set_add (s.queues.toList.map chargesOf) q.val (chargesOf (s.queues[q] ++ [g])) (by simp)
  rw [List.getElem_map, Vector.getElem_toList, chargesOf_append] at hsum
  have hcell : s.queues[q.val] = s.queues[q] := rfl
  rw [hcell] at hsum
  unfold State.txCharge
  rw [hq, ht, Vector.toList_set, List.map_set, chargesOf_append]
  omega

end

theorem admission_cases (s : State) (f : HostFrame) :
    let q := f.queue
    ((s.settings.queues[q]).depth ≤ (s.queues[q]).length → admission f s = (false, bump (.tailDrops q) s)) ∧
    ((s.queues[q]).length < (s.settings.queues[q]).depth → 180224 < s.txCharge + f.charge →
      admission f s = (false, bump (.bufferDrops q) s)) ∧
    ((s.queues[q]).length < (s.settings.queues[q]).depth → s.txCharge + f.charge ≤ 180224 →
      ∃ t, admission f s = (true, t) ∧ t.txCharge = s.txCharge + f.charge ∧ t.txCharge ≤ 180224 ∧
        t.queues[q] = s.queues[q] ++
          [{ f with id := s.nextFrameId, expiry := s.lineTime.plus ((s.settings.queues[q]).lifetimeMs * 1000) }] ∧
        ∀ k : QueueIx, k ≠ q → t.queues[k] = s.queues[k]) := by
  intro q
  refine ⟨admission_deep, admission_short, fun h1 h2 => ⟨_, admission_room h1 h2, ?_⟩⟩
  have hcharge := txCharge_appended (s := s) (t := setQueue q (s.queues[q] ++ [s.admitted f]) { s with nextFrameId := s.nextFrameId + 1 })
    q (s.admitted f) rfl rfl
  refine ⟨hcharge, Nat.le_trans (Nat.le_of_eq hcharge) h2, Vector.getElem_set_self q.isLt, fun k hk => ?_⟩
  exact Vector.getElem_set_ne q.isLt k.isLt fun h => hk (Fin.ext h).symm

/-! ### The address map (R180) -/

section
variable {s : State} {a : Addr} {g : MapTarget}

theorem learnMap_frame (a : Addr) (g : MapTarget) (s : State) :
    learnMap a g s = { s with addressMap := (learnMap a g s).addressMap, counters := (learnMap a g s).counters } := (learnMap_map a g s).1

theorem cnt_learnMap {c : Counter} (h1 : Counter.addressMoves.index ≠ c.index) (h2 : Counter.mapReplacements.index ≠ c.index) (a : Addr)
    (g : MapTarget) (s : State) : (learnMap a g s).count c = s.count c := by
  unfold learnMap
  dsimp only
  split
  · split
    · exact cnt_bump h1 _
    · rfl
  · split
    · rfl
    · exact cnt_bump h2 _

/-- R180: where the map is written, the device is found. -/
theorem findDevice_written {t : State} {k : MapIx} {x : MapEntry} (hm : t.addressMap = s.addressMap.set k (some x))
    (hk : s.findDevice x.device = some k ∨ s.findDevice x.device = none) :
    t.findDevice x.device = some k ∧ t.addressMap[k] = some x := by
  have hself : t.addressMap[k] = some x := by
    rw [hm]
    exact Vector.getElem_set_self _
  have hbefore (j : MapIx) (hj : j < k) : (s.addressMap[j]).map (·.device) ≠ some x.device := by
    rcases hk with hk | hk
    · exact (findDevice_some.1 hk).2 j hj
    · have hnone := List.find?_eq_none.1 hk j (List.mem_finRange j)
      simpa using hnone
  refine ⟨findDevice_some.2 ⟨by rw [hself]; rfl, fun j hj => ?_⟩, hself⟩
  have hne : t.addressMap[j] = s.addressMap[j] := by
    rw [hm]
    exact Vector.getElem_set_ne _ _ fun h => absurd (Fin.ext h).symm (Fin.ne_of_lt hj)
  rw [hne]
  exact hbefore j hj

theorem learnMap_found (a : Addr) (g : MapTarget) (s : State) :
    ((learnMap a g s).findDevice a).bind (fun k => (learnMap a g s).addressMap[k]) =
      some { device := a, target := g, learned := s.lineTime } := by
  obtain ⟨k, hm, hk⟩ := learnMap_index a g s
  obtain ⟨hfound, hself⟩ := findDevice_written (x := { device := a, target := g, learned := s.lineTime }) hm (hk.imp_right fun h => h.1)
  rw [hfound, Option.bind_some, hself]

/-- R180: another device keeps its place, unless its entry is the one replaced. -/
theorem findDevice_other {b : Addr} {i : MapIx} {m : MapEntry} (hab : a ≠ b) (hi : s.findDevice b = some i) (hm : s.addressMap[i] = some m)
    (hkept : ¬(s.findDevice a = none ∧ (∀ j : MapIx, s.addressMap[j] ≠ none) ∧ s.MapOldest i)) :
    (learnMap a g s).findDevice b = some i ∧ (learnMap a g s).addressMap[i] = some m := by
  obtain ⟨k, hmap, hk⟩ := learnMap_index a g s
  obtain ⟨hdev, hbefore⟩ := findDevice_some.1 hi
  have hki : k ≠ i := by
    rintro rfl
    rcases hk with hk | ⟨hnone, hk | hk⟩
    · have := (findDevice_some.1 hk).1
      rw [hdev] at this
      exact hab (Option.some.inj this).symm
    · rw [hm] at hk
      cases hk
    · exact hkept ⟨hnone, hk⟩
  have hcell (j : MapIx) (hj : k ≠ j) : (learnMap a g s).addressMap[j] = s.addressMap[j] := by
    rw [hmap]
    exact Vector.getElem_set_ne _ _ fun h => hj (Fin.ext h)
  refine ⟨findDevice_some.2 ⟨by rw [hcell i hki]; exact hdev, fun j hj => ?_⟩, (hcell i hki).trans hm⟩
  by_cases hkj : k = j
  · subst hkj
    rw [hmap, Fin.getElem_fin, Vector.getElem_set_self]
    exact fun h => hab (Option.some.inj h)
  · rw [hcell j hkj]
    exact hbefore j hj

theorem findDevice_none_iff {b : Addr} : s.findDevice b = none ↔ ∀ j : MapIx, (s.addressMap[j]).map (·.device) ≠ some b := by
  unfold State.findDevice
  rw [List.find?_eq_none]
  exact ⟨fun h j => by simpa using h j (List.mem_finRange j), fun h j _ => by simpa using h j⟩

/-- R180: a device unknown before, or known only where the learning replaces, is unknown after it. -/
theorem findDevice_unknown {b : Addr} (hab : a ≠ b) (h : s.findDevice b = none ∨ ∃ i, s.findDevice a = none ∧
    (∀ j : MapIx, s.addressMap[j] ≠ none) ∧ s.MapOldest i ∧ ∀ j : MapIx, j ≠ i → (s.addressMap[j]).map (·.device) ≠ some b) :
    (learnMap a g s).findDevice b = none := by
  obtain ⟨k, hmap, hk⟩ := learnMap_index a g s
  refine findDevice_none_iff.2 fun j => ?_
  rw [hmap]
  by_cases hkj : k = j
  · subst hkj
    rw [Fin.getElem_fin, Vector.getElem_set_self]
    exact fun h => hab (Option.some.inj h)
  · rw [Fin.getElem_fin, Vector.getElem_set_ne _ _ fun h => hkj (Fin.ext h)]
    rcases h with h | ⟨i, hnone, hfull, hold, hothers⟩
    · exact findDevice_none_iff.1 h j
    · refine hothers j fun hji => hkj ?_
      rcases hk with hk | ⟨-, hk | hk⟩
      · rw [hnone] at hk
        cases hk
      · exact absurd hk (hfull k)
      · rw [mapOldest_unique hk.2 hold, hji]

end

/-! ### Carriage inspection (R182, R183) -/

section
variable {s : State}

theorem reaches_iff {a : Addr} : s.reaches a = true ↔
    ∃ i e, s.findEntry a = some i ∧ s.entry i = some e ∧ (e.state = .heard ∨ e.state = .linked) := by
  unfold State.reaches State.present
  constructor
  · intro h
    cases hf : s.findEntry a with
    | none => rw [hf] at h; cases h
    | some i =>
      rw [hf] at h
      dsimp only at h
      cases he : s.entry i with
      | none => rw [he] at h; cases h
      | some e =>
        rw [he] at h
        exact ⟨i, e, rfl, he, (present_iff _).1 h⟩
  · rintro ⟨i, e, hf, he, hp⟩
    rw [hf]
    dsimp only
    rw [he]
    exact (present_iff _).2 hp

/-- R182: a delivery to the host, and what the map learns from it. -/
theorem deliver_cases (origin : Addr) (eth : List Byte) (charge : Nat) :
    let src := (ethView eth).src
    let t := deliver origin eth charge s
    t.port = { s.port with delivery := s.port.delivery ++ [{ eth := eth, charge := charge }] } ∧
    t.count .framesToHost = satInc (s.count .framesToHost) ∧
    (src.isGroup = true ∨ s.findEntry origin = none → t.addressMap = s.addressMap) ∧
    (src.isGroup = false → s.findEntry origin ≠ none → s.Learnt t src (.station origin)) ∧
    t = { s with port := t.port, addressMap := t.addressMap, counters := t.counters } := by
  intro src t
  let u : State := bump .framesToHost { s with port := { s.port with delivery := s.port.delivery ++ [{ eth := eth, charge := charge }] } }
  have hmoves (c : Counter) (hc : c = .addressMoves ∨ c = .mapReplacements) : s.count c = u.count c := by
    rcases hc with rfl | rfl
    · exact (cnt_bump (by decide) _).symm
    · exact (cnt_bump (by decide) _).symm
  have hself : u.count .framesToHost = satInc (s.count .framesToHost) := cnt_self _ _
  by_cases hlearns : (!src.isGroup && (s.findEntry origin).isSome) = true
  · have ht : t = learnMap src (.station origin) u := if_pos hlearns
    rw [Bool.and_eq_true, Bool.not_eq_true'] at hlearns
    have hframe := learnMap_frame src (.station origin) u
    have hlearnt := learnMap_learnt src (.station origin) u
    have hcount : (learnMap src (.station origin) u).count .framesToHost = u.count .framesToHost := cnt_learnMap (by decide) (by decide) _ _ _
    rw [← ht] at hframe hlearnt hcount
    refine ⟨?_, hcount.trans hself, fun h => ?_, fun _ _ => hlearnt.congr rfl rfl hmoves rfl fun _ _ => rfl, ?_⟩
    · rw [hframe]
      rfl
    · rcases h with h | h
      · rw [hlearns.1] at h
        cases h
      · rw [h] at hlearns
        cases hlearns.2
    · rw [hframe]
      rfl
  · have ht : t = u := if_neg hlearns
    refine ⟨by rw [ht]; rfl, by rw [ht]; exact hself, fun _ => by rw [ht]; rfl, fun hg hf => absurd ?_ hlearns, by rw [ht]; rfl⟩
    rw [hg, Option.isSome_iff_ne_none.2 hf]
    rfl

theorem relay_drops {origin final : Addr} {hop : Nat} {q : QueueIx} {eth : List Byte}
    (h : ¬(hop = 0 ∧ s.settings.relay = true ∧ s.reaches final = true)) : relay origin final hop q eth s = relayDrop s := if_neg h

theorem relay_offers {origin final : Addr} {hop : Nat} {q : QueueIx} {eth : List Byte}
    (h : hop = 0 ∧ s.settings.relay = true ∧ s.reaches final = true) {f : HostFrame}
    (hf : f = { id := 0, origin := origin, final := final, hop := 1, queue := q, eth := eth, expiry := 0#32 }) :
    (∀ t, admission f s = (true, t) → relay origin final hop q eth s = bump .relayedCarriages t) ∧
    (∀ t, admission f s = (false, t) → relay origin final hop q eth s = relayDrop t) := by
  subst hf
  unfold relay
  rw [if_pos h]
  refine ⟨fun t ht => ?_, fun t ht => ?_⟩
  · rw [ht]
  · rw [ht]

end

/-- Settles O49: admission by its two tests, and the inspection of a carriage by the stations that its record names. -/
theorem admissionAndInspection : Obligations.AdmissionAndInspection := by
  refine ⟨admission_cases, ?_⟩
  intro s j origin final hop queue len eth whole flagged reached
  have hreached : s.reaches final = true ↔ reached := reaches_iff
  have hinspect (hw : whole) : inspect j s = if origin = s.settings.station then bump .loopDrops s
      else if final = s.settings.station then deliver origin eth j.charge s
      else relay origin final hop ⟨queue - 1, by have := hw.2.2.2.2; omega⟩ eth s := dif_pos hw
  refine ⟨fun hn => dif_neg hn, fun hw ho => ?_, fun hw ho hf => ?_, fun hw ho hf => ⟨?_, fun hdrop => ?_⟩⟩
  · rw [hinspect hw, if_pos ho]
  · intro src t
    have ht : t = deliver origin eth j.charge s := (hinspect hw).trans ((if_neg ho).trans (if_pos hf))
    rw [ht]
    exact deliver_cases origin eth j.charge
  · intro q hh hr hre hq f
    have hrelay : inspect j s = relay origin final hop q eth s := by
      rw [hinspect hw, if_neg ho, if_neg hf]
      congr 1
      exact Fin.ext (by show queue - 1 = q.val; omega)
    rw [hrelay]
    exact relay_offers ⟨hh, hr, hreached.2 hre⟩ rfl
  · rw [hinspect hw, if_neg ho, if_neg hf]
    refine relay_drops fun ⟨hh, hr, hre⟩ => ?_
    rcases hdrop with h | h | h
    · omega
    · rw [h] at hr
      cases hr
    · exact h (hreached.1 hre)

/-! ### Host frames queued or replicated (R169 to R171) -/

section
variable {s : State} {b : List Byte}

/-- R169: the part once a host frame has been counted and its source learned. -/
def State.sourceLearned (s : State) (b : List Byte) : State := learnSource (ethView b).src (bump .hostFramesReceived s)

theorem sourceLearned_group (h : (ethView b).src.isGroup = true) : s.sourceLearned b = bump .hostFramesReceived s := if_pos h

theorem sourceLearned_single (h : (ethView b).src.isGroup = false) :
    s.sourceLearned b = learnMap (ethView b).src .localHost (bump .hostFramesReceived s) := if_neg (by rw [h]; decide)

theorem sourceLearned_frame (s : State) (b : List Byte) : s.sourceLearned b =
    { s with addressMap := (s.sourceLearned b).addressMap, counters := (s.sourceLearned b).counters } := by
  cases hg : (ethView b).src.isGroup with
  | true =>
    rw [sourceLearned_group hg]
    rfl
  | false =>
    rw [sourceLearned_single hg]
    exact (learnMap_frame _ _ _).trans rfl

theorem cnt_sourceLearned {c : Counter} (h1 : Counter.addressMoves.index ≠ c.index) (h2 : Counter.mapReplacements.index ≠ c.index) :
    (s.sourceLearned b).count c = (bump .hostFramesReceived s).count c := by
  cases hg : (ethView b).src.isGroup with
  | true => rw [sourceLearned_group hg]
  | false => rw [sourceLearned_single hg, cnt_learnMap h1 h2]

theorem sourceLearned_count : (s.sourceLearned b).count .hostFramesReceived = satInc (s.count .hostFramesReceived) := by
  rw [cnt_sourceLearned (by decide) (by decide), cnt_self]

/-- What a host frame's source teaches, as it stands in a part that counts the learning as this one does. -/
theorem sourceLearned_learnt {t : State} (hm : t.addressMap = (s.sourceLearned b).addressMap)
    (hc : ∀ c, c = .addressMoves ∨ c = .mapReplacements → t.count c = (s.sourceLearned b).count c) :
    ((ethView b).src.isGroup = true → t.addressMap = s.addressMap) ∧
      ((ethView b).src.isGroup = false → s.Learnt t (ethView b).src .localHost) := by
  refine ⟨fun hg => by rw [hm, sourceLearned_group hg]; rfl, fun hg => ?_⟩
  have hlearnt := learnMap_learnt (ethView b).src .localHost (bump .hostFramesReceived s)
  rw [← sourceLearned_single hg] at hlearnt
  refine hlearnt.congr rfl rfl (fun c hx => ?_) hm hc
  rcases hx with rfl | rfl <;> exact (cnt_bump (by decide) _).symm

theorem hostFrame_group (h : (ethView b).dst.isGroup = true) :
    hostFrame b (bump .hostFramesReceived s) = replicate (s.settings.classify (ethView b).vlan) b (s.sourceLearned b) := by
  have hset : (s.sourceLearned b).settings = s.settings := by rw [sourceLearned_frame]
  rw [← hset]
  exact if_pos h

theorem hostFrame_unknown (hg : (ethView b).dst.isGroup = false) (h : (s.sourceLearned b).findDevice (ethView b).dst = none) :
    hostFrame b (bump .hostFramesReceived s) = replicate (s.settings.classify (ethView b).vlan) b (s.sourceLearned b) := by
  have hset : (s.sourceLearned b).settings = s.settings := by rw [sourceLearned_frame]
  rw [← hset]
  unfold State.sourceLearned at h ⊢
  unfold hostFrame
  rw [if_neg (by rw [hg]; decide), h]
  rfl

theorem hostFrame_local {m : MapEntry} (hg : (ethView b).dst.isGroup = false) (hm : m.target = .localHost)
    (h : ((s.sourceLearned b).findDevice (ethView b).dst).bind (fun i => (s.sourceLearned b).addressMap[i]) = some m) :
    hostFrame b (bump .hostFramesReceived s) = bump .localDiscards (s.sourceLearned b) := by
  unfold State.sourceLearned at h ⊢
  unfold hostFrame
  rw [if_neg (by rw [hg]; decide), h]
  dsimp only
  rw [hm]

theorem hostFrame_bridged {m : MapEntry} {a : Addr} (hg : (ethView b).dst.isGroup = false) (hm : m.target = .station a)
    (h : ((s.sourceLearned b).findDevice (ethView b).dst).bind (fun i => (s.sourceLearned b).addressMap[i]) = some m) :
    hostFrame b (bump .hostFramesReceived s) =
      (admission (s.carriage a (s.settings.classify (ethView b).vlan) b) (s.sourceLearned b)).2 := by
  have hset : (s.sourceLearned b).settings = s.settings := by rw [sourceLearned_frame]
  have hcarriage : s.carriage a (s.settings.classify (ethView b).vlan) b =
      (s.sourceLearned b).carriage a ((s.sourceLearned b).settings.classify (ethView b).vlan) b := by
    unfold State.carriage
    rw [hset]
  rw [hcarriage]
  unfold State.sourceLearned at h ⊢
  unfold hostFrame
  rw [if_neg (by rw [hg]; decide), h]
  dsimp only
  rw [hm]

/-- R169: the destination's entry after the source is learned, where the source is another device. -/
theorem sourceLearned_device {i : MapIx} {m : MapEntry} (hsrc : (ethView b).src ≠ (ethView b).dst)
    (hi : s.findDevice (ethView b).dst = some i) (hm : s.addressMap[i] = some m)
    (hkept : ¬((ethView b).src.isGroup = false ∧ s.findDevice (ethView b).src = none ∧ (∀ j : MapIx, s.addressMap[j] ≠ none) ∧
      s.MapOldest i)) :
    ((s.sourceLearned b).findDevice (ethView b).dst).bind (fun i => (s.sourceLearned b).addressMap[i]) = some m := by
  cases hg : (ethView b).src.isGroup with
  | true =>
    rw [sourceLearned_group hg]
    show (s.findDevice (ethView b).dst).bind (fun i => s.addressMap[i]) = some m
    rw [hi, Option.bind_some, hm]
  | false =>
    obtain ⟨hfound, hcell⟩ := findDevice_other (s := bump .hostFramesReceived s) (g := .localHost) hsrc hi hm fun h => hkept ⟨hg, h⟩
    rw [sourceLearned_single hg, hfound, Option.bind_some, hcell]

/-- R169: the source's own entry once it is learned. -/
theorem sourceLearned_source (hg : (ethView b).src.isGroup = false) :
    ((s.sourceLearned b).findDevice (ethView b).src).bind (fun i => (s.sourceLearned b).addressMap[i]) =
      some { device := (ethView b).src, target := .localHost, learned := s.lineTime } := by
  rw [sourceLearned_single hg]
  exact learnMap_found _ _ _

theorem sourceLearned_unknown (hsrc : (ethView b).src ≠ (ethView b).dst) (h : s.findDevice (ethView b).dst = none ∨
    ∃ i, ((ethView b).src.isGroup = false ∧ s.findDevice (ethView b).src = none ∧ (∀ j : MapIx, s.addressMap[j] ≠ none) ∧ s.MapOldest i) ∧
      ∀ j : MapIx, j ≠ i → (s.addressMap[j]).map (·.device) ≠ some (ethView b).dst) :
    (s.sourceLearned b).findDevice (ethView b).dst = none := by
  cases hg : (ethView b).src.isGroup with
  | true =>
    rw [sourceLearned_group hg]
    rcases h with h | ⟨i, ⟨hng, -⟩, -⟩
    · exact h
    · rw [hg] at hng
      cases hng
  | false =>
    rw [sourceLearned_single hg]
    exact findDevice_unknown (s := bump .hostFramesReceived s) hsrc
      (h.imp_right fun ⟨i, ⟨_, hnone, hfull, hold⟩, hothers⟩ => ⟨i, hnone, hfull, hold, hothers⟩)

/-- R171: the entries that receive a copy. -/
theorem receivers_eq (s : State) :
    ((List.finRange 24).filterMap fun i => match s.entry i with
      | some e => if e.takesCopy then some e.addr else none
      | none => none) =
    (List.finRange 24).filterMap fun i => (s.entry i).bind fun e => if e.state ≠ .stale ∧ e.route ≠ .noRoute then some e.addr else none := by
  refine congrArg (fun f => List.filterMap f _) (funext fun i => ?_)
  cases s.entry i with
  | none => rfl
  | some e =>
    refine ite_of_iff ?_ rfl rfl
    unfold Entry.takesCopy
    rw [Bool.and_eq_true, bne_iff_ne, bne_iff_ne]

theorem replicate_eq (q : QueueIx) (b : List Byte) (s : State) :
    let receivers := (List.finRange 24).filterMap fun i =>
      (s.entry i).bind fun e => if e.state ≠ .stale ∧ e.route ≠ .noRoute then some e.addr else none
    replicate q b s = if receivers.isEmpty then bump .noDestination s
      else receivers.foldl (fun t a => offerCopy q b a t) (bump .replications s) := by
  intro receivers
  have hreceivers := receivers_eq s
  unfold replicate
  exact congrArg (fun l : List Addr => if l.isEmpty then bump .noDestination s
    else l.foldl (fun t a => offerCopy q b a t) (bump .replications s)) hreceivers

/-- R169: a frame that ends as a local discard leaves the part at rest, with what its source teaches. -/
theorem discarded_locally (hl : s.Live) (hr : s.Rested)
    (h : takeHostFrame b s = bump .localDiscards (s.sourceLearned b)) :
    ∃ t, exec (.hostFrameReceived b) s = .next t ∧ t = { s with addressMap := t.addressMap, counters := t.counters } ∧
      t.count .localDiscards = satInc (s.count .localDiscards) ∧
      ((ethView b).src.isGroup = true → t.addressMap = s.addressMap) ∧
      ((ethView b).src.isGroup = false → s.Learnt t (ethView b).src .localHost) := by
  have hframe := sourceLearned_frame s b
  have hcount : (s.sourceLearned b).count .localDiscards = s.count .localDiscards := by
    rw [cnt_sourceLearned (by decide) (by decide), cnt_bump (by decide)]
  have hlearnt := sourceLearned_learnt (s := s) (b := b) (t := bump .localDiscards (s.sourceLearned b)) rfl fun c hc => by
    rcases hc with rfl | rfl <;> exact cnt_bump (by decide) _
  have hexec := hostFrame_answer hl h
  generalize s.sourceLearned b = y at *
  refine ⟨_, hexec.trans (next_at_rest hr rfl ?_ ?_ ?_ ?_), ?_, ?_, hlearnt⟩
  · rw [hframe]; rfl
  · rw [hframe]; rfl
  · rw [hframe]; rfl
  · rw [hframe]; rfl
  · rw [hframe]; rfl
  · rw [cnt_self, hcount]

/-- R170: a frame for a device behind a station joins its queue. -/
theorem queued_toward {a : Addr} {q : QueueIx} (hl : s.Live) (_hq : q = s.settings.classify (ethView b).vlan)
    (h : takeHostFrame b s = (admission (s.carriage a q b) (s.sourceLearned b)).2)
    (hdepth : (s.queues[q]).length < (s.settings.queues[q]).depth) (hroom : s.txCharge + (b.length + 16 + 63) / 64 * 64 ≤ 180224) :
    ∃ t u, exec (.hostFrameReceived b) s = .next t ∧ t = settle s.txCharge u ∧
      u.queues = s.queues.set q (s.queues[q] ++
        [{ id := s.nextFrameId, origin := s.settings.station, final := a, hop := 0, queue := q, eth := b,
           expiry := s.lineTime.plus ((s.settings.queues[q]).lifetimeMs * 1000) }]) ∧
      u.count .hostFramesReceived = satInc (s.count .hostFramesReceived) ∧
      u = { s with queues := u.queues, addressMap := u.addressMap, counters := u.counters,
                   nextFrameId := s.nextFrameId + 1, evalDue := true } ∧
      ((ethView b).src.isGroup = false → (u.findDevice (ethView b).src).bind (fun k => u.addressMap[k]) =
        some { device := (ethView b).src, target := .localHost, learned := s.lineTime }) ∧
      ((ethView b).src.isGroup = true → u.addressMap = s.addressMap) ∧
      ((ethView b).src.isGroup = false → s.Learnt u (ethView b).src .localHost) := by
  have hframe := sourceLearned_frame s b
  have hcount := sourceLearned_count (s := s) (b := b)
  have hsource := sourceLearned_source (s := s) (b := b)
  have hlearnt {t : State} := sourceLearned_learnt (s := s) (b := b) (t := t)
  have hexec := hostFrame_answer hl h
  generalize s.sourceLearned b = y at *
  have hqueues : y.queues = s.queues := by rw [hframe]
  have hset : y.settings = s.settings := by rw [hframe]
  have hcharge : y.txCharge = s.txCharge := by
    refine txCharge_congr hqueues ?_
    rw [hframe]
  have htaken := admission_room (s := y) (f := s.carriage a q b) (by rw [hqueues, hset]; exact hdepth) (by rw [hcharge]; exact hroom)
  rw [htaken] at hexec
  refine ⟨_, _, hexec, rfl, ?_, hcount, ?_, hsource, hlearnt rfl fun _ _ => rfl⟩
  · rw [hframe]; rfl
  · rw [hframe]; rfl

/-- Settles O51: what the map holds of the destination once the source is learned decides between the queue, the discard and the
copies. -/
theorem hostFrameQueuedOrReplicated : Obligations.HostFrameQueuedOrReplicated := by
  unfold Obligations.HostFrameQueuedOrReplicated
  intro displaced
  refine ⟨?_, ?_, ?_⟩
  · intro s b i m hl hr hst h1 h2 hf v ht hd hg hi hm hkept q learnt
    have hforward := takeHostFrame_forwarded ⟨hst, h1, h2, hf⟩ ht hd
    have hq : q = s.settings.classify v.vlan := rfl
    refine ⟨fun a hma hsrc hdepth hroom => ?_, fun hlocal => ?_⟩
    · exact queued_toward hl hq (hforward.trans (hostFrame_bridged hg hma (sourceLearned_device hsrc hi hm hkept))) hdepth hroom
    · refine discarded_locally hl hr (hforward.trans ?_)
      by_cases hsrc : v.src = v.dst
      · have hfound := sourceLearned_source (s := s) (b := b) (by rw [show (ethView b).src = v.dst from hsrc]; exact hg)
        rw [show (ethView b).src = v.dst from hsrc] at hfound
        exact hostFrame_local hg rfl hfound
      · exact hostFrame_local hg (hlocal.resolve_right hsrc) (sourceLearned_device hsrc hi hm hkept)
  · intro s b hl hr hst h1 h2 hf v ht hd hdst q
    have hforward := takeHostFrame_forwarded ⟨hst, h1, h2, hf⟩ ht hd
    have hlearnt := sourceLearned_learnt (s := s) (b := b) (t := s.sourceLearned b) rfl fun _ _ => rfl
    refine ⟨s.sourceLearned b, hostFrame_answer hl (hforward.trans ?_), sourceLearned_count, hlearnt.1, hlearnt.2, sourceLearned_frame s b⟩
    cases hg : v.dst.isGroup with
    | true => exact hostFrame_group hg
    | false =>
      obtain ⟨hsrc, hunknown⟩ := hdst.resolve_left (by rw [hg]; decide)
      exact hostFrame_unknown hg (sourceLearned_unknown hsrc hunknown)
  · intro s q b receivers
    have hreplicate : replicate q b s = if receivers.isEmpty then bump .noDestination s
      else receivers.foldl (fun t a => offerCopy q b a t) (bump .replications s) := replicate_eq q b s
    refine ⟨fun hnone => ?_, fun hsome => ?_, ?_⟩
    · rw [hreplicate, hnone]
      rfl
    · rw [hreplicate, if_neg fun h => hsome (List.isEmpty_iff.1 h)]
    · intro a t copy
      refine ⟨fun h => ?_, fun h => ?_⟩
      · unfold offerCopy State.carriage
        rw [h]
      · unfold offerCopy State.carriage
        rw [h]

end

end Sys2Proof.Machine
end

/-! ## Proofs: what the end of a processed DATA or GRID frame answers, and what a trigger does (O26) -/

section
namespace Sys2Proof.Machine

/-! ### The frame end of a processed frame (R27, R32, R39) -/

section
variable {s u : State} {r : Reception} {h : Header} {x : Resolution} {d : ResponderDuty} {i : EntryIx} {e : Entry}

theorem setResp_mac_state (b : Option RespBody) : (setResp b u).mac.state = u.mac.state := rfl

theorem handOn_data (payload : List Byte) (readings : List (List Int)) (hk : h.kind = .data) :
    handOn r h x payload readings u = dataEnd x h payload u := by
  unfold handOn
  rw [hk]

theorem handOn_grid (payload : List Byte) (readings : List (List Int)) (hk : h.kind = .grid) :
    handOn r h x payload readings u = gridEnd h payload u := by
  unfold handOn
  rw [hk]

theorem handOn_sound (payload : List Byte) (readings : List (List Int)) (hk : h.kind = .sound) :
    handOn r h x payload readings u = soundEnd r h readings u := by
  unfold handOn
  rw [hk]

theorem handOn_note (payload : List Byte) (readings : List (List Int)) (hk : h.kind = .note) :
    handOn r h x payload readings u = noteEnd h payload u := by
  unfold handOn
  rw [hk]

theorem dataEnd_mac_state (payload : List Byte) : (dataEnd x h payload u).mac.state = u.mac.state := by
  unfold dataEnd
  dsimp only
  split
  · rfl
  · split
    · rfl
    all_goals rw [setResp_mac_state, (((Inner.refl u).promoteByData _ _).takeData _ _ _).mac]

theorem gridEnd_mac_state (payload : List Byte) : (gridEnd h payload u).mac.state = u.mac.state := by
  unfold gridEnd
  split
  · rfl
  · next i _ =>
    split
    · rfl
    · next p _ =>
      have hmac := ((Inner.refl u).takePart i p).mac
      generalize takePart i p u = taken at hmac ⊢
      obtain ⟨status, t⟩ := taken
      have hstate : t.mac.state = u.mac.state := congrArg Mac.state hmac
      exact hstate

/-- R27: what a payload is handed to leaves the state of the MAC. -/
theorem handOn_mac_state (payload : List Byte) (readings : List (List Int)) :
    (handOn r h x payload readings u).mac.state = u.mac.state := by
  cases hk : h.kind with
  | data => rw [handOn_data payload readings hk, dataEnd_mac_state]
  | grid => rw [handOn_grid payload readings hk, gridEnd_mac_state]
  | sound => rw [handOn_sound payload readings hk, ((Inner.refl u).soundEnd _ _ _).mac]
  | note => rw [handOn_note payload readings hk, ((Inner.refl u).noteEnd _ _).mac]
  | resp =>
    unfold handOn
    rw [hk]

theorem payloadSymbols_of_not_resp (hk : h.kind ≠ .resp) : h.payloadSymbols = h.symbols := if_neg hk

theorem exec_frameEnd_processed (payload : Demodulated) (readings : List (List Int)) (hl : s.Live) (hr : s.line.reception = some r)
    (hh : r.header = .used h .processed x) (hk : h.kind ≠ .resp) (hnow : s.lineTime = r.frameStart.plus (192 + 32 * h.payloadSymbols)) :
    exec (.frameEnd payload readings) s = .next (settle s.txCharge
      (nextStep h .processed (resolveWait (handOn r h x (r.payloadBytes payload) readings s.closed)))) := by
  rw [exec_frameEnd payload readings hl hr hh hnow]
  simp only [endReception, hr, hh, if_pos, if_neg hk]
  rfl

theorem exec_frameEnd_taken (payload : Demodulated) (readings : List (List Int)) (hl : s.Live) (hr : s.line.reception = some r)
    (hh : r.header = .used h .processed x) (hk : h.kind ≠ .resp) (hnow : s.lineTime = r.frameStart.plus (192 + 32 * h.payloadSymbols))
    (hm : s.mac.state ≠ .awaitingResponse) :
    exec (.frameEnd payload readings) s = .next (settle s.txCharge
      (nextStep h .processed (handOn r h x (r.payloadBytes payload) readings s.closed))) := by
  rw [exec_frameEnd_processed payload readings hl hr hh hk hnow, resolveWait_of_not_waiting (by rw [handOn_mac_state]; exact hm)]

/-- R32, R39: a RESP composed for an open duty is sent. -/
theorem answerOrGap_answered (b : RespBody) (hd : u.mac.duty = some d) : answerOrGap (setResp (some b) u) =
    { u with mac := { u.mac with state := .responding, gap := none, duty := some { d with resp := some b } } } := by
  have hduty : (setResp (some b) u).mac.duty = some { d with resp := some b } := by
    unfold setResp modMac
    dsimp only
    rw [hd]
    rfl
  unfold answerOrGap
  rw [if_pos (by rw [hduty]; rfl)]
  unfold setResp modMac
  dsimp only
  rw [hd]
  rfl

/-- R39, R51: without a RESP the duty is dropped, and the response gap follows. -/
theorem answerOrGap_unanswered (u : State) : answerOrGap (setResp none u) =
    { u with mac := { u.mac with state := .deferring, gap := some (.response (u.lineTime.plus 120)), duty := none } } := by
  unfold answerOrGap
  exact if_neg fun h => Bool.false_ne_true h

theorem dataEnd_unknown (payload : List Byte) (hf : u.findEntry h.tx = none) :
    dataEnd x h payload u = setResp (some { status := .noRoom, entries := List.replicate h.segments false, bands := none }) u := by
  unfold dataEnd
  rw [hf]
  rfl

theorem dataEnd_unresolved (payload : List Byte) (hf : u.findEntry h.tx = some i) : dataEnd .unresolved h payload u =
    setResp (some { status := .gridUnknown, entries := List.replicate h.segments false, bands := none }) (bump .gridUnknownSent u) := by
  unfold dataEnd
  rw [hf]
  rfl

theorem dataEnd_taken (payload : List Byte) (hf : u.findEntry h.tx = some i) (hx : x ≠ .unresolved) : dataEnd x h payload u =
    setResp (some { status := .accepted, entries := (takeData i h.floorSeq (walkSegments h.segments payload) (promoteByData i x u)).1, bands := none })
      (takeData i h.floorSeq (walkSegments h.segments payload) (promoteByData i x u)).2 := by
  unfold dataEnd
  rw [hf]
  cases x with
  | unresolved => exact absurd rfl hx
  | robust => rfl
  | latched l => rfl

theorem gridEnd_unknown (payload : List Byte) (hf : u.findEntry h.tx = none) :
    gridEnd h payload u = setResp (some { status := .noRoom, entries := [], bands := none }) u := by
  unfold gridEnd
  rw [hf]
  rfl

theorem gridEnd_malformed {payload : List Byte} (hf : u.findEntry h.tx = some i) (hp : readGridPart payload = none) :
    gridEnd h payload u = setResp none (bump .badControlPayloads u) := by
  unfold gridEnd
  rw [hf, hp]

end

/-! ### The receive side of the segment engine (R159 to R163) -/

section
variable {s : State} {i : EntryIx} {e : Entry} {q x : Seq}

/-- The two distances between different sequences make up the whole circle. -/
theorem seq_distances (a b : Seq) (h : 1 ≤ (a - b).toNat) : (a - b).toNat + (b - a).toNat = 4096 := by
  have ha := a.isLt
  have hb := b.isLt
  rw [BitVec.toNat_sub] at h ⊢
  rw [BitVec.toNat_sub]
  omega

theorem seq_ne_of_distance {a b : Seq} (h : 1 ≤ (a - b).toNat) : a ≠ b := by
  rintro rfl
  rw [BitVec.sub_self] at h
  exact absurd h (by decide)

theorem ahead_iff {a b : Seq} : Seq.ahead a b = true ↔ 1 ≤ (a - b).toNat ∧ (a - b).toNat ≤ 2047 := decide_eq_true_iff

theorem floorStep_none (r : RxState) (f : Seq) (h : r.expected = none) : r.floorStep f = (r.restartAt f, none) := by
  unfold RxState.floorStep
  rw [h]

theorem floorStep_same (r : RxState) (f : Seq) (h : r.expected = some f) : r.floorStep f = (r, none) := by
  unfold RxState.floorStep
  rw [h]
  exact if_pos rfl

theorem floorStep_ahead (r : RxState) {f : Seq} (h : r.expected = some x) (h1 : 1 ≤ (f - x).toNat) (h2 : (f - x).toNat ≤ 2047) :
    r.floorStep f = ({ r.restartAt f with reorder := r.reorder.filter fun x => decide ((x.seq - f).toNat ≤ 63) }, some .floorSkips) := by
  unfold RxState.floorStep
  rw [h]
  dsimp only
  rw [if_neg (seq_ne_of_distance h1), if_pos (ahead_iff.2 ⟨h1, h2⟩)]
  rfl

theorem floorStep_behind (r : RxState) {f : Seq} (h : r.expected = some x) (h1 : 1 ≤ (x - f).toNat) (h2 : (x - f).toNat ≤ 2048) :
    r.floorStep f = if (x - f).toNat ≤ 32 then (r, none) else (r.restartAt f, some .resyncs) := by
  have hcircle := seq_distances x f h1
  unfold RxState.floorStep
  rw [h]
  dsimp only
  rw [if_neg (seq_ne_of_distance h1).symm, if_neg fun k => ?_]
  have := (ahead_iff.1 k).2
  omega

theorem floorStep_cases (r : RxState) (f : Seq) :
    let restarted : RxState := { r with expected := some f, reorder := [], assembling := false, joined := none }
    (r.expected = none → r.floorStep f = (restarted, none)) ∧
    (∀ e, r.expected = some e →
      (f = e → r.floorStep f = (r, none)) ∧
      (1 ≤ (f - e).toNat → (f - e).toNat ≤ 2047 →
        r.floorStep f = ({ restarted with reorder := r.reorder.filter fun x => decide ((x.seq - f).toNat ≤ 63) }, some .floorSkips)) ∧
      (1 ≤ (e - f).toNat → (e - f).toNat ≤ 32 → r.floorStep f = (r, none)) ∧
      (33 ≤ (e - f).toNat → (e - f).toNat ≤ 2048 → r.floorStep f = (restarted, some .resyncs))) := by
  intro restarted
  refine ⟨floorStep_none r f, fun e he => ⟨fun hf => ?_, floorStep_ahead r he, fun h1 h2 => ?_, fun h1 h2 => ?_⟩⟩
  · subst hf
    exact floorStep_same r f he
  · rw [floorStep_behind r he h1 (by omega), if_pos h2]
  · rw [floorStep_behind r he (by omega) h2, if_neg (by omega)]
    rfl

theorem takeData_eq (f : Seq) (segments : List RxSegment) (he : s.entry i = some e) : takeData i f segments s =
    ((judgeAll i segments (deliverAll i (bumpOpt (e.rx.floorStep f).2 (s.received i e (e.rx.floorStep f).1)))).1,
      segments.foldl (fun t x => enterVerdict i x.good t)
        (judgeAll i segments (deliverAll i (bumpOpt (e.rx.floorStep f).2 (s.received i e (e.rx.floorStep f).1)))).2) := by
  have hmod : modRx i (fun _ => (e.rx.floorStep f).1) s = s.received i e (e.rx.floorStep f).1 := by
    unfold modRx modEntry
    rw [he]
    rfl
  unfold takeData
  rw [he]
  dsimp only [Option.map_some]
  rw [hmod]

theorem deliverAll_of_fixed (h : deliverOne i s = s) : deliverAll i s = s := by
  rw [deliverAll_times, deliverTimes_fix _ _ _ h]

theorem deliverOne_unexpected (he : s.entry i = some e) (hq : e.rx.expected = none) : deliverOne i s = s := by
  unfold deliverOne
  rw [he]
  dsimp only
  rw [hq]

theorem deliverOne_missing (he : s.entry i = some e) (hq : e.rx.expected = some q)
    (hx : e.rx.reorder.find? (fun y => y.seq == q) = none) : deliverOne i s = s := by
  unfold deliverOne
  rw [he]
  dsimp only
  rw [hq]
  dsimp only
  rw [hx]

theorem deliverOne_found {y : StoredSegment} {fed : Feeding} (he : s.entry i = some e) (hq : e.rx.expected = some q)
    (hy : e.rx.reorder.find? (fun y => y.seq == q) = some y)
    (hfed : { e.rx with expected := some (q + 1#12), reorder := e.rx.reorder.filter fun y => y.seq != q }.feed y = fed) :
    deliverOne i s = inspectCompleted fed.complete (bumpOpt fed.count (s.received i e fed.rx)) := by
  unfold deliverOne
  rw [he]
  dsimp only
  rw [hq]
  dsimp only
  rw [hy]
  dsimp only
  rw [hfed]
  cases fed.complete <;> rfl

/-- R160: an intact segment, at an entry that expects a sequence. -/
theorem judgeIntact_eq (first last : Bool) (payload : List Byte) (he : s.entry i = some e) (hx : e.rx.expected = some x) :
    judgeIntact i q first last payload s =
      if Seq.ahead x q then (true, bump .duplicates s)
      else if (q - x).toNat ≤ 63 then
        if e.rx.reorder.any fun y => y.seq == q then (true, bump .duplicates s)
        else if s.rxCharge + (payload.length + 63) / 64 * 64 ≤ 16384 then
          (true, deliverAll i (s.received i e { e.rx with reorder := e.rx.reorder ++
            [{ seq := q, first := first, last := last, payload := payload }] }))
        else (false, bump .reserveFull s)
      else (false, bump .beyondWindow s) := by
  have hmod (f : RxState → RxState) : modRx i f s = s.received i e (f e.rx) := by
    unfold modRx modEntry
    rw [he]
    rfl
  unfold judgeIntact
  rw [he]
  simp only [Option.bind_some, hx, Option.map_some, hmod]
  rfl

theorem judgeIntact_cases (first last : Bool) (payload : List Byte) (he : s.entry i = some e) (hx : e.rx.expected = some x) :
    let verdict := judgeIntact i q first last payload s
    let kept := { e.rx with reorder := e.rx.reorder ++ [{ seq := q, first := first, last := last, payload := payload }] }
    let charge := (payload.length + 63) / 64 * 64
    (1 ≤ (x - q).toNat → (x - q).toNat ≤ 2047 → verdict = (true, bump .duplicates s)) ∧
    ((q - x).toNat ≤ 63 → (∃ y ∈ e.rx.reorder, y.seq = q) → verdict = (true, bump .duplicates s)) ∧
    ((q - x).toNat ≤ 63 → (∀ y ∈ e.rx.reorder, y.seq ≠ q) →
      (s.rxCharge + charge ≤ 16384 →
        verdict = (true, deliverAll i { s with table := s.table.set i (some { e with rx := kept }) })) ∧
      (16384 < s.rxCharge + charge → verdict = (false, bump .reserveFull s))) ∧
    (64 ≤ (q - x).toNat → (q - x).toNat ≤ 2048 → verdict = (false, bump .beyondWindow s)) := by
  intro verdict kept charge
  have hverdict := judgeIntact_eq (q := q) first last payload he hx
  have hnear {n : Nat} (hn : n ≤ 2048) (h : (q - x).toNat ≤ n) : ¬Seq.ahead x q = true := fun k => by
    obtain ⟨h1, h2⟩ := ahead_iff.1 k
    have := seq_distances x q h1
    omega
  refine ⟨fun h1 h2 => ?_, fun h hstored => ?_, fun h hfresh => ?_, fun h1 h2 => ?_⟩
  · exact hverdict.trans (if_pos (ahead_iff.2 ⟨h1, h2⟩))
  · have hany : e.rx.reorder.any (fun y => y.seq == q) = true := by
      obtain ⟨y, hy, hseq⟩ := hstored
      exact List.any_eq_true.2 ⟨y, hy, beq_iff_eq.2 hseq⟩
    rw [if_neg (hnear (by decide) h), if_pos h, if_pos hany] at hverdict
    exact hverdict
  · have hany : ¬(e.rx.reorder.any (fun y => y.seq == q)) = true := fun k => by
      obtain ⟨y, hy, hseq⟩ := List.any_eq_true.1 k
      exact hfresh y hy (beq_iff_eq.1 hseq)
    rw [if_neg (hnear (by decide) h), if_pos h, if_neg hany] at hverdict
    exact ⟨fun hroom => hverdict.trans (if_pos hroom), fun hfull => hverdict.trans (if_neg (Nat.not_le.2 hfull))⟩
  · rw [if_neg (hnear (Nat.le_refl _) h2), if_neg (by omega)] at hverdict
    exact hverdict

theorem pushVerdict_eq (w : List Bool) (good : Bool) (h : w.length ≤ 64) :
    pushVerdict w good = (if w.length = 64 then w.tail else w) ++ [good] := by
  unfold pushVerdict
  by_cases hfull : w.length = 64
  · rw [if_pos hfull, hfull]
    show (w ++ [good]).drop 1 = _
    rw [List.drop_append_of_le_length (by omega), List.drop_one]
  · rw [if_neg hfull, show w.length + 1 - 64 = 0 by omega, List.drop_zero]

theorem enterVerdict_cases (good : Bool) (he : s.entry i = some e) (hw : e.rx.window.length ≤ 64) :
    let w := (if e.rx.window.length = 64 then e.rx.window.tail else e.rx.window) ++ [good]
    let entered := fun (v : List Bool) => { s with table := s.table.set i (some { e with rx := { e.rx with window := v } }) }
    (w.countP (! ·) < 8 → enterVerdict i good s = entered w) ∧
    (8 ≤ w.countP (! ·) → enterVerdict i good s = trigger i Causes.ofError (bump .errorTriggers (entered []))) := by
  intro w entered
  have hpushed : pushVerdict e.rx.window good = w := pushVerdict_eq _ _ hw
  have hmod (f : RxState → RxState) : modRx i f s = s.received i e (f e.rx) := by
    unfold modRx modEntry
    rw [he]
    rfl
  have hverdict : enterVerdict i good s =
      if badCount w ≥ 8 then trigger i Causes.ofError (bump .errorTriggers (entered [])) else entered w := by
    unfold enterVerdict
    rw [he]
    simp only [hpushed, hmod]
    rfl
  exact ⟨fun h => hverdict.trans (if_neg (Nat.not_le.2 h)), fun h => hverdict.trans (if_pos h)⟩

end

/-! ### What a trigger does (R78, R80, R83, R96) -/

section
variable {s : State} {i : EntryIx} {e : Entry} {c : Causes}

/-- R96: the boost at a trigger, raised where the cause is an error. -/
def Causes.boostAt (c : Causes) (boost : Nat) : Nat := if c.error then min 32 (boost + 8) else boost

/-- R96: a build record with the boost that a trigger leaves. -/
def BuildRecord.boostedBy (b : BuildRecord) (c : Causes) : BuildRecord := { b with boost := c.boostAt b.boost }

/-- R63, R96: the part at a trigger, the entry apart: a raise counted where the cause is an error, and the cells that are aged counted. -/
def State.triggerCounted (s : State) (e : Entry) (c : Causes) : State :=
  bumpBy .cellsAged (e.snr.oldCount s.lineTime fun _ _ => true) (if c.error then bump .boostRaises s else s)

/-- R63, R83: the part at a trigger with the entry's cells aged and its build record `b`. -/
def State.triggered (s : State) (i : EntryIx) (e : Entry) (c : Causes) (b : BuildRecord) : State :=
  { s.triggerCounted e c with
    table := s.table.set i (some { e with snr := e.snr.age s.lineTime fun _ _ => true, build := b }) }

theorem bumpBy_setEntry (k : Counter) (n : Nat) (x : Option Entry) : bumpBy k n (setEntry i x s) = setEntry i x (bumpBy k n s) := by
  induction n generalizing s with
  | zero => rfl
  | succ n ih => exact ih (s := bump k s)

theorem bumpBy_table (k : Counter) (n : Nat) (s : State) : (bumpBy k n s).table = s.table := by
  rw [bumpBy_eq]

theorem triggerCounted_time : (s.triggerCounted e c).lineTime = s.lineTime := by
  unfold State.triggerCounted
  rw [bumpBy_eq]
  split <;> rfl

theorem triggerCounted_settings : (s.triggerCounted e c).settings = s.settings := by
  unfold State.triggerCounted
  rw [bumpBy_eq]
  split <;> rfl

theorem triggered_entry (b : BuildRecord) : (s.triggered i e c b).entry i =
    some { e with snr := e.snr.age s.lineTime fun _ _ => true, build := b } := entry_setEntry_self i _ s

theorem triggered_set (b : BuildRecord) (x : Entry) : setEntry i (some x) (s.triggered i e c b) =
    { s.triggerCounted e c with table := s.table.set i (some x) } := by
  unfold setEntry State.triggered
  simp only [Vector.set_set]

/-- R63, R96: the boost raised for an error, and the cells then aged. -/
theorem trigger_prepared (he : s.entry i = some e) : ageEntry i (if c.error then boostUp i s else s) =
    s.triggered i e c (e.build.boostedBy c) := by
  have hraised : (if c.error then boostUp i s else s) =
      setEntry i (some { e with build := { e.build with boost := c.boostAt e.build.boost } }) (if c.error then bump .boostRaises s else s) := by
    unfold Causes.boostAt
    cases c.error with
    | true =>
      simp only [if_true]
      unfold boostUp modEntry
      rw [he]
      rfl
    | false => exact (setEntry_same he).symm
  have htime : (if c.error then bump .boostRaises s else s).lineTime = s.lineTime := by split <;> rfl
  have htable : (if c.error then bump .boostRaises s else s).table = s.table := by split <;> rfl
  rw [hraised, ageEntry, ageCells_some _ (entry_setEntry_self i _ _), setEntry_lineTime, htime, bumpBy_setEntry, bumpBy_setEntry]
  unfold State.triggered State.triggerCounted setEntry
  dsimp only
  rw [bumpBy_table, htable, Vector.set_set]
  rfl

theorem trigger_not_present (hp : e.state.present = false) (he : s.entry i = some e) : trigger i c s = bump .ignoredTriggers s := by
  unfold trigger
  refine if_neg ?_
  unfold State.present
  rw [he]
  exact fun h => Bool.false_ne_true (hp.symm.trans h)

/-- R78, R83: a trigger that finds the record IDLE starts a build. -/
theorem trigger_starts (he : s.entry i = some e) (hp : e.state.present = true) (hi : e.build.state = .idle) :
    let raised := c.boostAt e.build.boost
    let boost := if c.error then raised else decayBoost raised (badCount e.rx.window)
    let cells := e.snr.age s.lineTime fun _ _ => true
    let started := bump .buildsStarted (s.triggered i e c { e.build with
      state := .building s.lineTime c
        { cells := cells, margin := s.settings.margin, boost := boost, localBands := s.settings.bands, peerBands := e.peerBands,
          pairs := s.settings.pairs }
      boost := boost, retrySpent := c.abandonmentAlone })
    trigger i c s = if c.forced then bump .buildsForced started else started := by
  intro raised boost cells started
  have hpresent : s.present i = true := by
    unfold State.present
    rw [he]
    exact hp
  have hentry := triggered_entry (s := s) (i := i) (e := e) (c := c) (e.build.boostedBy c)
  have hyoung : ageEntry i (s.triggered i e c (e.build.boostedBy c)) = s.triggered i e c (e.build.boostedBy c) := by
    refine ageEntry_young hentry fun p m => ?_
    have htime : (s.triggered i e c (e.build.boostedBy c)).lineTime = s.lineTime := triggerCounted_time
    rw [htime]
    exact snr_age_young _ _ p m
  unfold trigger
  rw [if_pos hpresent, trigger_prepared he]
  dsimp only
  rw [hentry]
  rw [Option.map_some, show (e.build.boostedBy c).state = .idle from hi]
  dsimp only
  unfold startBuild
  dsimp only
  rw [hyoung, hentry]
  dsimp only
  rw [triggered_set]
  have htime : (s.triggered i e c (e.build.boostedBy c)).lineTime = s.lineTime := triggerCounted_time
  have hsettings : (s.triggered i e c (e.build.boostedBy c)).settings = s.settings := triggerCounted_settings
  rw [htime, hsettings]
  rfl

/-- R78: a trigger that finds a build running is remembered. -/
theorem trigger_remembered {start : LineTime} {d : Causes} {x : Snapshot} (he : s.entry i = some e) (hp : e.state.present = true)
    (hi : e.build.state = .building start d x) :
    trigger i c s = bump .rememberedTriggers (s.triggered i e c { e.build with
      boost := c.boostAt e.build.boost, remembered := some ((e.build.remembered.getD Causes.empty).union c) }) := by
  have hpresent : s.present i = true := by
    unfold State.present
    rw [he]
    exact hp
  have hentry := triggered_entry (s := s) (i := i) (e := e) (c := c) (e.build.boostedBy c)
  unfold trigger
  rw [if_pos hpresent, trigger_prepared he]
  dsimp only
  rw [hentry]
  rw [Option.map_some, show (e.build.boostedBy c).state = .building start d x from hi]
  dsimp only
  unfold modEntry
  rw [hentry]
  dsimp only
  rw [triggered_set]
  rfl

end

/-- Settles O26: the payload handed on by its kind and answered, the receive side rule by rule, and a trigger by the state of the build
record. -/
theorem frameEndAnswersRefusal : Obligations.FrameEndAnswersRefusal := by
  refine ⟨?_, floorStep_cases, ?_, ?_, ?_, fun s i e x q first last payload => judgeIntact_cases first last payload,
    fun s i e good => enterVerdict_cases good, ⟨rfl, ?_⟩, ?_⟩
  · intro s r h x d i payload readings hl hs hr hh hnow hm hd hk hf hx taken answer
    have hmac : taken.2.mac = s.mac := (((Inner.refl s.closed).promoteByData i x).takeData i h.floorSeq _).mac
    have hduty : taken.2.mac.duty = some d := (congrArg Mac.duty hmac).trans hd
    have hend := dataEnd_taken (u := s.closed) (h := h) (i := i) (r.payloadBytes payload) hf hx
    rw [exec_frameEnd_taken payload readings hl hr hh (by rw [hk]; decide) hnow (by rw [hm]; decide), nextStep_processed (Or.inl hk),
      handOn_data _ _ hk, hend]
    refine congrArg (fun t => Host.Outcome.next (settle s.txCharge t)) ((answerOrGap_answered answer hduty).trans ?_)
    rw [hmac]
  · intro s i e f segments he written floored judged
    have hfloored : floored = bumpOpt (e.rx.floorStep f).2 (s.received i e (e.rx.floorStep f).1) := by
      simp only [floored]
      cases (e.rx.floorStep f).2 <;> rfl
    rw [takeData_eq f segments he, ← hfloored]
  · exact fun s i rest => ⟨rfl, fun q => ⟨rfl, rfl⟩, fun q first last payload => ⟨rfl, rfl⟩⟩
  · intro s i e he
    refine ⟨fun hq => deliverAll_of_fixed (deliverOne_unexpected he hq), fun q hq => ⟨fun hnone => ?_, fun x hx => ?_⟩⟩
    · refine deliverAll_of_fixed (deliverOne_missing he hq (List.find?_eq_none.2 fun y hy => ?_))
      exact fun h => hnone y hy (beq_iff_eq.1 h)
    · intro fed written counted
      rw [deliverAll_step, deliverOne_found he hq hx rfl]
      refine congrArg (deliverAll i) ?_
      have hcounted : counted = bumpOpt fed.count (s.received i e fed.rx) := by
        simp only [counted]
        cases fed.count <;> rfl
      rw [← hcounted]
      cases fed.complete <;> rfl
  · intro s i e c he present all cells raised counted written
    have hpresent : present ↔ e.state.present = true := (present_iff _).symm
    refine ⟨fun hp => ?_, ?_, ?_⟩
    · exact trigger_not_present (Bool.eq_false_iff.2 fun h => hp (hpresent.2 h)) he
    · intro hp hi boost started
      have hboost : boost = if c.error then raised else decayBoost raised (badCount e.rx.window) := by
        simp only [boost, raised, decayBoost]
        cases c.error <;> simp
      have hstarts := trigger_starts (c := c) he (hpresent.1 hp) hi
      simp only [started, hboost]
      exact hstarts
    · intro start d x hp hi remembered
      have hremembered : remembered = (e.build.remembered.getD Causes.empty).union c := by
        simp only [remembered]
        cases e.build.remembered <;> rfl
      rw [hremembered]
      exact trigger_remembered he (hpresent.1 hp) hi
  · intro s r h x d payload readings hl hs hr hh hnow hm hd answer
    have hwait : s.mac.state ≠ .awaitingResponse := by rw [hm]; decide
    have hduty : s.closed.mac.duty = some d := hd
    refine ⟨fun hk hf => ?_, fun hk hf => ?_, fun hk hf hx => ?_, fun hk hf hp => ?_⟩
    · rw [exec_frameEnd_taken payload readings hl hr hh (by rw [hk]; decide) hnow hwait, nextStep_processed (Or.inl hk),
        handOn_data _ _ hk, dataEnd_unknown (u := s.closed) _ hf, answerOrGap_answered _ hduty]
      exact next_at_rest hs rfl rfl rfl rfl rfl
    · rw [exec_frameEnd_taken payload readings hl hr hh (by rw [hk]; decide) hnow hwait, nextStep_processed (Or.inr hk),
        handOn_grid _ _ hk, gridEnd_unknown (u := s.closed) _ hf, answerOrGap_answered _ hduty]
      exact next_at_rest hs rfl rfl rfl rfl rfl
    · obtain ⟨i, hi⟩ := Option.ne_none_iff_exists'.1 hf
      have hbumped : (bump .gridUnknownSent s.closed).mac.duty = some d := hd
      rw [exec_frameEnd_taken payload readings hl hr hh (by rw [hk]; decide) hnow hwait, nextStep_processed (Or.inl hk),
        handOn_data _ _ hk, hx, dataEnd_unresolved (u := s.closed) _ hi, answerOrGap_answered _ hbumped]
      exact next_at_rest hs rfl rfl rfl rfl rfl
    · obtain ⟨i, hi⟩ := Option.ne_none_iff_exists'.1 hf
      rw [exec_frameEnd_taken payload readings hl hr hh (by rw [hk]; decide) hnow hwait, nextStep_processed (Or.inr hk),
        handOn_grid _ _ hk, gridEnd_malformed (u := s.closed) hi hp, answerOrGap_unanswered]
      exact next_at_rest hs rfl rfl rfl rfl rfl

end Sys2Proof.Machine
end

/-! ## Proofs: how the end of a reception resolves a response wait, and what an answer does to the segments (O27) -/

section
namespace Sys2Proof.Machine

/-! ### The outcomes of a wait (R49, R50) -/

section
variable {s u y : State} {w : ResponseWait}

/-- R37, R48: the part of the MAC record that an outcome of a wait writes. -/
def Mac.contention (m : Mac) : Option ResponseWait × Nat × Option Nat × Nat := (m.wait, m.stage, m.backoff, m.deferral)

/-- R49: the record after no response. -/
def Mac.silenced (m : Mac) : Mac := { m with wait := none, stage := min 5 (m.stage + 1), backoff := none, deferral := 0 }

theorem OutcomeFrame.mac (h : OutcomeFrame s u) : u.mac = s.mac := by rw [h.rest]
theorem OutcomeFrame.lineTime (h : OutcomeFrame s u) : u.lineTime = s.lineTime := by rw [h.rest]

theorem noResponseOutcome_mac (hw : s.mac.wait = some w) : (noResponseOutcome s).mac = s.mac.silenced := (noResponseOutcome_spec hw).mac

theorem noResponseOutcome_time (hw : s.mac.wait = some w) : (noResponseOutcome s).lineTime = s.lineTime :=
  (noResponseOutcome_spec hw).lineTime

theorem noResponseOutcome_counted (hw : s.mac.wait = some w) : (noResponseOutcome s).count .noResponse = satInc (s.count .noResponse) := by
  rw [(noResponseOutcome_spec hw).count _ (Or.inl rfl), cnt_self]
  rfl

theorem noResponseOutcome_cnt (hw : s.mac.wait = some w) {c : Counter} (hc : c = .failedResponses ∨ c = .strayResponses) :
    (noResponseOutcome s).count c = s.count c := by
  rw [(noResponseOutcome_spec hw).count _ (Or.inr hc), cnt_bump (by rcases hc with rfl | rfl <;> decide)]
  rfl

/-- R50: the part with the wait closed and the contention record cleared. -/
def State.waitAnswered (s : State) : State := { s with mac := { s.mac with wait := none, stage := 0, backoff := none, deferral := 0 } }

/-- What follows an outcome within the same command leaves what the outcome has written. -/
structure Followed (y t : State) : Prop where
  ended : Ended y t
  settled : t.evalDue = false
  contention : t.mac.contention = y.mac.contention
  counts : ∀ c, RespCounter c → t.count c = y.count c

theorem followed_begun (n : Nat) (y : State) : Followed y (settle n (beginPeriod y)) := by
  obtain ⟨st, c, tw, -, hmac⟩ := begun_mac n y
  refine ⟨(Ended.refl y).beginPeriod.settle n, settle_eval _ _, by rw [hmac]; rfl, fun c hc => ?_⟩
  rcases hc with rfl | rfl | rfl <;> rw [cnt_settle (by decide) (by decide), cnt_begin (by decide) (by decide)]

theorem begun_start (n : Nat) (y : State) : (settle n (beginPeriod y)).mac.periodStart = y.lineTime := by
  obtain ⟨st, c, tw, -, hmac⟩ := begun_mac n y
  rw [hmac]

/-- R39: a gap that is entered, and what ends the command. -/
theorem gap_settled (n : Nat) (y : State) (g : Gap) :
    Followed y (settle n (modMac (fun m => { m with state := .deferring, gap := some g }) y)) ∧
      (settle n (modMac (fun m => { m with state := .deferring, gap := some g }) y)).mac.state = .deferring ∧
      (settle n (modMac (fun m => { m with state := .deferring, gap := some g }) y)).mac.gap = some g := by
  have hmac : (settle n (modMac (fun m => { m with state := .deferring, gap := some g }) y)).mac = { y.mac with state := .deferring, gap := some g } :=
    settle_mac_busy (fun h => nomatch h)
  refine ⟨⟨((Ended.refl y).modMac _).settle n, settle_eval _ _, by rw [hmac]; rfl, fun c hc => ?_⟩, by rw [hmac], by rw [hmac]⟩
  rcases hc with rfl | rfl | rfl <;> rw [cnt_settle (by decide) (by decide)] <;> rfl

/-- R39, R49: what a part shows whose wait has been resolved without a response. -/
def Unanswered (s t : State) : Prop := t.mac.wait = none ∧ t.mac.stage = min 5 (s.mac.stage + 1) ∧ t.mac.backoff = none ∧
  t.mac.deferral = 0 ∧ t.count .noResponse = satInc (s.count .noResponse)

theorem Followed.unanswered {t : State} (h : Followed (noResponseOutcome u) t) (hw : u.mac.wait = some w) (hm : u.mac = s.mac)
    (hc : u.count .noResponse = s.count .noResponse) : Unanswered s t := by
  have hcontention := h.contention
  rw [noResponseOutcome_mac hw, hm] at hcontention
  obtain ⟨h1, h2, h3, h4⟩ : t.mac.wait = none ∧ t.mac.stage = min 5 (s.mac.stage + 1) ∧ t.mac.backoff = none ∧ t.mac.deferral = 0 := by
    simpa [Mac.contention, Mac.silenced, Prod.ext_iff] using hcontention
  exact ⟨h1, h2, h3, h4, by rw [h.counts _ (Or.inl rfl), noResponseOutcome_counted hw, hc]⟩

/-- The part but for the blocks that an outcome reaches. -/
def State.touchedAs (s t : State) : State :=
  { s.closed with table := t.table, pool := t.pool, control := t.control, inFlight := t.inFlight }.endedAs t

theorem Followed.touched {t : State} (h : Followed (noResponseOutcome u) t) (hw : u.mac.wait = some w)
    (hu : u = { s.closed with counters := u.counters }) (he : s.evalDue = false) : t = s.touchedAs t := by
  refine outcome_ended (s := s) (b := u.unanswered) ?_ (noResponseOutcome_spec hw) h.ended he h.settled |>.trans ?_
  · unfold State.unanswered
    rw [hu]
    rfl
  · have hline : u.unanswered.line = s.closed.line := by
      unfold State.unanswered
      rw [hu]
      rfl
    rw [hline]
    rfl

theorem Followed.touched_received {t : State} (b : RespBody) (h : Followed (receivedOutcome b s.closed) t) (hw : s.mac.wait = some w)
    (he : s.evalDue = false) : t = s.touchedAs t :=
  outcome_ended (s := s) (b := s.closed.waitAnswered) rfl (receivedOutcome_spec (s := s.closed) b hw) h.ended he h.settled

end

/-! ### The received response (R50, R117, R153) -/

section
variable {s : State} {w : ResponseWait} {b : RespBody}

theorem receivedOutcome_grid (b : RespBody) (hw : s.mac.wait = some w) (hk : w.kind = .grid) :
    receivedOutcome b s = partAnswered w.control b.status (receiverOutcome w b s.waitAnswered) := by
  unfold receivedOutcome
  rw [hw]
  dsimp only
  rw [hk]
  rfl

theorem receivedOutcome_data (b : RespBody) (hw : s.mac.wait = some w) (hk : w.kind = .data) :
    receivedOutcome b s = dataAnswered b (receiverOutcome w b s.waitAnswered) := by
  unfold receivedOutcome
  rw [hw]
  dsimp only
  rw [hk]
  rfl

theorem dataAnswered_known (h : b.status ≠ .gridUnknown) : dataAnswered b s = segmentResponse b.entries s := by
  unfold dataAnswered
  cases hst : b.status with
  | gridUnknown => exact absurd hst h
  | _ => rfl

theorem dataAnswered_unknown (h : b.status = .gridUnknown) : dataAnswered b s = segmentResponse b.entries (match s.inFlight with
    | some y => gridUnknownReceived y.entry y.tag s
    | none => s) := by
  unfold dataAnswered
  rw [h]
  cases s.inFlight <;> rfl

end

/-! ### The segments (R153 to R155) -/

section
variable {s : State} {i : EntryIx} {e : Entry} {q : Seq} {x : UnackedSegment}

/-- The part with the transmit state of entry `i` changed; the unit may have been told. -/
def State.retransmitting (s : State) (i : EntryIx) (e : Entry) (tx : TxState) (told : Bool) : State :=
  { s with table := s.table.set i (some { e with tx := tx }), evalDue := told }

theorem modTx_retransmitting (f : TxState → TxState) (he : s.entry i = some e) :
    modTx i f s = s.retransmitting i e (f e.tx) (modTx i f s).evalDue := by
  unfold modTx
  rw [he]
  dsimp only
  split <;> rfl

theorem applyEntry_unfound (good : Bool) (he : s.entry i = some e) (h : e.tx.find q = none) :
    applyEntry i q good s = bump .ignoredEntries s := by
  unfold applyEntry
  rw [he, Option.bind_some, h]

theorem applyNoAnswer_unfound (he : s.entry i = some e) (h : e.tx.find q = none) : applyNoAnswer i q s = s := by
  unfold applyNoAnswer
  rw [he, Option.bind_some, h]

theorem applyNoAnswer_found (he : s.entry i = some e) (h : e.tx.find q = some x) : applyNoAnswer i q s = applyEntry i q false s := by
  unfold applyNoAnswer
  rw [he, Option.bind_some, h]

theorem applyEntry_good (he : s.entry i = some e) (h : e.tx.find q = some x) : applyEntry i q true s =
    if (e.tx.ackGood x).2 then bump .framesDelivered (modTx i (fun t => (t.ackGood x).1) s) else modTx i (fun t => (t.ackGood x).1) s := by
  unfold applyEntry
  rw [he]
  dsimp only [Option.bind_some, Option.map_some]
  rw [h]
  dsimp only
  rw [if_pos rfl]
  exact ite_of_iff Option.some_inj rfl rfl

theorem applyEntry_bad (he : s.entry i = some e) (h : e.tx.find q = some x) : applyEntry i q false s =
    if (e.tx.retry s.settings.segmentRetry x).2 then bump .retryDrops (modTx i (fun t => (t.retry s.settings.segmentRetry x).1) s)
    else modTx i (fun t => (t.retry s.settings.segmentRetry x).1) s := by
  unfold applyEntry
  rw [he]
  dsimp only [Option.bind_some, Option.map_some]
  rw [h]
  dsimp only
  rw [if_neg Bool.false_ne_true]
  exact ite_of_iff Option.some_inj rfl rfl

theorem ackGood_more (t : TxState) (h : ∃ y ∈ t.unacked.filter fun y => y.seq != x.seq, y.frameId = x.frameId) :
    t.ackGood x = ({ t with unacked := t.unacked.filter fun y => y.seq != x.seq }, false) := by
  obtain ⟨y, hy, hid⟩ := h
  have hany : (t.unacked.filter fun y => y.seq != x.seq).any (fun y => y.frameId == x.frameId) = true :=
    List.any_eq_true.2 ⟨y, hy, beq_iff_eq.2 hid⟩
  exact if_pos hany

theorem ackGood_last (t : TxState) (h : ∀ y ∈ t.unacked.filter fun y => y.seq != x.seq, y.frameId ≠ x.frameId) :
    t.ackGood x = ({ t with unacked := t.unacked.filter fun y => y.seq != x.seq
                            numbered := t.numbered.filter fun y => y.frame.id != x.frameId }, true) := by
  unfold TxState.ackGood
  refine if_neg fun k => ?_
  obtain ⟨y, hy, hid⟩ := List.any_eq_true.1 k
  exact h y hy (beq_iff_eq.1 hid)

theorem retry_again (t : TxState) {limit : Nat} (h : x.attempts + 1 < limit) :
    t.retry limit x = (t.modify x.seq fun y => { y with attempts := y.attempts + 1, marked := true }, false) := if_neg (by omega)

theorem retry_dropped (t : TxState) {limit : Nat} (h : limit ≤ x.attempts + 1) : t.retry limit x = (t.dropFrame x.frameId, true) :=
  if_pos h

theorem applyEntries_foldl (i : EntryIx) (l : List (Seq × Bool)) (s : State) :
    applyEntries i l s = l.foldl (fun t x => applyEntry i x.1 x.2 t) s := by
  induction l generalizing s with
  | nil => rfl
  | cons x l ih => exact ih _

theorem applyNoAnswers_foldl (i : EntryIx) (l : List Seq) (s : State) :
    applyNoAnswers i l s = l.foldl (fun t x => applyNoAnswer i x t) s := by
  induction l generalizing s with
  | nil => rfl
  | cons x l ih => exact ih _

end

/-! ### The frame end with a wait open (R33, R48) -/

section
variable {s : State} {r : Reception} {w : ResponseWait} {h : Header} {f : FilterCase} {x : Resolution} {b : RespBody}

theorem takeResp_received {payload : List Byte} {n : Nat} (hw : s.mac.wait = some w) (ht : h.tx = w.receiver)
    (hp : readResp payload = some (b, n)) (hn : n = w.segments) (hb : b.status = .capConflict → b.bands ≠ none) :
    takeResp h.tx payload s = receivedOutcome b s := by
  have htakes : w.takes b n = true := by
    unfold ResponseWait.takes
    rw [Bool.and_eq_true, Bool.or_eq_true, beq_iff_eq, bne_iff_ne, Option.isSome_iff_ne_none]
    exact ⟨hn, Decidable.or_iff_not_imp_left.2 fun hst => hb (Decidable.not_not.1 hst)⟩
  unfold takeResp
  rw [hw]
  dsimp only
  rw [if_pos ht.symm, hp]
  exact if_pos htakes

theorem takeResp_failed {payload : List Byte} (hw : s.mac.wait = some w) (ht : h.tx = w.receiver)
    (hp : readResp payload = none ∨ ∃ b n, readResp payload = some (b, n) ∧
      (n ≠ w.segments ∨ (b.status = .capConflict ∧ b.bands = none))) :
    takeResp h.tx payload s = noResponseOutcome (bump .failedResponses s) := by
  unfold takeResp
  rw [hw]
  dsimp only
  rw [if_pos ht.symm]
  rcases hp with hp | ⟨b, n, hp, hbad⟩
  · rw [hp]
  · rw [hp]
    refine if_neg fun htakes => ?_
    unfold ResponseWait.takes at htakes
    rw [Bool.and_eq_true, Bool.or_eq_true, beq_iff_eq, bne_iff_ne, Option.isSome_iff_ne_none] at htakes
    rcases hbad with hn | ⟨hst, hb⟩
    · exact hn htakes.1
    · exact htakes.2.elim (fun k => k hst) fun k => k hb

theorem takeResp_stray {payload : List Byte} (hw : s.mac.wait = some w) (ht : h.tx ≠ w.receiver) :
    takeResp h.tx payload s = noResponseOutcome (bump .strayResponses s) := by
  unfold takeResp
  rw [hw]
  exact if_neg fun k => ht k.symm

theorem takeResp_unawaited {payload : List Byte} (hw : s.mac.wait = none) : takeResp h.tx payload s = bump .strayResponses s := by
  unfold takeResp
  rw [hw]

/-- R33: the frame end of a processed RESP. -/
theorem exec_frameEnd_resp (payload : Demodulated) (readings : List (List Int)) (hl : s.Live) (hr : s.line.reception = some r)
    (hh : r.header = .used h .processed x) (hk : h.kind = .resp) (hnow : s.lineTime = r.frameStart.plus 256) :
    exec (.frameEnd payload readings) s =
      .next (settle s.txCharge (beginPeriod (takeResp h.tx (r.payloadBytes payload) s.closed))) := by
  have hsymbols : h.payloadSymbols = 2 := if_pos hk
  rw [exec_frameEnd payload readings hl hr hh (by rw [hsymbols]; exact hnow)]
  simp only [endReception, hr, hh, if_pos, if_pos hk]
  rw [nextStep_resp hk]
  rfl

theorem resolveWait_of_waiting (hm : s.mac.state = .awaitingResponse) : resolveWait s = noResponseOutcome s := if_pos hm

variable (hl : s.Live) (hs : s.Rested) (hr : s.line.reception = some r) (hm : s.mac.state = .awaitingResponse) (hw : s.mac.wait = some w)
  (payload : Demodulated) (readings : List (List Int))

include hl hs hr hw in
/-- R33, R50: the awaited response. -/
theorem awaited_resp_ends {n : Nat} (hh : r.header = .used h .processed x) (hk : h.kind = .resp) (hnow : s.lineTime = r.frameStart.plus 256)
    (ht : h.tx = w.receiver) (hp : readResp (r.payloadBytes payload) = some (b, n)) (hn : n = w.segments)
    (hb : b.status = .capConflict → b.bands ≠ none) :
    ∃ t, exec (.frameEnd payload readings) s = .next t ∧ t.mac.wait = none ∧ t.mac.stage = 0 ∧ t.mac.backoff = none ∧
      t.mac.deferral = 0 ∧ t.mac.periodStart = s.lineTime ∧ t.count .noResponse = s.count .noResponse ∧ t = s.touchedAs t ∧
      t = settle s.txCharge (beginPeriod (receivedOutcome b s.closed)) := by
  have hspec := receivedOutcome_spec (s := s.closed) b hw
  have hfollowed := followed_begun s.txCharge (receivedOutcome b s.closed)
  have hcontention := hfollowed.contention
  rw [hspec.mac] at hcontention
  obtain ⟨h1, h2, h3, h4⟩ : (settle s.txCharge (beginPeriod (receivedOutcome b s.closed))).mac.wait = none ∧
      (settle s.txCharge (beginPeriod (receivedOutcome b s.closed))).mac.stage = 0 ∧
      (settle s.txCharge (beginPeriod (receivedOutcome b s.closed))).mac.backoff = none ∧
      (settle s.txCharge (beginPeriod (receivedOutcome b s.closed))).mac.deferral = 0 := by
    simpa [Mac.contention, Prod.ext_iff] using hcontention
  refine ⟨_, ?_, h1, h2, h3, h4, ?_, ?_, hfollowed.touched_received b hw hs.1, rfl⟩
  · rw [exec_frameEnd_resp payload readings hl hr hh hk hnow, takeResp_received (s := s.closed) hw ht hp hn hb]
  · rw [begun_start, hspec.lineTime]
    rfl
  · rw [hfollowed.counts _ (Or.inl rfl), hspec.count _ (Or.inl rfl)]
    rfl

include hl hs hr hw in
/-- R33, R49: a response that is not the one awaited. -/
theorem other_resp_ends {c : Counter} (hh : r.header = .used h .processed x) (hk : h.kind = .resp) (hnow : s.lineTime = r.frameStart.plus 256)
    (hc : c = .failedResponses ∨ c = .strayResponses)
    (htaken : takeResp h.tx (r.payloadBytes payload) s.closed = noResponseOutcome (bump c s.closed)) :
    ∃ t, exec (.frameEnd payload readings) s = .next t ∧ Unanswered s t ∧ t.mac.periodStart = s.lineTime ∧
      t.count c = satInc (s.count c) ∧ t = s.touchedAs t ∧
      t = settle s.txCharge (beginPeriod (noResponseOutcome (bump c s.closed))) := by
  have hfollowed := followed_begun s.txCharge (noResponseOutcome (bump c s.closed))
  have hwait : (bump c s.closed).mac.wait = some w := hw
  refine ⟨_, ?_, hfollowed.unanswered hwait rfl ?_, ?_, ?_, hfollowed.touched hwait rfl hs.1, rfl⟩
  · rw [exec_frameEnd_resp payload readings hl hr hh hk hnow, htaken]
  · rw [cnt_bump (by rcases hc with rfl | rfl <;> decide)]
    rfl
  · rw [begun_start, noResponseOutcome_time hwait]
    rfl
  · rw [hfollowed.counts _ (Or.inr hc), noResponseOutcome_cnt hwait hc, cnt_self]
    rfl

include hl hs hr hm hw in
/-- R48, R39: a reception that this station does not process. -/
theorem unprocessed_ends (hh : r.header = .used h f x) (hf : f ≠ .processed) (hnow : s.lineTime = r.frameStart.plus (192 + 32 * h.payloadSymbols)) :
    ∃ t, exec (.frameEnd payload readings) s = .next t ∧ Unanswered s t ∧ t = s.touchedAs t ∧
      t = settle s.txCharge (nextStep h f (noResponseOutcome s.closed)) ∧
      (h.kind = .resp → t.mac.periodStart = s.lineTime) ∧
      (h.kind = .sound ∨ h.kind = .note ∨ ((h.kind = .data ∨ h.kind = .grid) ∧ f = .foreign) →
        t.mac.state = .deferring ∧ t.mac.gap = some (.quiet (s.lineTime.plus 60))) ∧
      (h.kind = .data ∨ h.kind = .grid → f ≠ .foreign →
        t.mac.state = .deferring ∧ t.mac.gap = some (.response (s.lineTime.plus 120))) := by
  have hwait : s.closed.mac.wait = some w := hw
  have htime : (noResponseOutcome s.closed).lineTime = s.lineTime := (noResponseOutcome_time hwait).trans rfl
  have hexec : exec (.frameEnd payload readings) s = .next (settle s.txCharge (nextStep h f (noResponseOutcome s.closed))) := by
    rw [exec_frameEnd payload readings hl hr hh hnow, endReception_unprocessed _ _ hr hh hf, resolveWait_of_waiting (s := s.closed) hm]
  have hquiet := gap_settled s.txCharge (noResponseOutcome s.closed) (.quiet ((noResponseOutcome s.closed).lineTime.plus 60))
  have hresponse := gap_settled s.txCharge (noResponseOutcome s.closed) (.response ((noResponseOutcome s.closed).lineTime.plus 120))
  have hends {t : State} (ht : nextStep h f (noResponseOutcome s.closed) = t)
      (hfollowed : Followed (noResponseOutcome s.closed) (settle s.txCharge t)) :
      exec (.frameEnd payload readings) s = .next (settle s.txCharge t) ∧ Unanswered s (settle s.txCharge t) ∧
        settle s.txCharge t = s.touchedAs (settle s.txCharge t) ∧
        settle s.txCharge t = settle s.txCharge (nextStep h f (noResponseOutcome s.closed)) := by
    rw [hexec, ht]
    exact ⟨rfl, hfollowed.unanswered hwait rfl rfl, hfollowed.touched hwait rfl hs.1, rfl⟩
  rw [htime] at hquiet hresponse
  by_cases hresp : h.kind = .resp
  · obtain ⟨h1, h2, h3, h4⟩ := hends (nextStep_resp hresp) (followed_begun _ _)
    refine ⟨_, h1, h2, h3, h4, fun _ => by rw [begun_start, htime], fun hk => ?_, fun hk => ?_⟩
    · rw [hresp] at hk
      exact absurd hk (by simp)
    · rw [hresp] at hk
      exact absurd hk (by decide)
  · by_cases hgap : h.kind = .sound ∨ h.kind = .note ∨ ((h.kind = .data ∨ h.kind = .grid) ∧ f = .foreign)
    · have hnext : nextStep h f (noResponseOutcome s.closed) = enterQuietGap (noResponseOutcome s.closed) := by
        rcases hgap with hk | hk | ⟨hk, rfl⟩
        · exact nextStep_broadcast (Or.inl hk)
        · exact nextStep_broadcast (Or.inr hk)
        · exact nextStep_foreign hk
      unfold enterQuietGap at hnext
      rw [htime] at hnext
      obtain ⟨h1, h2, h3, h4⟩ := hends hnext hquiet.1
      refine ⟨_, h1, h2, h3, h4, fun hk => absurd hk hresp, fun _ => hquiet.2, fun hk hf => ?_⟩
      rcases hgap with hg | hg | ⟨-, hg⟩
      · rw [hg] at hk
        exact absurd hk (by decide)
      · rw [hg] at hk
        exact absurd hk (by decide)
      · exact absurd hg hf
    · have hkind : h.kind = .data ∨ h.kind = .grid := by
        cases hk : h.kind <;> simp [hk] at hresp hgap ⊢
      have hforeign : f ≠ .foreign := fun k => hgap (Or.inr (Or.inr ⟨hkind, k⟩))
      have hnext := nextStep_overheard (s := noResponseOutcome s.closed) hkind hforeign hf
      unfold enterResponseGap at hnext
      rw [htime] at hnext
      obtain ⟨h1, h2, h3, h4⟩ := hends hnext hresponse.1
      exact ⟨_, h1, h2, h3, h4, fun hk => absurd hk hresp, fun hk => absurd hk hgap, fun _ _ => hresponse.2⟩

include hl hs hr hm hw in
/-- R48: a reception whose header failed. -/
theorem failed_header_ends (hh : r.header = .failed) :
    ∃ t, exec (.frameEnd payload readings) s = .next t ∧ Unanswered s t ∧ t.mac.state = .deferring ∧
      t.mac.gap = some (.quiet (s.lineTime.plus 60)) ∧ t = s.touchedAs t ∧
      (let u := noResponseOutcome s.closed
       t = settle s.txCharge
         { u with mac := { u.mac with state := .deferring, gap := some (.quiet (s.lineTime.plus 60)) } }) := by
  have hwait : s.closed.mac.wait = some w := hw
  have htime : (noResponseOutcome s.closed).lineTime = s.lineTime := (noResponseOutcome_time hwait).trans rfl
  obtain ⟨hfollowed, hstate, hgap⟩ := gap_settled s.txCharge (noResponseOutcome s.closed) (.quiet (s.lineTime.plus 60))
  refine ⟨_, ?_, hfollowed.unanswered hwait rfl rfl, hstate, hgap, hfollowed.touched hwait rfl hs.1, rfl⟩
  rw [exec_frameEnd_failed payload readings hl hr hh, resolveWait_of_waiting (s := s.closed) hm]
  unfold enterQuietGap
  rw [htime]

end

section
variable {u : State} {h : Header} {f : FilterCase}

/-- R39: the next step after a reception, by its kind and the filter's case. -/
theorem nextStep_cases (h : Header) (f : FilterCase) (u : State) :
    let quiet := { u with mac := { u.mac with state := .deferring, gap := some (.quiet (u.lineTime.plus 60)) } }
    let response := fun (d : Option ResponderDuty) =>
      { u with mac := { u.mac with state := .deferring, gap := some (.response (u.lineTime.plus 120)), duty := d } }
    (h.kind = .resp → nextStep h f u = beginPeriod u) ∧
    (h.kind = .sound ∨ h.kind = .note → nextStep h f u = quiet) ∧
    (h.kind = .data ∨ h.kind = .grid →
      (f = .foreign → nextStep h f u = quiet) ∧
      (f = .clash ∨ f = .overheard → nextStep h f u = response u.mac.duty) ∧
      (f = .processed →
        (∀ d b, u.mac.duty = some d → d.resp = some b →
          nextStep h f u = { u with mac := { u.mac with state := .responding, gap := none } }) ∧
        ((∀ d, u.mac.duty = some d → d.resp = none) → nextStep h f u = response none))) := by
  intro quiet response
  refine ⟨nextStep_resp, nextStep_broadcast, fun hk => ⟨?_, ?_, ?_⟩⟩
  · rintro rfl
    exact nextStep_foreign hk
  · rintro (rfl | rfl)
    · exact nextStep_overheard hk (by decide) (by decide)
    · exact nextStep_overheard hk (by decide) (by decide)
  · rintro rfl
    rw [nextStep_processed hk]
    refine ⟨fun d b hd hb => if_pos ?_, fun hnone => (if_neg ?_).trans rfl⟩
    · rw [hd, Option.bind_some, hb]
      rfl
    · cases hd : u.mac.duty with
      | none => exact Bool.false_ne_true
      | some d =>
        rw [Option.bind_some, hnone d hd]
        exact Bool.false_ne_true

end

section
variable {s : State} {i : EntryIx} {e : Entry} {q : Seq} {x : UnackedSegment}

/-- R153 to R155: what an entry of a response does to the unacked list. -/
theorem applyEntry_cases (q : Seq) (x : UnackedSegment) (he : s.entry i = some e) :
    let left := fun (u : List UnackedSegment) (n : List NumberedFrame) (t : State) =>
      { s with table := s.table.set i (some { e with tx := { e.tx with unacked := u, numbered := n } }), evalDue := t.evalDue }
    let others := e.tx.unacked.filter fun y => y.seq != q
    ((∀ y ∈ e.tx.unacked, y.seq ≠ q) → ∀ good, applyEntry i q good s = bump .ignoredEntries s ∧ applyNoAnswer i q s = s) ∧
    (e.tx.unacked.find? (fun y => y.seq == q) = some x →
      ((∃ y ∈ others, y.frameId = x.frameId) → ∃ t, applyEntry i q true s = t ∧ t = left others e.tx.numbered t) ∧
      ((∀ y ∈ others, y.frameId ≠ x.frameId) → ∃ t, applyEntry i q true s = bump .framesDelivered t ∧
        t = left others (e.tx.numbered.filter fun y => y.frame.id != x.frameId) t) ∧
      (x.attempts + 1 < s.settings.segmentRetry → ∃ t, applyEntry i q false s = t ∧ applyNoAnswer i q s = t ∧
        t = left (e.tx.unacked.map fun y => if y.seq = q then { y with attempts := y.attempts + 1, marked := true } else y)
          e.tx.numbered t) ∧
      (s.settings.segmentRetry ≤ x.attempts + 1 → ∃ t, applyEntry i q false s = bump .retryDrops t ∧
        applyNoAnswer i q s = bump .retryDrops t ∧
        t = left (e.tx.unacked.filter fun y => y.frameId != x.frameId)
          (e.tx.numbered.filter fun y => y.frame.id != x.frameId) t)) := by
  intro left others
  have hleft (f : TxState → TxState) : modTx i f s = s.retransmitting i e (f e.tx) (modTx i f s).evalDue := modTx_retransmitting f he
  refine ⟨fun hnone good => ?_, fun hx => ?_⟩
  · have hfind : e.tx.find q = none := List.find?_eq_none.2 fun y hy h => hnone y hy (beq_iff_eq.1 h)
    exact ⟨applyEntry_unfound good he hfind, applyNoAnswer_unfound he hfind⟩
  · have hq : x.seq = q := beq_iff_eq.1 (List.find?_some (p := fun y : UnackedSegment => y.seq == q) hx)
    have hgood := applyEntry_good he hx
    have hbad := applyEntry_bad he hx
    have hsilent := applyNoAnswer_found he hx
    subst hq
    let acked := modTx i (fun t => (t.ackGood x).1) s
    let retried := modTx i (fun t => (t.retry s.settings.segmentRetry x).1) s
    refine ⟨fun hmore => ⟨acked, hgood.trans ?_, ?_⟩, fun hlast => ⟨acked, hgood.trans ?_, ?_⟩,
      fun hretry => ⟨retried, hbad.trans ?_, hsilent.trans (hbad.trans ?_), ?_⟩,
      fun hlimit => ⟨retried, hbad.trans ?_, hsilent.trans (hbad.trans ?_), ?_⟩⟩
    · rw [ackGood_more _ hmore]
      exact if_neg Bool.false_ne_true
    · refine (hleft _).trans ?_
      rw [ackGood_more _ hmore]
      rfl
    · rw [ackGood_last _ hlast]
      exact if_pos rfl
    · refine (hleft _).trans ?_
      rw [ackGood_last _ hlast]
      rfl
    · rw [retry_again _ hretry]
      exact if_neg Bool.false_ne_true
    · rw [retry_again _ hretry]
      exact if_neg Bool.false_ne_true
    · refine (hleft _).trans ?_
      rw [retry_again _ hretry]
      rfl
    · rw [retry_dropped _ hlimit]
      exact if_pos rfl
    · rw [retry_dropped _ hlimit]
      exact if_pos rfl
    · refine (hleft _).trans ?_
      rw [retry_dropped _ hlimit]
      rfl

end

/-- R33: a RESP without a wait is stray. -/
theorem unawaited_resp_ends {s : State} {r : Reception} {h : Header} {x : Resolution} (hl : s.Live) (hs : s.Rested)
    (hr : s.line.reception = some r) (payload : Demodulated) (readings : List (List Int)) (hh : r.header = .used h .processed x)
    (hk : h.kind = .resp) (hnow : s.lineTime = r.frameStart.plus 256) (hw : s.mac.wait = none) :
    ∃ t, exec (.frameEnd payload readings) s = .next t ∧ t.mac.periodStart = s.lineTime ∧ t.mac.stage = s.mac.stage ∧
      t.mac.backoff = s.mac.backoff ∧ t.count .strayResponses = satInc (s.count .strayResponses) ∧
      t = { s with line := { s.line with reception := none } }.endedAs t := by
  have hexec := exec_frameEnd_resp payload readings hl hr hh hk hnow
  rw [takeResp_unawaited (s := s.closed) hw] at hexec
  obtain ⟨hended, hsettled, hcontention, hcounts⟩ := followed_begun s.txCharge (bump .strayResponses s.closed)
  have hstart := begun_start s.txCharge (bump .strayResponses s.closed)
  generalize settle s.txCharge (beginPeriod (bump .strayResponses s.closed)) = t at *
  have hends : t = s.closed.endedAs t := hended.endedAs hs.1 hsettled
  have hstray : t.count .strayResponses = satInc (s.count .strayResponses) :=
    (hcounts _ (Or.inr (Or.inr rfl))).trans (cnt_self .strayResponses s.closed)
  exact ⟨t, hexec, hstart, congrArg (fun p => p.2.1) hcontention, congrArg (fun p => p.2.2.1) hcontention, hstray, hends⟩

/-- Settles O27: each reception by what resolves the wait, then its next step; the outcomes and the segments by their own rules. -/
theorem frameEndResolvesWait : Obligations.FrameEndResolvesWait := by
  refine ⟨?_, ?_, nextStep_cases, ?_, ?_, ?_, fun s i e q x he => applyEntry_cases q x he, ?_, ?_⟩
  · intro s r w payload readings hl hs hr hm hw closed touched unanswered
    refine ⟨fun h x hh hk hnow => ⟨fun b n ht hp hn hb => ?_, fun ht hp => ?_, fun ht => ?_⟩, fun h f x hh hf hnow => ?_,
      fun h x hh hk hnow => ?_, fun hh => failed_header_ends hl hs hr hm hw payload readings hh⟩
    · exact awaited_resp_ends hl hs hr hw payload readings hh hk hnow ht hp hn hb
    · exact other_resp_ends hl hs hr hw payload readings hh hk hnow (Or.inl rfl) (takeResp_failed (s := s.closed) hw ht hp)
    · exact other_resp_ends hl hs hr hw payload readings hh hk hnow (Or.inr rfl) (takeResp_stray (s := s.closed) hw ht)
    · exact unprocessed_ends hl hs hr hm hw payload readings hh hf hnow
    · rw [exec_frameEnd_processed payload readings hl hr hh hk hnow, resolveWait_of_waiting (by rw [handOn_mac_state]; exact hm)]
      rfl
  · intro s r h x payload readings hl hr hh hk hnow hm
    exact exec_frameEnd_taken payload readings hl hr hh hk hnow hm
  · intro s w b hw closed told
    have htold : told.inFlight = s.inFlight := receiverOutcome_inFlight w b closed
    refine ⟨fun hk => receivedOutcome_grid b hw hk, fun hk => ⟨fun hst => ?_, fun hst => ?_⟩⟩
    · exact (receivedOutcome_data b hw hk).trans (dataAnswered_known hst)
    · rw [← htold]
      exact (receivedOutcome_data b hw hk).trans (dataAnswered_unknown hst)
  · intro s w hw closed silent
    exact ⟨noResponseOutcome_data hw, noResponseOutcome_grid hw⟩
  · intro s r h x payload readings hl hs hr hh hk hnow hw
    exact unawaited_resp_ends hl hs hr payload readings hh hk hnow hw
  · intro s y entries hy
    refine ⟨?_, ?_⟩
    · unfold segmentResponse
      rw [hy]
      dsimp only
      rw [applyEntries_foldl]
    · unfold segmentNoResponse
      rw [hy]
      dsimp only
      rw [applyNoAnswers_foldl]
  · intro s entries hy
    refine ⟨?_, ?_⟩
    · unfold segmentResponse
      rw [hy]
    · unfold segmentNoResponse
      rw [hy]

end Sys2Proof.Machine
end

/-! ## Proofs: a received SOUND samples the cells of its pair (O28) -/

section
namespace Sys2Proof.Machine

/-! ### Cells aged and updated (R61 to R63) -/

section
variable {e : Entry} {p : Pair} {slots : List MainsSlot} {readings : List (List Int)} {now : LineTime}

theorem old_iff {c : Cell} : c.old now = true ↔ 1 ≤ c.count ∧ 30000000 < c.last.dist now := decide_eq_true_iff

theorem age_old {c : Cell} (h : 1 ≤ c.count ∧ 30000000 < c.last.dist now) : c.age now = { count := 0, last := 0#32, avgs := [] } :=
  if_pos (old_iff.2 h)

theorem age_young {c : Cell} (h : ¬(1 ≤ c.count ∧ 30000000 < c.last.dist now)) : c.age now = c := if_neg fun k => h (old_iff.1 k)

theorem oldCount_eq (x : SnrSet) (now : LineTime) (which : Pair → MainsSlot → Bool) : x.oldCount now which =
    (((List.finRange 3).flatMap fun p => (List.finRange 6).map fun m => (p, m)).filter fun y =>
      which y.1 y.2 && decide (1 ≤ (x[y.1][y.2]).count ∧ 30000000 < (x[y.1][y.2]).last.dist now)).length := by
  unfold SnrSet.oldCount
  rw [List.filter_flatMap, List.length_flatMap]
  refine congrArg List.sum (List.map_congr_left fun p _ => ?_)
  rw [← List.countP_eq_length_filter, List.countP_map]
  rfl

theorem update_other {q : Pair} (x : SnrSet) (hq : q ≠ p) (m : MainsSlot) : (x.update now p slots readings)[q][m] = x[q][m] := by
  unfold SnrSet.update
  rw [Fin.getElem_fin x, Fin.getElem_fin (x.set _ _), Vector.getElem_set_ne _ _ fun h => hq (Fin.ext h).symm]
  rfl

theorem update_noted (x : SnrSet) (m : MainsSlot) : (x.update now p slots readings)[p][m] =
    if (groupOf slots readings m).isEmpty then x[p][m] else x[p][m].update now (groupSamples (groupOf slots readings m)) := by
  unfold SnrSet.update
  simp

/-- R63: the cells that a SOUND on pair `p` ages. -/
def notedCells (p : Pair) (slots : List MainsSlot) (readings : List (List Int)) (q : Pair) (m : MainsSlot) : Bool :=
  q == p && !(groupOf slots readings m).isEmpty

/-- R61 to R63: an entry's cells after a SOUND. -/
def SnrSet.sampled (x : SnrSet) (now : LineTime) (p : Pair) (slots : List MainsSlot) (readings : List (List Int)) : SnrSet :=
  (x.age now (notedCells p slots readings)).update now p slots readings

theorem sampled_other {q : Pair} (x : SnrSet) (hq : q ≠ p) (m : MainsSlot) : (x.sampled now p slots readings)[q][m] = x[q][m] := by
  have hnoted : notedCells p slots readings q m = false := by
    unfold notedCells
    rw [beq_eq_false_iff_ne.2 hq]
    rfl
  rw [SnrSet.sampled, update_other _ hq, snr_age_at, hnoted]
  rfl

theorem sampled_unnoted (x : SnrSet) {m : MainsSlot} (hg : groupOf slots readings m = []) :
    (x.sampled now p slots readings)[p][m] = x[p][m] := by
  have hnoted : notedCells p slots readings p m = false := by
    unfold notedCells
    rw [hg]
    exact Bool.and_false _
  rw [SnrSet.sampled, update_noted, snr_age_at, hnoted, hg]
  rfl

theorem sampled_noted (x : SnrSet) {m : MainsSlot} (hg : groupOf slots readings m ≠ []) :
    (x.sampled now p slots readings)[p][m] = (x[p][m].age now).update now (groupSamples (groupOf slots readings m)) := by
  have hempty : (groupOf slots readings m).isEmpty = false := Bool.eq_false_iff.2 fun h => hg (List.isEmpty_iff.1 h)
  have hnoted : notedCells p slots readings p m = true := by
    unfold notedCells
    rw [hempty, beq_self_eq_true]
    rfl
  rw [SnrSet.sampled, update_noted, snr_age_at, hnoted, hempty]
  rfl

theorem sampled_continues (x : SnrSet) {m : MainsSlot} (hg : groupOf slots readings m ≠ []) (hc : (x[p][m]).count ≠ 0)
    (hy : (x[p][m]).last.dist now ≤ 30000000) : (x.sampled now p slots readings)[p][m] =
      { count := min 255 ((x[p][m]).count + 1), last := now
        avgs := List.zipWith stepAverage (x[p][m]).avgs (groupSamples (groupOf slots readings m)) } := by
  rw [sampled_noted x hg, age_young fun h => absurd h.2 (Nat.not_lt.2 hy), Cell.update, if_neg hc]

theorem sampled_starts (x : SnrSet) {m : MainsSlot} (hg : groupOf slots readings m ≠ [])
    (hc : (x[p][m]).count = 0 ∨ 30000000 < (x[p][m]).last.dist now) : (x.sampled now p slots readings)[p][m] =
      { count := 1, last := now, avgs := groupSamples (groupOf slots readings m) } := by
  have haged : ((x[p][m]).age now).count = 0 := by
    by_cases hold : 1 ≤ (x[p][m]).count ∧ 30000000 < (x[p][m]).last.dist now
    · rw [age_old hold]
    · rw [age_young hold]
      refine Decidable.byContradiction fun h0 => ?_
      exact hold ⟨Nat.one_le_iff_ne_zero.2 h0, hc.resolve_left h0⟩
  rw [sampled_noted x hg, Cell.update, if_pos haged, haged]
  rfl

end

/-! ### The eligibility trigger (R79) -/

section
variable {s : State} {i : EntryIx} {e : Entry}

theorem Causes.remembered_eligibility (o : Option Causes) : (o.getD Causes.empty).union Causes.ofEligibility =
    match o with
    | none => Causes.ofEligibility
    | some z => { z with eligibility := true } := by
  cases o with
  | none => rfl
  | some z => simp [Causes.union, Causes.ofEligibility, Causes.empty]

/-- R79, R83: what the eligibility trigger leaves of the entry, and which counters it moves. -/
theorem eligibility_trigger (he : s.entry i = some e) (hp : e.state.present = true) :
    ∃ (b : BuildRecord) (t : State), trigger i Causes.ofEligibility s = t ∧
      t = { s with
        table := s.table.set i (some { e with snr := e.snr.age s.lineTime fun _ _ => true, build := b }), counters := t.counters } ∧
      (t.count .cellsAged).toNat =
        min (2 ^ 32 - 1) ((s.count .cellsAged).toNat + e.snr.oldCount s.lineTime fun _ _ => true) ∧
      t.count .soundSampled = s.count .soundSampled ∧ t.count .eligibilityTriggers = s.count .eligibilityTriggers ∧
      (e.build.state = .idle →
        let boost := if badCount e.rx.window ≤ 1 then e.build.boost - 2 else e.build.boost
        b = { e.build with
          state := .building s.lineTime Causes.ofEligibility
            { cells := e.snr.age s.lineTime fun _ _ => true, margin := s.settings.margin, boost := boost
              localBands := s.settings.bands, peerBands := e.peerBands, pairs := s.settings.pairs }
          boost := boost, retrySpent := false }) ∧
      (∀ start c y, e.build.state = .building start c y →
        b = { e.build with remembered := some ((e.build.remembered.getD Causes.empty).union Causes.ofEligibility) }) := by
  have haged : ((s.triggerCounted e Causes.ofEligibility).count .cellsAged).toNat =
      min (2 ^ 32 - 1) ((s.count .cellsAged).toNat + e.snr.oldCount s.lineTime fun _ _ => true) := bumpBy_toNat _ _ s
  have hcount {c : Counter} (hc : Counter.cellsAged.index ≠ c.index) : (s.triggerCounted e Causes.ofEligibility).count c = s.count c :=
    cnt_bumpBy hc _ s
  have hframe : s.triggerCounted e Causes.ofEligibility = { s with counters := (s.triggerCounted e Causes.ofEligibility).counters } :=
    bumpBy_eq _ _ s
  cases hb : e.build.state with
  | idle =>
    have hstarts := trigger_starts (c := Causes.ofEligibility) he hp hb
    refine ⟨_, _, hstarts, ?_, ?_, ?_, ?_, fun _ => rfl, fun _ _ _ h => nomatch h⟩
    · refine Eq.trans (if_neg Bool.false_ne_true) ?_
      unfold State.triggered
      rw [hframe]
      rfl
    · rw [if_neg (show ¬Causes.ofEligibility.forced = true from Bool.false_ne_true), cnt_bump (by decide)]
      exact haged
    · rw [if_neg (show ¬Causes.ofEligibility.forced = true from Bool.false_ne_true), cnt_bump (by decide)]
      exact hcount (by decide)
    · rw [if_neg (show ¬Causes.ofEligibility.forced = true from Bool.false_ne_true), cnt_bump (by decide)]
      exact hcount (by decide)
  | building start d x =>
    have hremembered := trigger_remembered (c := Causes.ofEligibility) he hp hb
    refine ⟨_, _, hremembered, ?_, ?_, ?_, ?_, ?_, fun _ _ _ _ => rfl⟩
    · unfold State.triggered
      rw [hframe]
      rfl
    · rw [cnt_bump (by decide)]
      exact haged
    · rw [cnt_bump (by decide)]
      exact hcount (by decide)
    · rw [cnt_bump (by decide)]
      exact hcount (by decide)
    · intro h
      cases h

end

/-! ### The sample of a SOUND (R60 to R64) -/

section
variable {s : State} {i : EntryIx} {e : Entry} {p : Pair} {trusted : Bool} {slots : List MainsSlot} {readings : List (List Int)}

theorem soundSample_absent (he : s.entry i = some e) (hp : e.state.present = false) : soundSample i p trusted slots readings s = s := by
  unfold soundSample
  refine if_neg ?_
  unfold State.present
  rw [he]
  exact fun h => Bool.false_ne_true (hp.symm.trans h)

theorem present_of_some (he : s.entry i = some e) (hp : e.state.present = true) : s.present i = true := by
  unfold State.present
  rw [he]
  exact hp

theorem soundSample_untrusted (he : s.entry i = some e) (hp : e.state.present = true) (ht : trusted = false ∨ s.trusted = false) :
    soundSample i p trusted slots readings s = bump .untrustedSound s := by
  unfold soundSample
  rw [if_pos (present_of_some he hp)]
  refine if_neg ?_
  rcases ht with ht | ht <;> rw [ht] <;> simp

/-- R60 to R63: the part once a SOUND's cells are aged and updated. -/
def State.soundSampledAt (s : State) (i : EntryIx) (e : Entry) (p : Pair) (slots : List MainsSlot) (readings : List (List Int)) : State :=
  bump .soundSampled (setEntry i (some { e with snr := e.snr.sampled s.lineTime p slots readings })
    (bumpBy .cellsAged (e.snr.oldCount s.lineTime (notedCells p slots readings)) s))

theorem setEntry_setEntry (x y : Option Entry) (s : State) : setEntry i x (setEntry i y s) = setEntry i x s := by
  unfold setEntry
  simp only [Vector.set_set]

theorem soundSampledAt_entry : (s.soundSampledAt i e p slots readings).entry i =
    some { e with snr := e.snr.sampled s.lineTime p slots readings } := by
  unfold State.soundSampledAt
  rw [bump_entry]
  exact entry_setEntry_self i _ _

theorem soundSampledAt_frame : s.soundSampledAt i e p slots readings =
    { s with table := s.table.set i (some { e with snr := e.snr.sampled s.lineTime p slots readings })
             counters := (s.soundSampledAt i e p slots readings).counters } := by
  unfold State.soundSampledAt
  rw [bumpBy_eq]
  rfl

theorem soundSampledAt_aged : ((s.soundSampledAt i e p slots readings).count .cellsAged).toNat =
    min (2 ^ 32 - 1) ((s.count .cellsAged).toNat + e.snr.oldCount s.lineTime (notedCells p slots readings)) := by
  unfold State.soundSampledAt
  rw [cnt_bump (by decide), cnt_setEntry, bumpBy_toNat]

theorem soundSampledAt_sampled : (s.soundSampledAt i e p slots readings).count .soundSampled = satInc (s.count .soundSampled) := by
  unfold State.soundSampledAt
  rw [cnt_self, cnt_setEntry, cnt_bumpBy (by decide)]

theorem soundSampledAt_triggers : (s.soundSampledAt i e p slots readings).count .eligibilityTriggers = s.count .eligibilityTriggers := by
  unfold State.soundSampledAt
  rw [cnt_bump (by decide), cnt_setEntry, cnt_bumpBy (by decide)]

theorem soundSample_trusted (he : s.entry i = some e) (hp : e.state.present = true) (ht : trusted = true) (hs : s.trusted = true) :
    soundSample i p trusted slots readings s =
      if hasEligible s.settings.pairs (e.snr.age s.lineTime (notedCells p slots readings)) = false ∧
        hasEligible s.settings.pairs (e.snr.sampled s.lineTime p slots readings) = true
      then trigger i Causes.ofEligibility (bump .eligibilityTriggers (s.soundSampledAt i e p slots readings))
      else s.soundSampledAt i e p slots readings := by
  have haged := ageCells_some (notedCells p slots readings) he
  rw [bumpBy_setEntry] at haged
  have hagedEntry : (ageCells i (notedCells p slots readings) s).entry i =
      some { e with snr := e.snr.age s.lineTime (notedCells p slots readings) } := by
    rw [haged]
    exact entry_setEntry_self i _ _
  have htime : (ageCells i (notedCells p slots readings) s).lineTime = s.lineTime := by
    rw [haged, bumpBy_eq]
    rfl
  have hset : (ageCells i (notedCells p slots readings) s).settings = s.settings := by
    rw [haged, bumpBy_eq]
    rfl
  have hsampled : bump .soundSampled (sampleCells i p slots readings (ageCells i (notedCells p slots readings) s)) =
      s.soundSampledAt i e p slots readings := by
    unfold sampleCells modEntry
    rw [hagedEntry]
    dsimp only
    rw [htime, haged, setEntry_setEntry]
    rfl
  have hhad : (ageCells i (notedCells p slots readings) s).eligibleEntry i =
      hasEligible s.settings.pairs (e.snr.age s.lineTime (notedCells p slots readings)) := by
    unfold State.eligibleEntry
    rw [hagedEntry, hset]
  have hnow : (s.soundSampledAt i e p slots readings).eligibleEntry i =
      hasEligible s.settings.pairs (e.snr.sampled s.lineTime p slots readings) := by
    unfold State.eligibleEntry
    rw [soundSampledAt_entry, soundSampledAt_frame]
  unfold soundSample
  rw [if_pos (present_of_some he hp), ht, hs]
  refine (if_pos rfl).trans ?_
  show (if (!(ageCells i (notedCells p slots readings) s).eligibleEntry i &&
    (bump .soundSampled (sampleCells i p slots readings (ageCells i (notedCells p slots readings) s))).eligibleEntry i) = true
    then _ else _) = _
  rw [hhad, hsampled, hnow]
  refine ite_of_iff ?_ ?_ ?_
  · rw [Bool.and_eq_true, Bool.not_eq_true']
  · exact congrArg (fun t => trigger i Causes.ofEligibility (bump .eligibilityTriggers t)) hsampled
  · exact hsampled

/-- R39: a frame end that has changed one entry leads to a quiet gap. -/
theorem sampled_ends {y : State} {x : Entry} (hr : s.Rested) (he : s.entry i = some e) (hx : x.tx = e.tx)
    (hy : y = { s.closed with table := s.table.set i (some x), counters := y.counters }) :
    ∃ t, settle s.txCharge (enterQuietGap y) = t ∧ t.entry i = some x ∧ (∀ j, j ≠ i → t.entry j = s.entry j) ∧
      (∀ c, t.count c = y.count c) ∧ t = { s with
        table := t.table, counters := t.counters, line := { s.line with reception := none }
        mac := { s.mac with state := .deferring, gap := some (.quiet (s.lineTime.plus 60)) } } := by
  generalize y.counters = k at hy
  subst hy
  refine ⟨_, settle_one (i := i) (e := e) x hr he hx rfl rfl rfl rfl, entry_setEntry_self i _ s, fun j hj => entry_setEntry_ne hj _ s,
    fun _ => rfl, rfl⟩

theorem exec_frameEnd_sound {r : Reception} {h : Header} {x : Resolution} (payload : Demodulated) (readings : List (List Int))
    (hl : s.Live) (hr : s.line.reception = some r) (hh : r.header = .used h .processed x) (hk : h.kind = .sound)
    (hnow : s.lineTime = r.frameStart.plus (192 + 32 * h.symbols)) (hm : s.mac.state = .receiving) :
    exec (.frameEnd payload readings) s = .next (settle s.txCharge (enterQuietGap (soundEnd r h readings s.closed))) := by
  have hsymbols : h.payloadSymbols = h.symbols := payloadSymbols_of_not_resp (by rw [hk]; decide)
  rw [exec_frameEnd_taken payload readings hl hr hh (by rw [hk]; decide) (by rw [hsymbols]; exact hnow) (by rw [hm]; decide),
    nextStep_broadcast (Or.inl hk), handOn_sound _ _ hk]

theorem soundEnd_known {r : Reception} {h : Header} (hf : s.findEntry h.tx = some i) :
    soundEnd r h readings s = soundSample i h.pair r.stampTrusted r.slots readings s := by
  unfold soundEnd
  rw [hf]

theorem soundEnd_unknown {r : Reception} {h : Header} (hf : s.findEntry h.tx = none) : soundEnd r h readings s = s := by
  unfold soundEnd
  rw [hf]

end

/-- A counter that saturates twice saturates once. -/
theorem saturate_twice (m a b c : Nat) : min m (min m (a + b) + c) = min m (a + (b + c)) := by
  omega

/-- What a trusted SOUND leaves, in the words of R60 to R64 and R79. -/
theorem trusted_sound_ends {s : State} {r : Reception} {h : Header} {x : Resolution} {i : EntryIx} {e : Entry} (payload : Demodulated)
    (readings : List (List Int)) (hl : s.Live) (hs : s.Rested) (hr : s.line.reception = some r) (hh : r.header = .used h .processed x)
    (hk : h.kind = .sound) (hnow : s.lineTime = r.frameStart.plus (192 + 32 * h.symbols)) (hm : s.mac.state = .receiving)
    (hf : s.findEntry h.tx = some i) (he : s.entry i = some e) (hp : e.state.present = true) (ht : r.stampTrusted = true)
    (htr : s.trusted = true) :
    let noted := notedCells h.pair r.slots readings
    let u := e.snr.sampled s.lineTime h.pair r.slots readings
    let every := fun (_ : Pair) (_ : MainsSlot) => true
    ∃ (t : State) (e' : Entry), exec (.frameEnd payload readings) s = .next t ∧ t.entry i = some e' ∧
      let agedBy := fun (n : Nat) => (t.count .cellsAged).toNat = min (2 ^ 32 - 1) ((s.count .cellsAged).toNat + n)
      (hasEligible s.settings.pairs (e.snr.age s.lineTime noted) = true ∨ hasEligible s.settings.pairs u = false →
        e' = { e with snr := u } ∧ t.count .eligibilityTriggers = s.count .eligibilityTriggers ∧
        agedBy (e.snr.oldCount s.lineTime noted)) ∧
      (hasEligible s.settings.pairs (e.snr.age s.lineTime noted) = false → hasEligible s.settings.pairs u = true →
        t.count .eligibilityTriggers = satInc (s.count .eligibilityTriggers) ∧ e'.snr = u.age s.lineTime every ∧
        agedBy (e.snr.oldCount s.lineTime noted + u.oldCount s.lineTime every) ∧
        (e.build.state = .idle →
          let boost := if badCount e.rx.window ≤ 1 then e.build.boost - 2 else e.build.boost
          e' = { e with
            snr := e'.snr
            build := { e.build with
              state := .building s.lineTime Causes.ofEligibility
                { cells := e'.snr, margin := s.settings.margin, boost := boost, localBands := s.settings.bands,
                  peerBands := e.peerBands, pairs := s.settings.pairs }
              boost := boost, retrySpent := false } }) ∧
        (∀ start c y, e.build.state = .building start c y →
          e' = { e with
            snr := e'.snr
            build := { e.build with remembered := some ((e.build.remembered.getD Causes.empty).union Causes.ofEligibility) } })) ∧
      (∀ j, j ≠ i → t.entry j = s.entry j) ∧ t.count .soundSampled = satInc (s.count .soundSampled) ∧
      t = { s with
        table := t.table, counters := t.counters, line := { s.line with reception := none }
        mac := { s.mac with state := .deferring, gap := some (.quiet (s.lineTime.plus 60)) } } := by
  intro noted u every
  have hexec := exec_frameEnd_sound payload readings hl hr hh hk hnow hm
  rw [soundEnd_known (s := s.closed) hf, soundSample_trusted (s := s.closed) he hp ht htr] at hexec
  have hentry := soundSampledAt_entry (s := s.closed) (i := i) (e := e) (p := h.pair) (slots := r.slots) (readings := readings)
  have hframe := soundSampledAt_frame (s := s.closed) (i := i) (e := e) (p := h.pair) (slots := r.slots) (readings := readings)
  have haged := soundSampledAt_aged (s := s.closed) (i := i) (e := e) (p := h.pair) (slots := r.slots) (readings := readings)
  have hcounted := soundSampledAt_sampled (s := s.closed) (i := i) (e := e) (p := h.pair) (slots := r.slots) (readings := readings)
  have htriggers := soundSampledAt_triggers (s := s.closed) (i := i) (e := e) (p := h.pair) (slots := r.slots) (readings := readings)
  generalize s.closed.soundSampledAt i e h.pair r.slots readings = v at *
  by_cases hc : hasEligible s.settings.pairs (e.snr.age s.lineTime noted) = false ∧ hasEligible s.settings.pairs u = true
  · replace hexec := hexec.trans (congrArg (fun y => Host.Outcome.next (settle s.txCharge (enterQuietGap y))) (if_pos hc))
    obtain ⟨b, y, hy, hyframe, hyaged, hysampled, hytriggers, hidle, hbuilding⟩ :=
      eligibility_trigger (s := bump .eligibilityTriggers v) hentry hp
    have htime : (bump .eligibilityTriggers v).lineTime = s.lineTime := by
      rw [hframe]
      rfl
    have hset : (bump .eligibilityTriggers v).settings = s.settings := by
      rw [hframe]
      rfl
    rw [htime] at hyframe hyaged hidle
    rw [hset] at hidle
    have hyset : y = { s.closed with
        table := s.table.set i (some { e with snr := u.age s.lineTime every, build := b }), counters := y.counters } := by
      refine hyframe.trans ?_
      rw [hframe]
      show _ = _
      simp only [bump_table, Vector.set_set]
      rfl
    obtain ⟨t, hst, ht1, ht2, ht3, ht4⟩ := sampled_ends (x := { e with snr := u.age s.lineTime every, build := b }) hs he rfl hyset
    rw [hy, hst] at hexec
    refine ⟨t, _, hexec, ht1, fun hn => ?_, fun _ _ => ⟨?_, rfl, ?_, fun hi => ?_, fun start c z hz => ?_⟩, ht2, ?_, ht4⟩
    · rcases hn with hn | hn
      · exact absurd (hc.1.symm.trans hn) Bool.false_ne_true
      · exact absurd (hn.symm.trans hc.2) Bool.false_ne_true
    · rw [ht3, hytriggers, cnt_self, htriggers]
      rfl
    · rw [ht3, hyaged, cnt_bump (by decide), haged]
      exact saturate_twice _ _ _ _
    · rw [hidle hi]
      rfl
    · rw [hbuilding start c z hz]
    · rw [ht3, hysampled, cnt_bump (by decide), hcounted]
      rfl
  · replace hexec := hexec.trans (congrArg (fun y => Host.Outcome.next (settle s.txCharge (enterQuietGap y))) (if_neg hc))
    obtain ⟨t, hst, ht1, ht2, ht3, ht4⟩ := sampled_ends (x := { e with snr := u }) hs he rfl hframe
    rw [hst] at hexec
    refine ⟨t, _, hexec, ht1, fun _ => ⟨rfl, ?_, ?_⟩, fun h1 h2 => absurd ⟨h1, h2⟩ hc, ht2, ?_, ht4⟩
    · rw [ht3, htriggers]
      rfl
    · rw [ht3]
      exact haged
    · rw [ht3, hcounted]
      rfl

/-- Settles O28: the cells one by one, the entry after the eligibility trigger or without it, and the discarded SOUNDs by the state of
the entry. -/
theorem frameEndSamplesSound : Obligations.FrameEndSamplesSound := by
  refine ⟨?_, ?_, fun x now which => ⟨fun p m => ⟨fun hw hold => ?_, fun hn => ?_⟩, oldCount_eq x now which⟩⟩
  · intro s r h x i e payload readings hl hs hr hh hk hnow hm hf he hp ht htr eligibility noted aged every
    obtain ⟨t, e', hexec, hentry, hplain, htriggered, hothers, hsampled, hframe⟩ :=
      trusted_sound_ends payload readings hl hs hr hh hk hnow hm hf he ((present_iff _).2 hp) ht htr
    refine ⟨t, e', e.snr.sampled s.lineTime h.pair r.slots readings, hexec, hentry, fun p m hne => sampled_other _ hne m,
      fun m => ⟨sampled_unnoted _, sampled_continues _, sampled_starts _⟩, hplain, fun h1 h2 => ?_, hothers, hsampled, hframe⟩
    obtain ⟨hcount, hsnr, haged, hidle, hbuilding⟩ := htriggered h1 h2
    refine ⟨hcount, hsnr, haged, hidle, fun start c y hb => (hbuilding start c y hb).trans ?_⟩
    rw [Causes.remembered_eligibility]
    cases e.build.remembered <;> rfl
  · intro s r h x payload readings hl hs hr hh hk hnow hm discarded
    have hexec := exec_frameEnd_sound payload readings hl hr hh hk hnow hm
    refine ⟨fun i e hf he => ⟨fun hp ht => ?_, fun hst => ?_⟩, fun hf => ?_⟩
    · rw [hexec, soundEnd_known (s := s.closed) hf, soundSample_untrusted (s := s.closed) he ((present_iff _).2 hp) ht]
      exact next_at_rest hs rfl rfl rfl rfl rfl
    · have habsent : e.state.present = false := by rcases hst with hst | hst <;> rw [hst] <;> rfl
      rw [hexec, soundEnd_known (s := s.closed) hf, soundSample_absent (s := s.closed) he habsent]
      exact next_at_rest hs rfl rfl rfl rfl rfl
    · rw [hexec, soundEnd_unknown (s := s.closed) hf]
      exact next_at_rest hs rfl rfl rfl rfl rfl
  · rw [snr_age_at, if_pos hw, age_old hold]
  · rw [snr_age_at]
    rcases hn with hw | hyoung
    · rw [hw]
      rfl
    · rw [age_young hyoung, ite_self]

end Sys2Proof.Machine
end

/-! ## Proofs: the note deadline, and the intake of a NOTE (O45) -/

section
namespace Sys2Proof.Machine

/-! ### The note deadline (R63, R139, R177) -/

section
variable {s : State}

theorem ageAll_frame (s : State) : ageAll s =
    { s with table := s.table.map fun x => x.map fun e => { e with snr := e.snr.age s.lineTime fun _ _ => true }
             counters := (ageAll s).counters } := by
  rw [ageAll_eq, bumpBy_eq]

/-- R144: aging leaves the transmit charge. -/
theorem ageAll_txCharge {t : State} (hq : t.queues = s.queues) (ht : t.table = (ageAll s).table) : t.txCharge = s.txCharge := by
  unfold State.txCharge
  rw [hq, ht, ageAll_frame, Vector.toList_map, List.map_map]
  refine congrArg (fun l : List Nat => (s.queues.toList.map chargesOf).sum + l.sum) (List.map_congr_left fun x _ => ?_)
  cases x <;> rfl

theorem moveNoteDeadline_eq {d : LineTime} {n : Nat} (h : s.note.deadline = some d) (hn : s.settings.noteMs = n) :
    moveNoteDeadline s = { s with note := { s.note with deadline := some (d.plus (n * 1000)) } } := by
  unfold moveNoteDeadline
  rw [h, hn]
  rfl

theorem offerNote_placed (h : s.note.placed = true) : offerNote s = s := if_pos h

theorem clashes_note (x : ControlEntry) : x.clashes .note = true ↔ x = .note := by
  cases x <;> simp [ControlEntry.clashes]

theorem offerNote_taken (h : s.note.placed = false) (hlen : s.control.length < 16) (hnote : .note ∉ s.control) :
    offerNote s = placeControl .note { s with note := { s.note with placed := true } } := by
  have htakes : s.controlTakes .note = true := by
    unfold State.controlTakes
    rw [Bool.and_eq_true, decide_eq_true_eq, Bool.not_eq_true']
    refine ⟨hlen, List.any_eq_false.2 fun x hx h => hnote ?_⟩
    rw [← (clashes_note x).1 h]
    exact hx
  unfold offerNote
  rw [if_neg (by rw [h]; exact Bool.false_ne_true), if_pos htakes]

theorem offerNote_full (h : s.note.placed = false) (hlen : 16 ≤ s.control.length) : offerNote s = bump .noteRefusals s := by
  unfold offerNote
  rw [if_neg (by rw [h]; exact Bool.false_ne_true), if_neg (by rw [controlTakes_full hlen]; exact Bool.false_ne_true)]

theorem noteDeadline_cases (hl : s.Live) (hr : s.Rested) (hd : s.note.deadline = some s.lineTime) :
    let next := some (s.lineTime.plus (s.settings.noteMs * 1000))
    (s.note.placed = true → exec .noteDeadline s = .next { ageAll s with note := { s.note with deadline := next } }) ∧
    (s.note.placed = false → s.control.length < 16 → .note ∉ s.control →
      exec .noteDeadline s = .next (settle s.txCharge { ageAll s with
        control := s.control ++ [.note], evalDue := true, note := { deadline := next, placed := true } })) ∧
    (s.note.placed = false → 16 ≤ s.control.length →
      exec .noteDeadline s = .next (bump .noteRefusals { ageAll s with note := { s.note with deadline := next } })) := by
  intro next
  have hexec : exec .noteDeadline s = .next (settle s.txCharge (moveNoteDeadline (offerNote (ageAll s)))) :=
    live_due (b := fun s => s.reached s.note.deadline) (f := settled noteDue) hl (State.reached_iff.2 hd)
  have hframe := ageAll_frame s
  have hcharge {t : State} := ageAll_txCharge (s := s) (t := t)
  generalize ageAll s = aged at hexec hframe hcharge ⊢
  have hnote : aged.note = s.note := by rw [hframe]
  have hcontrol : aged.control = s.control := by rw [hframe]
  have hset : aged.settings.noteMs = s.settings.noteMs := by rw [hframe]
  have hqueues : aged.queues = s.queues := by rw [hframe]
  have hrested : aged.Rested := rested_congr hr (by rw [hframe]) (by rw [hframe])
  rw [← hnote, ← hcontrol]
  rw [← hnote] at hd
  refine ⟨fun hp => ?_, fun hp hlen hn => ?_, fun hp hlen => ?_⟩
  · rw [hexec, offerNote_placed hp, moveNoteDeadline_eq hd hset]
    exact congrArg Host.Outcome.next (settle_of_rested (rested_congr hrested rfl rfl) (hcharge hqueues rfl))
  · rw [hexec, offerNote_taken hp hlen hn]
    exact congrArg (fun t => Host.Outcome.next (settle s.txCharge t)) ((moveNoteDeadline_eq
      (s := placeControl .note { aged with note := { aged.note with placed := true } }) hd hset).trans rfl)
  · have hmoved : moveNoteDeadline (bump .noteRefusals aged) = bump .noteRefusals { aged with
        note := { aged.note with deadline := next } } :=
      (moveNoteDeadline_eq (s := bump .noteRefusals aged) hd hset).trans rfl
    rw [hexec, offerNote_full hp hlen, hmoved]
    exact congrArg Host.Outcome.next (settle_of_rested (rested_congr hrested rfl rfl) (hcharge hqueues rfl))

end

/-! ### The items of a reach list, and the wants that a request raises (R67, R141) -/

theorem dropDuplicates_snoc (l : List NoteItem) (x : NoteItem) : dropDuplicates (l ++ [x]) =
    if (dropDuplicates l).any fun y => y.addr == x.addr then dropDuplicates l else dropDuplicates l ++ [x] := by
  unfold dropDuplicates
  rw [List.foldl_append]
  rfl

theorem dropDuplicates_named (l : List NoteItem) (a : Addr) : (∃ y ∈ dropDuplicates l, y.addr = a) ↔ ∃ y ∈ l, y.addr = a := by
  induction l using snoc_induction with
  | nil => rfl
  | snoc l x ih =>
    rw [dropDuplicates_snoc]
    simp only [List.mem_append, List.mem_singleton]
    have hsplit : (∃ y, (y ∈ l ∨ y = x) ∧ y.addr = a) ↔ (∃ y ∈ l, y.addr = a) ∨ x.addr = a := by
      constructor
      · rintro ⟨y, hy | rfl, ha⟩
        · exact Or.inl ⟨y, hy, ha⟩
        · exact Or.inr ha
      · rintro (⟨y, hy, ha⟩ | ha)
        · exact ⟨y, Or.inl hy, ha⟩
        · exact ⟨x, Or.inr rfl, ha⟩
    rw [hsplit, ← ih]
    split
    · next hany =>
      obtain ⟨y, hy, hyx⟩ := List.any_eq_true.1 hany
      refine ⟨Or.inl, fun h => h.elim id fun ha => ⟨y, hy, (beq_iff_eq.1 hyx).trans ha⟩⟩
    · constructor
      · rintro ⟨y, hy, ha⟩
        rcases List.mem_append.1 hy with hy | hy
        · exact Or.inl ⟨y, hy, ha⟩
        · rw [List.mem_singleton] at hy
          exact Or.inr (hy ▸ ha)
      · rintro (⟨y, hy, ha⟩ | ha)
        · exact ⟨y, List.mem_append_left _ hy, ha⟩
        · exact ⟨x, List.mem_append_right _ (List.mem_singleton_self x), ha⟩

theorem dropDuplicates_cases (l : List NoteItem) (x : NoteItem) :
    dropDuplicates [] = [] ∧ ((∃ y ∈ l, y.addr = x.addr) → dropDuplicates (l ++ [x]) = dropDuplicates l) ∧
    ((∀ y ∈ l, y.addr ≠ x.addr) → dropDuplicates (l ++ [x]) = dropDuplicates l ++ [x]) := by
  have hany : (dropDuplicates l).any (fun y => y.addr == x.addr) = true ↔ ∃ y ∈ l, y.addr = x.addr := by
    rw [← dropDuplicates_named, List.any_eq_true]
    exact exists_congr fun y => and_congr_right fun _ => beq_iff_eq
  refine ⟨rfl, fun h => ?_, fun h => ?_⟩
  · rw [dropDuplicates_snoc, if_pos (hany.2 h)]
  · rw [dropDuplicates_snoc, if_neg fun k => ?_]
    obtain ⟨y, hy, hyx⟩ := hany.1 k
    exact h y hy hyx

section
variable {q : SoundRequest} {w : Vector (Vector Nat 6) 3} {p : Pair} {m off : MainsSlot}

theorem raiseWants_other (o : Option MainsSlot) (hp : p ≠ q.pair) : (raiseWants o q w)[p][m] = w[p][m] := by
  unfold raiseWants
  rw [Fin.getElem_fin w, Fin.getElem_fin (w.set _ _), Vector.getElem_set_ne _ _ fun h => hp (Fin.ext h).symm]
  rfl

theorem raiseWants_all : (raiseWants none q w)[q.pair][m] = 3 := by
  unfold raiseWants
  simp

theorem raiseWants_slots : (raiseWants (some off) q w)[q.pair][m] =
    if (List.finRange 6).any fun r => q.slots.getLsbD r.val && toOwnSlot off r == m then 3 else w[q.pair][m] := by
  unfold raiseWants
  simp

theorem toOwnSlot_iff {r : MainsSlot} : toOwnSlot off r = m ↔ m.val = (r.val + off.val) % 6 := by
  have hlt := Nat.mod_lt (r.val + off.val) (show 6 > 0 by decide)
  unfold toOwnSlot
  rw [Fin.ext_iff]
  show (r.val + off.val) % 6 % 6 = m.val ↔ _
  rw [Nat.mod_eq_of_lt hlt]
  exact eq_comm

theorem raiseWants_cases (o : Option MainsSlot) (q : SoundRequest) (w : Vector (Vector Nat 6) 3) (p : Pair) (m : MainsSlot) :
    (p ≠ q.pair → (raiseWants o q w)[p][m] = w[p][m]) ∧
    (o = none → (raiseWants o q w)[q.pair][m] = 3) ∧
    (∀ off, o = some off →
      ((∃ r : MainsSlot, q.slots.getLsbD r.val = true ∧ m.val = (r.val + off.val) % 6) → (raiseWants o q w)[q.pair][m] = 3) ∧
      ((∀ r : MainsSlot, q.slots.getLsbD r.val = true → m.val ≠ (r.val + off.val) % 6) →
        (raiseWants o q w)[q.pair][m] = w[q.pair][m])) := by
  refine ⟨raiseWants_other o, ?_, ?_⟩
  · rintro rfl
    exact raiseWants_all
  · rintro off rfl
    have hany : ((List.finRange 6).any fun r => q.slots.getLsbD r.val && toOwnSlot off r == m) = true ↔
        ∃ r : MainsSlot, q.slots.getLsbD r.val = true ∧ m.val = (r.val + off.val) % 6 := by
      rw [List.any_eq_true]
      refine exists_congr fun r => ?_
      rw [Bool.and_eq_true, beq_iff_eq, toOwnSlot_iff]
      exact and_iff_right (List.mem_finRange r)
    refine ⟨fun h => ?_, fun h => ?_⟩
    · rw [raiseWants_slots, if_pos (hany.2 h)]
    · rw [raiseWants_slots, if_neg fun k => ?_]
      obtain ⟨r, hr, hm⟩ := hany.1 k
      exact h r hr hm

end

/-! ### The stations named (R130) -/

section
variable {s : State} {tx a : Addr} {i : EntryIx} {e : Entry}

theorem nameStation_known (h1 : a ≠ s.settings.station) (h2 : a ≠ tx) (hf : s.findEntry a = some i) (he : s.entry i = some e) :
    nameStation tx a s = setEntry i (some (if e.state = .remote then { e with lastNamed := some s.lineTime } else e)) s := by
  unfold nameStation
  rw [if_neg (not_or.2 ⟨h1, h2⟩), hf]
  dsimp only
  unfold modEntry
  rw [he]

theorem nameStation_created (h1 : a ≠ s.settings.station) (h2 : a ≠ tx) (hf : s.findEntry a = none) (hi : s.emptyIndex = some i) :
    nameStation tx a s = createEntry i (Entry.fresh a .remote none (some s.lineTime) false) s := by
  unfold nameStation
  rw [if_neg (not_or.2 ⟨h1, h2⟩), hf]
  dsimp only
  rw [hi]

theorem nameStation_full (h1 : a ≠ s.settings.station) (h2 : a ≠ tx) (hf : s.findEntry a = none) (hi : s.emptyIndex = none) :
    nameStation tx a s = bump .remoteNotCreated s := by
  unfold nameStation
  rw [if_neg (not_or.2 ⟨h1, h2⟩), hf]
  dsimp only
  rw [hi]

theorem nameStation_cases (s : State) (tx a : Addr) :
    (a = s.settings.station ∨ a = tx → nameStation tx a s = s) ∧
    (a ≠ s.settings.station → a ≠ tx →
      (∀ i e, s.findEntry a = some i → s.entry i = some e →
        (e.state = .remote → nameStation tx a s =
          { s with table := s.table.set i (some { e with lastNamed := some s.lineTime }) }) ∧
        (e.state ≠ .remote → nameStation tx a s = s)) ∧
      (s.findEntry a = none → s.emptyIndex = none → nameStation tx a s = bump .remoteNotCreated s) ∧
      (∀ i, s.findEntry a = none → s.emptyIndex = some i →
        ∃ t e, nameStation tx a s = t ∧ t.entry i = some e ∧
          e = { Entry.fresh a .remote none (some s.lineTime) false with route := e.route, txRate := e.txRate } ∧
          s.OthersKept t i ∧ t.count .remoteCreated = satInc (s.count .remoteCreated) ∧
          t = { s with table := t.table, counters := t.counters, evalDue := t.evalDue })) := by
  refine ⟨fun h => if_pos h, fun h1 h2 => ⟨fun i e hf he => ⟨fun hst => ?_, fun hst => ?_⟩, nameStation_full h1 h2, fun i hf hi => ?_⟩⟩
  · rw [nameStation_known h1 h2 hf he, if_pos hst]
    rfl
  · rw [nameStation_known h1 h2 hf he, if_neg hst, setEntry_same he]
  · have hframe := (nameStation_spec tx a s).1
    rw [nameStation_created h1 h2 hf hi] at hframe ⊢
    obtain ⟨route, rate, hentry⟩ := create_entry i (Entry.fresh a .remote none (some s.lineTime) false) s
    exact ⟨_, _, rfl, hentry, rfl, create_others i _ s, cnt_create_remote_self i _ s rfl, hframe⟩

end

/-! ### The intake of a NOTE (R35, R67, R141) -/

section
variable {s : State} {i : EntryIx} {e : Entry} {h : Header} {r : Reception} {x : Resolution}

/-- R141: an entry once a NOTE of its station is taken in. -/
def Entry.noted (e : Entry) (n : NotePayload) : Entry :=
  { e with relay := n.relay, peerBands := some n.bands
           reach := some ((dropDuplicates n.items).map fun y => { addr := y.addr, rate := y.rate }) }

/-- R67: the sound request that a NOTE makes of this station. -/
def NotePayload.requestTo (n : NotePayload) (a : Addr) : Option SoundRequest :=
  ((dropDuplicates n.items).find? fun y => y.addr == a).bind (·.request)

/-- R67: the part once the request of a NOTE, if it makes one, is taken. -/
def requestTaken (o : Option MainsSlot) : Option SoundRequest → State → State
  | some q, s => soundRequested o q s
  | none, s => s

/-- R141: the part once the entry of a NOTE's transmitter is written. -/
def State.entryNoted (s : State) (i : EntryIx) (e : Entry) (n : NotePayload) : State :=
  setEntry i (some (e.noted n)) (bumpBy .duplicateItems (n.items.length - (dropDuplicates n.items).length) s)

theorem noteIntake_eq (n : NotePayload) (he : s.entry i = some e) : noteIntake i h.tx n s =
    bump .notesReceived (recompute ((dropDuplicates n.items).foldl (fun s x => nameStation h.tx x.addr s)
      (requestTaken e.offset.held (n.requestTo s.settings.station) (s.entryNoted i e n)))) := by
  have hentry : (bumpBy .duplicateItems (n.items.length - (dropDuplicates n.items).length) s).entry i = some e := by
    rw [bumpBy_entry, he]
  have hmod (f : Entry → Entry) : modEntry i f (bumpBy .duplicateItems (n.items.length - (dropDuplicates n.items).length) s) =
      setEntry i (some (f e)) (bumpBy .duplicateItems (n.items.length - (dropDuplicates n.items).length) s) := by
    unfold modEntry
    rw [hentry]
  have hset : (s.entryNoted i e n).settings = s.settings := by
    unfold State.entryNoted
    rw [setEntry_settings, bumpBy_eq]
  have hnoted : (s.entryNoted i e n).entry i = some (e.noted n) := entry_setEntry_self i _ _
  unfold noteIntake
  dsimp only
  rw [hmod]
  have hwritten : setEntry i (some { e with
      relay := n.relay, peerBands := some n.bands
      reach := some ((dropDuplicates n.items).map fun y => { addr := y.addr, rate := y.rate }) })
      (bumpBy .duplicateItems (n.items.length - (dropDuplicates n.items).length) s) = s.entryNoted i e n := rfl
  rw [hwritten, hset, hnoted]
  cases hq : n.requestTo s.settings.station with
  | none =>
    unfold NotePayload.requestTo at hq
    rw [hq]
    rfl
  | some q =>
    unfold NotePayload.requestTo at hq
    rw [hq]
    rfl

/-- What a request taken leaves of the part. -/
theorem requestTaken_frame (o : Option MainsSlot) (q : Option SoundRequest) (u : State) : requestTaken o q u = { u with
    estimator := (requestTaken o q u).estimator, control := (requestTaken o q u).control
    counters := (requestTaken o q u).counters, evalDue := (requestTaken o q u).evalDue } := by
  cases q with
  | none => rfl
  | some q => exact (soundRequested_frame o q u).1

theorem cnt_requestTaken {c : Counter} (h1 : Counter.soundRequests.index ≠ c.index) (h2 : Counter.placedSoundRefusal.index ≠ c.index)
    (o : Option MainsSlot) (q : Option SoundRequest) (u : State) : (requestTaken o q u).count c = u.count c := by
  cases q with
  | none => rfl
  | some q => exact (soundRequested_frame o q u).2.2.2 c h1 h2

/-- R130, R135 to R138: the stations named, and the routes formed again: nothing but the table is written, and an entry that is found by
its address keeps all but its route, renewed where it is REMOTE and named. -/
theorem named_recomputed (tx : Addr) (l : List NoteItem) (u : State) :
    ∃ t, recompute (l.foldl (fun s x => nameStation tx x.addr s) u) = t ∧
      t = { u with table := t.table, counters := t.counters, evalDue := t.evalDue } ∧
      (∀ c : Counter, Counter.remoteCreated.index ≠ c.index → Counter.routeChanges.index ≠ c.index →
        Counter.remoteNotCreated.index ≠ c.index → t.count c = u.count c) ∧
      ∀ (j : EntryIx) (y : Entry), u.entry j = some y → u.findEntry y.addr = some j →
        (t.entry j).map Entry.unrouted = some (Entry.unrouted
          (if y.state = .remote ∧ y.addr ≠ u.settings.station ∧ y.addr ≠ tx ∧ ∃ z ∈ l, z.addr = y.addr
           then { y with lastNamed := some u.lineTime } else y)) := by
  obtain ⟨hframe, hcount, hentries⟩ := nameAll_spec tx l u
  generalize l.foldl (fun s x => nameStation tx x.addr s) u = v at *
  refine ⟨_, rfl, ?_, fun c h1 h2 h3 => (cnt_recompute h2 v).trans (hcount c h1 h2 h3), fun j y hy hf => ?_⟩
  · have hrec := recompute_eq v
    generalize recompute v = t at *
    rw [hrec, hframe]
  · rw [recompute_unrouted]
    exact hentries j y hy hf

theorem entryNoted_frame (n : NotePayload) : s.entryNoted i e n =
    { s with table := s.table.set i (some (e.noted n)), counters := (s.entryNoted i e n).counters } := by
  unfold State.entryNoted
  rw [bumpBy_eq]
  rfl

theorem exec_frameEnd_note (payload : Demodulated) (readings : List (List Int)) (hl : s.Live) (hr : s.line.reception = some r)
    (hh : r.header = .used h .processed x) (hk : h.kind = .note) (hnow : s.lineTime = r.frameStart.plus (192 + 32 * h.symbols))
    (hm : s.mac.state = .receiving) : exec (.frameEnd payload readings) s =
      .next (settle s.txCharge (enterQuietGap (noteEnd h (r.payloadBytes payload) s.closed))) := by
  have hsymbols : h.payloadSymbols = h.symbols := payloadSymbols_of_not_resp (by rw [hk]; decide)
  rw [exec_frameEnd_taken payload readings hl hr hh (by rw [hk]; decide) (by rw [hsymbols]; exact hnow) (by rw [hm]; decide),
    nextStep_broadcast (Or.inr hk), handOn_note _ _ hk]

theorem noteEnd_malformed {payload : List Byte} (hf : s.findEntry h.tx = some i) (hp : readNote h.symbols payload = none) :
    noteEnd h payload s = bump .badControlPayloads s := by
  unfold noteEnd
  rw [hf, hp]

theorem noteEnd_valid {payload : List Byte} {n : NotePayload} (hf : s.findEntry h.tx = some i) (hp : readNote h.symbols payload = some n) :
    noteEnd h payload s = noteIntake i h.tx n s := by
  unfold noteEnd
  rw [hf, hp]

/-- A quiet gap that follows an intake, and what ends the command. -/
theorem intake_settled {u v : State} (hr : s.Rested) (hu : u = { s.closed with
    table := u.table, estimator := u.estimator, control := u.control, counters := u.counters, evalDue := u.evalDue })
    (hv : enterQuietGap u = v) :
    ∃ t, settle s.txCharge v = t ∧ (∀ j, t.entry j = u.entry j) ∧ t.estimator = u.estimator ∧ t.control = u.control ∧
      (∀ c, c = .notesReceived ∨ c = .soundRequests → t.count c = u.count c) ∧
      t.mac = { s.mac with state := .deferring, gap := some (.quiet (s.lineTime.plus 60)) } ∧
      t = { s with
        table := t.table, estimator := t.estimator, control := t.control
        line := { s.line with reception := none } }.endedAs t := by
  have hended : Ended v (settle s.txCharge v) := (Ended.refl v).settle s.txCharge
  have hsettled := settle_eval s.txCharge v
  have hmac : (settle s.txCharge v).mac = v.mac := settle_mac_busy (by rw [← hv]; exact fun h => nomatch h)
  have hcount (c : Counter) (hc : c = .notesReceived ∨ c = .soundRequests) : (settle s.txCharge v).count c = v.count c := by
    rcases hc with rfl | rfl <;> exact cnt_settle (by decide) (by decide) _ _
  generalize settle s.txCharge v = t at *
  have hvmac : v.mac = { s.mac with state := .deferring, gap := some (.quiet (s.lineTime.plus 60)) } := by
    rw [← hv, hu]
    rfl
  unfold Ended at hended
  rw [hsettled] at hended
  refine ⟨t, rfl, fun j => ?_, ?_, ?_, fun c hc => ?_, hmac.trans hvmac, ?_⟩
  · rw [hended, ← hv]
    rfl
  · rw [hended, ← hv]
    rfl
  · rw [hended, ← hv]
    rfl
  · rw [hcount c hc, ← hv]
    rfl
  · rw [hended, ← hv, hu]
    unfold State.endedAs
    simp [hr.1, State.closed, enterQuietGap, modMac]

/-- An entry that is another one but for its direct rate and route. -/
theorem rerouted_of_unrouted {o : Option Entry} {y : Entry} (ho : o.map Entry.unrouted = some y.unrouted) :
    ∃ e', o = some e' ∧ e' = { y with txRate := e'.txRate, route := e'.route } := by
  obtain ⟨e', he', hun⟩ := Option.map_eq_some_iff.1 ho
  refine ⟨e', he', ?_⟩
  obtain ⟨a1, a2, a3, a4, a5, a6, a7, a8, a9, a10, a11, a12, a13, a14, a15, a16, a17, a18⟩ := e'
  obtain ⟨b1, b2, b3, b4, b5, b6, b7, b8, b9, b10, b11, b12, b13, b14, b15, b16, b17, b18⟩ := y
  simp only [Entry.unrouted, Entry.mk.injEq] at hun ⊢
  simp only [hun, and_self]

/-- R35, R67, R130, R141: what the intake of a NOTE leaves. -/
theorem note_taken (payload : Demodulated) (readings : List (List Int)) (hl : s.Live) (hs : s.Rested) (hr : s.line.reception = some r)
    (hh : r.header = .used h .processed x) (hk : h.kind = .note) (hnow : s.lineTime = r.frameStart.plus (192 + 32 * h.symbols))
    (hm : s.mac.state = .receiving) (hf : s.findEntry h.tx = some i) (he : s.entry i = some e) {n : NotePayload}
    (hp : readNote h.symbols (r.payloadBytes payload) = some n) :
    ∃ t e', exec (.frameEnd payload readings) s = .next t ∧ t.entry i = some e' ∧
      e' = { e.noted n with txRate := e'.txRate, route := e'.route } ∧
      (∀ (j : EntryIx) (y : Entry), j ≠ i → s.entry j = some y → s.findEntry y.addr = some j →
        (t.entry j).map Entry.unrouted = some (Entry.unrouted
          (if y.state = .remote ∧ y.addr ≠ s.settings.station ∧ ∃ z ∈ n.items, z.addr = y.addr
           then { y with lastNamed := some s.lineTime } else y))) ∧
      (n.requestTo s.settings.station = none → t.estimator = s.estimator ∧ t.control = s.control) ∧
      (∀ q, n.requestTo s.settings.station = some q → t.estimator.wants = raiseWants e.offset.held q s.estimator.wants ∧
        t.count .soundRequests = satInc (s.count .soundRequests) ∧
        t.estimator = (soundRequested e.offset.held q s).estimator ∧ t.control = (soundRequested e.offset.held q s).control) ∧
      t.count .notesReceived = satInc (s.count .notesReceived) ∧
      t.mac = { s.mac with state := .deferring, gap := some (.quiet (s.lineTime.plus 60)) } ∧
      t = { s with
        table := t.table, estimator := t.estimator, control := t.control
        line := { s.line with reception := none } }.endedAs t := by
  have haddr : e.addr = h.tx := by
    obtain ⟨e1, he1, hea⟩ := findEntry_some hf
    rw [he] at he1
    cases he1
    exact hea
  have hexec := exec_frameEnd_note payload readings hl hr hh hk hnow hm
  rw [noteEnd_valid (s := s.closed) hf hp, noteIntake_eq (s := s.closed) n he] at hexec
  have hnoted := entryNoted_frame (s := s.closed) (i := i) (e := e) n
  have hnotedCount {c : Counter} (hc : Counter.duplicateItems.index ≠ c.index) : (s.closed.entryNoted i e n).count c = s.count c :=
    cnt_bumpBy hc _ s.closed
  have htaken := requestTaken_frame e.offset.held (n.requestTo s.settings.station) (s.closed.entryNoted i e n)
  have htakenCount {c : Counter} (h1 : Counter.soundRequests.index ≠ c.index) (h2 : Counter.placedSoundRefusal.index ≠ c.index) :=
    cnt_requestTaken h1 h2 e.offset.held (n.requestTo s.settings.station) (s.closed.entryNoted i e n)
  have hrequest (q : SoundRequest) (hq : n.requestTo s.settings.station = some q) :
      (requestTaken e.offset.held (n.requestTo s.settings.station) (s.closed.entryNoted i e n)).estimator =
          (soundRequested e.offset.held q s).estimator ∧
        (requestTaken e.offset.held (n.requestTo s.settings.station) (s.closed.entryNoted i e n)).control =
          (soundRequested e.offset.held q s).control ∧
        (requestTaken e.offset.held (n.requestTo s.settings.station) (s.closed.entryNoted i e n)).count .soundRequests =
          satInc (s.count .soundRequests) := by
    rw [hq]
    have hsame := soundRequested_congr (u := s.closed.entryNoted i e n) (v := s) (by rw [hnoted]; rfl) (by rw [hnoted]; rfl)
      (by rw [hnoted]; rfl) (by rw [hnoted]; rfl) e.offset.held q
    refine ⟨hsame.1, hsame.2, ((soundRequested_frame e.offset.held q (s.closed.entryNoted i e n)).2.2.1).trans ?_⟩
    rw [hnotedCount (by decide)]
  have hnone (hq : n.requestTo s.settings.station = none) :
      requestTaken e.offset.held (n.requestTo s.settings.station) (s.closed.entryNoted i e n) = s.closed.entryNoted i e n := by
    rw [hq]
    rfl
  have hnotedReceived : (s.closed.entryNoted i e n).count .notesReceived = s.count .notesReceived := hnotedCount (by decide)
  have hset : s.closed.settings.station = s.settings.station := rfl
  rw [hset] at hexec
  generalize s.closed.entryNoted i e n = v at *
  generalize requestTaken e.offset.held (n.requestTo s.settings.station) v = w at *
  have hwentry (j : EntryIx) : w.entry j = (setEntry i (some (e.noted n)) s).entry j := by
    rw [htaken, hnoted]
    rfl
  have hwaddr (j : EntryIx) : (w.entry j).map (·.addr) = (s.entry j).map (·.addr) := by
    rw [hwentry]
    by_cases hj : j = i
    · subst hj
      rw [entry_setEntry_self, he]
      rfl
    · rw [entry_setEntry_ne hj]
  have hwfind (a : Addr) : w.findEntry a = s.findEntry a := findEntry_congr fun j => by rw [hwaddr]
  have hwset : w.settings = s.settings := by
    rw [htaken, hnoted]
    rfl
  have hwtime : w.lineTime = s.lineTime := by
    rw [htaken, hnoted]
    rfl
  obtain ⟨y, hy, hyframe, hycount, hyentries⟩ := named_recomputed h.tx (dropDuplicates n.items) w
  rw [hy] at hexec
  obtain ⟨t, ht, htentry, htest, htcontrol, htcount, htmac, htframe⟩ := intake_settled (u := bump .notesReceived y)
    (v := enterQuietGap (bump .notesReceived y)) hs (by rw [hyframe, htaken, hnoted]; rfl) rfl
  rw [ht] at hexec
  have hself : (t.entry i).map Entry.unrouted = some (e.noted n).unrouted := by
    have hwi : w.entry i = some (e.noted n) := by rw [hwentry, entry_setEntry_self]
    have hentries := hyentries i (e.noted n) hwi (by rw [hwfind]; show s.findEntry e.addr = _; rw [haddr, hf])
    rw [if_neg fun hc => hc.2.2.1 haddr] at hentries
    rw [htentry, bump_entry]
    exact hentries
  obtain ⟨e', he', hform⟩ := rerouted_of_unrouted hself
  have hyest : y.estimator = w.estimator := by rw [hyframe]
  have hycontrol : y.control = w.control := by rw [hyframe]
  refine ⟨t, e', hexec, he', hform, fun j z hj hz hfz => ?_, fun hq => ?_, fun q hq => ?_, ?_, htmac, htframe⟩
  · have hwj : w.entry j = some z := by rw [hwentry, entry_setEntry_ne hj, hz]
    have hztx : z.addr ≠ h.tx := fun k => by
      rw [k, hf] at hfz
      exact hj (Option.some.inj hfz).symm
    rw [htentry, bump_entry, hyentries j z hwj (by rw [hwfind, hfz]), hwset, hwtime]
    refine congrArg (fun y => some (Entry.unrouted y)) (ite_of_iff ?_ rfl rfl)
    rw [dropDuplicates_named]
    exact and_congr_right fun _ => and_congr_right fun _ => and_iff_right hztx
  · have hw := hnone hq
    refine ⟨?_, ?_⟩
    · rw [htest, show (bump .notesReceived y).estimator = w.estimator from hyest, hw, hnoted]
      rfl
    · rw [htcontrol, show (bump .notesReceived y).control = w.control from hycontrol, hw, hnoted]
      rfl
  · obtain ⟨h1, h2, h3⟩ := hrequest q hq
    have hest : t.estimator = (soundRequested e.offset.held q s).estimator :=
      htest.trans (hyest.trans h1)
    refine ⟨?_, ?_, hest, htcontrol.trans (hycontrol.trans h2)⟩
    · rw [hest]
      exact (soundRequested_frame e.offset.held q s).2.1
    · rw [htcount _ (Or.inr rfl), cnt_bump (by decide), hycount _ (by decide) (by decide) (by decide), h3]
  · rw [htcount _ (Or.inl rfl), cnt_self, hycount _ (by decide) (by decide) (by decide), htakenCount (by decide) (by decide),
      hnotedReceived]

end

/-- Settles O45: the note deadline on the aged part, the intake step by step, and its four readers case by case. -/
theorem noteScheduleAndIntake : Obligations.NoteScheduleAndIntake := by
  refine ⟨?_, ?_, dropDuplicates_cases, raiseWants_cases, nameStation_cases⟩
  · intro s hl hr hd next all old aged
    have haged : aged = ageAll s := (ageAll_eq s).symm
    rw [haged]
    exact noteDeadline_cases hl hr hd
  · intro s r h x i e payload readings hl hs hr hh hk hnow hm hf he quiet
    refine ⟨fun hp => ?_, fun n hp => note_taken payload readings hl hs hr hh hk hnow hm hf he hp⟩
    rw [exec_frameEnd_note payload readings hl hr hh hk hnow hm, noteEnd_malformed (s := s.closed) hf hp]
    exact next_at_rest hs rfl rfl rfl rfl rfl

end Sys2Proof.Machine
end

/-! ## Proofs: the end of a sent frame and the control list

R21, R47, R73, R105, R177, R178: what follows each kind of frame sent by contention, what the list takes, and the parts offered. -/

section

namespace Sys2Proof.Machine

section
variable {s : State} {f : TxFrame}

theorem exec_sentFrameEnd (hl : s.Live) (hf : s.line.sending = some f) (hk : f.header.kind ≠ .resp) (ht : s.lineTime = f.stop) :
    exec .sentFrameEnd s = .next (settle s.txCharge (frameSent f s)) := by
  have hdue : s.sentEndDue FrameKind.contended = true :=
    State.sentEndDue_iff.2 ⟨f, hf, FrameKind.contended_iff.2 hk, ht⟩
  refine (live_due (b := fun s => s.sentEndDue FrameKind.contended) (f := settled endSent) hl hdue).trans ?_
  show Host.Outcome.next (settle s.txCharge (endSent s)) = _
  unfold endSent
  rw [hf]

theorem frameSent_answered (hk : f.header.kind = .data ∨ f.header.kind = .grid) :
    frameSent f s = { s with
      line := { s.line with sending := none }
      mac := { s.mac with
        state := .awaitingResponse
        wait := some { kind := f.header.kind, receiver := f.header.rx, segments := f.header.segments,
                       frameEnd := s.lineTime, control := f.control } } } := by
  unfold frameSent
  rcases hk with hk | hk <;> rw [hk] <;> rfl

theorem frameSent_note (hk : f.header.kind = .note) :
    frameSent f s = enterQuietGap (leaveControl (fun c => c == .note)
      (noteSent (contentionCleared { s with line := { s.line with sending := none } }))) := by
  unfold frameSent
  rw [hk]
  unfold broadcastOutcome
  rw [hk]
  rfl

theorem frameSent_sound (hk : f.header.kind = .sound) :
    frameSent f s = enterQuietGap (leaveControl ControlEntry.isSound
      (soundSent f.header.pair f.start (contentionCleared { s with line := { s.line with sending := none } }))) := by
  unfold frameSent
  rw [hk]
  exact congrArg enterQuietGap (if_pos hk)

/-- R73: whether the placed pair was chosen by rotation is read from the placed entry. -/
theorem soundSent_rotation (p : Pair) (start : LineTime) : (soundSent p start s).estimator.rotation =
    if s.estimator.placed.map (·.byRotation) = some true then p + 1 else s.estimator.rotation := by
  unfold soundSent
  dsimp only
  cases s.estimator.placed <;> simp

theorem soundSent_eq (p : Pair) (start : LineTime) : soundSent p start s = { s with estimator := {
    (soundSent p start s).estimator with
      rotation := if s.estimator.placed.map (·.byRotation) = some true then p + 1 else s.estimator.rotation } } := by
  rw [← soundSent_rotation p start]
  rfl

end

/-! ### Entries that leave the list -/

section
variable {s : State}

theorem leaveControl_none {gone : ControlEntry → Bool} (h : ∀ c ∈ s.control, gone c = false) : leaveControl gone s = s := by
  have hall : s.control.filter (fun c => !gone c) = s.control :=
    List.filter_eq_self.2 fun c hc => by rw [h c hc]; rfl
  exact if_pos (congrArg List.length hall)

theorem leaveControl_some {gone : ControlEntry → Bool} (h : ∃ c ∈ s.control, gone c = true) :
    leaveControl gone s = if s.control.length < 16
      then { s with control := s.control.filter (fun c => !gone c), evalDue := true }
      else offerAll { s with control := s.control.filter (fun c => !gone c), evalDue := true } := by
  obtain ⟨c, hc, hg⟩ := h
  have hshorter : (s.control.filter fun c => !gone c).length < s.control.length :=
    List.length_filter_lt_length_iff_exists.2 ⟨c, hc, by simpa using hg⟩
  refine (if_neg (Nat.ne_of_lt hshorter)).trans ?_
  by_cases hlen : s.control.length < 16
  · rw [if_pos hlen]
    exact if_neg (Nat.not_le.2 hlen)
  · rw [if_neg hlen]
    exact if_pos (Nat.not_lt.1 hlen)

/-! ### What the list takes -/

theorem controlTakes_iff {c : ControlEntry} :
    s.controlTakes c = true ↔ s.control.length < 16 ∧ ∀ x ∈ s.control, x.clashes c = false := by
  unfold State.controlTakes
  rw [Bool.and_eq_true, decide_eq_true_eq, Bool.not_eq_true', List.any_eq_false]
  simp

theorem clashes_part {i : EntryIx} {tag : Byte} {k : Fin 4} (x : ControlEntry) :
    x.clashes (.gridPart i tag k) = true ↔ x = .gridPart i tag k := by
  cases x <;> simp [ControlEntry.clashes, and_assoc]

theorem controlTakes_note_iff : s.controlTakes .note = true ↔ s.control.length < 16 ∧ .note ∉ s.control := by
  rw [controlTakes_iff]
  refine and_congr_right fun _ => ⟨fun h hc => ?_, fun h x hx => Bool.eq_false_iff.2 fun hc => h ((clashes_note x).1 hc ▸ hx)⟩
  exact Bool.false_ne_true ((h _ hc).symm.trans ((clashes_note _).2 rfl))

theorem controlTakes_part_iff {i : EntryIx} {tag : Byte} {k : Fin 4} :
    s.controlTakes (.gridPart i tag k) = true ↔ s.control.length < 16 ∧ .gridPart i tag k ∉ s.control := by
  rw [controlTakes_iff]
  refine and_congr_right fun _ => ⟨fun h hc => ?_, fun h x hx => Bool.eq_false_iff.2 fun hc => h ((clashes_part x).1 hc ▸ hx)⟩
  exact Bool.false_ne_true ((h _ hc).symm.trans ((clashes_part _).2 rfl))

theorem controlTakes_sound_iff {p : Pair} :
    s.controlTakes (.sound p) = true ↔ s.control.length < 16 ∧ ∀ q, .sound q ∉ s.control := by
  rw [controlTakes_iff]
  refine and_congr_right fun _ => ⟨fun h q hq => Bool.false_ne_true (h _ hq).symm, fun h x hx => ?_⟩
  rw [clashes_sound]
  cases x with
  | sound q => exact absurd hx (h q)
  | note => rfl
  | gridPart => rfl

/-! ### The lowest unplaced part offered -/

theorem lowestUnplaced_none {g : GridRecord} (h : ∀ p ∈ g.parts, p.place ≠ .unplaced) : g.lowestUnplaced = none :=
  List.find?_eq_none.2 fun p hp hc => h p hp (beq_iff_eq.1 hc)

theorem lowestUnplaced_some {g : GridRecord} {before after : List PartRecord} {p : PartRecord}
    (hparts : g.parts = before ++ p :: after) (hbefore : ∀ q ∈ before, q.place ≠ .unplaced) (hp : p.place = .unplaced) :
    g.lowestUnplaced = some p := by
  have hnone : before.find? (fun q => q.place == .unplaced) = none :=
    List.find?_eq_none.2 fun q hq hc => hbefore q hq (beq_iff_eq.1 hc)
  unfold GridRecord.lowestUnplaced
  rw [hparts, List.find?_append, hnone, Option.none_or]
  exact List.find?_cons_of_pos (beq_iff_eq.2 hp)

theorem offerLowest_idle {i : EntryIx}
    (h : (s.entry i).bind (·.store.lowestUnplaced) = none ∨ s.roleGrid i .rxPending = none) : offerLowest i s = s := by
  unfold offerLowest
  split
  next p g hp hg => rcases h with h | h <;> simp_all
  next => rfl

theorem offerLowest_offers {i : EntryIx} {e : Entry} {g : Grid} {p : PartRecord} (he : s.entry i = some e)
    (hg : s.roleGrid i .rxPending = some g) (hp : e.store.lowestUnplaced = some p) :
    offerLowest i s = if s.controlTakes (.gridPart i g.tag p.index) then { s with
        control := s.control ++ [.gridPart i g.tag p.index], evalDue := true
        table := s.table.set i (some { e with store := e.store.modPart p.index fun q => { q with place := .onList } }) }
      else s := by
  unfold offerLowest
  rw [he, Option.bind_some, hp, hg]
  dsimp only
  unfold modEntry
  rw [he]
  rfl

end

/-- Settles O29: the end of each kind of frame sent by contention, and the control list: what leaves, what is offered, what is taken. -/
theorem sentFrameEnds : Obligations.SentFrameEnds := by
  refine ⟨?_, ?_, fun s => rfl, ?_, fun s => ⟨controlTakes_note_iff,
    fun p => controlTakes_sound_iff, fun i tag k => controlTakes_part_iff, fun x => rfl⟩⟩
  · intro s f hl hs hf ht after
    refine ⟨fun hk => ?_, fun hk hm => ?_, ?_⟩
    · rw [exec_sentFrameEnd hl hf (by rcases hk with hk | hk <;> rw [hk] <;> decide) ht]
      exact next_at_rest hs (frameSent_answered hk) rfl rfl rfl rfl
    · rw [exec_sentFrameEnd hl hf (by rw [hk]; decide) ht, frameSent_note hk]
      exact congrArg (fun t => Host.Outcome.next (settle s.txCharge t)) (enterQuietGap_leaveControl _ _ ⟨.note, hm, rfl⟩)
    · intro p hk hp hm x
      obtain ⟨q, hq⟩ := hm
      rw [exec_sentFrameEnd hl hf (by rw [hk]; decide) ht, frameSent_sound hk, hp, soundSent_eq]
      exact congrArg (fun t => Host.Outcome.next (settle s.txCharge t)) (enterQuietGap_leaveControl _ _ ⟨.sound q, hq, rfl⟩)
  · intro s gone left
    exact ⟨leaveControl_none, leaveControl_some⟩
  · intro s i
    refine ⟨fun h => offerLowest_idle (h.imp_left fun h => by rw [h]; rfl), fun e g he hg => ⟨fun h => ?_, ?_⟩⟩
    · exact offerLowest_idle (Or.inl (by rw [he]; exact lowestUnplaced_none h))
    · intro before p after hparts hbefore hp offered
      have hoffers := offerLowest_offers he hg (lowestUnplaced_some hparts hbefore hp)
      refine ⟨fun hlen hm => hoffers.trans (if_pos (controlTakes_part_iff.2 ⟨hlen, hm⟩)), fun h => hoffers.trans (if_neg fun hc => ?_)⟩
      obtain ⟨hlen, hm⟩ := controlTakes_part_iff.1 hc
      exact h.elim (fun h => absurd hlen (Nat.not_lt.2 h)) hm

end Sys2Proof.Machine
end

/-! ## Proofs: the completion of a build

R92 to R95 and R103 to R105: no grid, a grid held back, an issue dropped, an issue begun; and the remembered trigger taken up (R78). -/

section

namespace Sys2Proof.Machine

/-! ### The build record at its completion -/

/-- R92: the build record once its result has been dealt with. -/
def BuildRecord.completed (r : BuildRecord) (last : LastOutcome) (deadline : LineTime) : BuildRecord :=
  { r with state := .idle, last := last, deadline := some deadline }

/-- R78, R83, R96: the record `done` of entry `e` once its remembered trigger has been taken up. -/
def State.takenUp (s : State) (e : Entry) (done : BuildRecord) : BuildRecord :=
  match e.build.remembered with
  | none => done
  | some r =>
    let boost := if r.error = false ∧ badCount e.rx.window ≤ 1 then e.build.boost - 2 else e.build.boost
    if e.state = .heard ∨ e.state = .linked then
      { done with
        state := .building s.lineTime r
          { cells := e.snr, margin := s.settings.margin, boost := boost, localBands := s.settings.bands,
            peerBands := e.peerBands, pairs := s.settings.pairs }
        boost := boost, remembered := none, retrySpent := r == ⟨false, false, false, false, false, true⟩ }
    else { done with remembered := none }

/-- R78: what is counted as the remembered trigger of entry `e` is taken up. -/
def Entry.takeUpCounted (e : Entry) (u : State) : State :=
  match e.build.remembered with
  | none => u
  | some r =>
    if e.state = .heard ∨ e.state = .linked then
      if r.error || r.unknownGrid || r.capConflict then bump .buildsForced (bump .buildsStarted u) else bump .buildsStarted u
    else bump .ignoredTriggers u

/-- R92: the build record of entry `e` after a completion with a last outcome. -/
def State.completed (s : State) (e : Entry) (last : LastOutcome) : BuildRecord :=
  s.takenUp e (e.build.completed last (s.lineTime.plus (s.settings.rebuildS * 1000000)))

section
variable {s u v : State} {i : EntryIx} {e : Entry} {last : LastOutcome}

theorem takeUpCounted_frame (e : Entry) (u : State) : e.takeUpCounted u = { u with counters := (e.takeUpCounted u).counters } := by
  unfold Entry.takeUpCounted
  cases e.build.remembered with
  | none => rfl
  | some r =>
    dsimp only
    split
    · split <;> rfl
    · rfl

theorem cnt_bump_congr (d : Counter) {c : Counter} (h : u.count c = v.count c) : (bump d u).count c = (bump d v).count c := by
  by_cases hd : d.index = c.index
  · have hself : ∀ w : State, (bump d w).count c = satInc (w.count c) := fun w => by simp [State.count, bump, hd]
    rw [hself, hself, h]
  · rw [cnt_bump hd, cnt_bump hd, h]

theorem cnt_takeUpCounted {c : Counter} (e : Entry) (h : u.count c = v.count c) :
    (e.takeUpCounted u).count c = (e.takeUpCounted v).count c := by
  unfold Entry.takeUpCounted
  cases e.build.remembered with
  | none => exact h
  | some r =>
    dsimp only
    split
    · split
      · exact cnt_bump_congr _ (cnt_bump_congr _ h)
      · exact cnt_bump_congr _ h
    · exact cnt_bump_congr _ h

theorem cnt_takeUpCounted_other {c : Counter} (e : Entry) (h1 : Counter.buildsStarted.index ≠ c.index)
    (h2 : Counter.buildsForced.index ≠ c.index) (h3 : Counter.ignoredTriggers.index ≠ c.index) :
    (e.takeUpCounted u).count c = u.count c := by
  unfold Entry.takeUpCounted
  cases e.build.remembered with
  | none => rfl
  | some r =>
    dsimp only
    split
    · split
      · rw [cnt_bump h2, cnt_bump h1]
      · exact cnt_bump h1 _
    · exact cnt_bump h3 _

theorem takeRemembered_rebuilt {done : BuildRecord} (hr : done.remembered = e.build.remembered)
    (hb : done.boost = e.build.boost)
    (hy : e.build.remembered ≠ none → ∀ (p : Pair) (m : MainsSlot), Cell.old u.lineTime e.snr[p][m] = false) :
    takeRemembered i (u.rebuilt i e done) = e.takeUpCounted (u.rebuilt i e (u.takenUp e done)) := by
  rw [takeRemembered_eq (rebuilt_entry done) (by rw [hr]; exact hy)]
  dsimp only
  rw [hr, hb]
  unfold Entry.takeUpCounted State.takenUp
  cases e.build.remembered with
  | none => rfl
  | some r =>
    dsimp only
    by_cases hp : e.state = .heard ∨ e.state = .linked
    · rw [if_pos ((present_iff _).2 hp), if_pos hp, if_pos hp, rebuilt_rebuilt]
      rfl
    · rw [if_neg fun h => hp ((present_iff _).1 h), if_neg hp, if_neg hp, rebuilt_rebuilt, ← hb]
      rfl

theorem modBuild_rebuilt (f : BuildRecord → BuildRecord) (b : BuildRecord) :
    modBuild i f (u.rebuilt i e b) = u.rebuilt i e (f b) := by
  rw [modBuild_eq f (rebuilt_entry b)]
  exact rebuilt_rebuilt _ _

/-- R92: a completion whose result leaves the part as `v`, with entry `x` the entry `e` but for its grid record. -/
theorem completeBuild_eq {start : LineTime} {c : Causes} {x : Snapshot} {st : GridRecord} (he : s.entry i = some e)
    (hb : e.build.state = .building start c x)
    (hdeal : dealWithResult i c x.build s = modBuild i (fun r => { r with last := last }) v)
    (hv : v.entry i = some { e with store := st }) (htime : v.lineTime = s.lineTime) (hset : v.settings = s.settings)
    (hy : e.build.remembered ≠ none → ∀ (p : Pair) (m : MainsSlot), Cell.old s.lineTime e.snr[p][m] = false) :
    completeBuild i s = e.takeUpCounted (v.rebuilt i { e with store := st } (s.completed e last)) := by
  have hdone : completeBuild i s = takeRemembered i (v.rebuilt i { e with store := st }
      (e.build.completed last (s.lineTime.plus (s.settings.rebuildS * 1000000)))) := by
    unfold completeBuild
    rw [he, Option.map_some, hb]
    dsimp only
    rw [hdeal, modBuild_eq _ hv, modBuild_rebuilt]
    show takeRemembered i (v.rebuilt i _ { e.build with state := .idle, last := last, deadline := some (v.lineTime.plus (v.settings.rebuildS * 1000000)) }) = _
    rw [htime, hset]
    rfl
  rw [hdone, takeRemembered_rebuilt (u := v) (e := { e with store := st })
    (done := e.build.completed last (s.lineTime.plus (s.settings.rebuildS * 1000000))) rfl rfl (by rw [htime]; exact hy)]
  unfold State.completed State.takenUp
  rw [htime, hset]
  rfl

end

/-! ### The issue decision (R93) -/

section
variable {s u v w : State} {i : EntryIx} {e x : Entry} {b : BuiltGrid} {c : Causes}

/-- R93: whether a built grid differs from its reference, or is forced. -/
def BuiltGrid.differs (b : BuiltGrid) (c : Causes) (g : Grid) : Prop :=
  b.pair ≠ g.pair ∨ g.rate ≤ (max b.rate g.rate - min b.rate g.rate) * 16 ∨ c.error ∨ c.unknownGrid ∨ c.capConflict

theorem issues_iff {reference : Option Grid} :
    issues reference b c.forced = true ↔ ∀ g, reference = some g → b.differs c g := by
  unfold issues BuiltGrid.differs Causes.forced
  cases reference <;> simp [or_assoc]

theorem dealWithResult_issued (h : ∀ g, s.reference i = some g → b.differs c g) : dealWithResult i c (some b) s =
    modBuild i (fun r => { r with last := .issued b.pair b.columns.length b.rate }) (issueGrid i b (bump .gridsIssued s)) :=
  if_pos (issues_iff.2 h)

theorem dealWithResult_heldBack {g : Grid} (hg : s.reference i = some g) (h : ¬b.differs c g) : dealWithResult i c (some b) s =
    modBuild i (fun r => { r with last := .heldBack b.pair b.columns.length b.rate }) (bump .gridsHeldBack s) :=
  if_neg fun hi => h (issues_iff.1 hi g hg)

theorem exec_buildCompletion {start : LineTime} {y : Snapshot} (hl : s.Live) (he : s.entry i = some e)
    (hb : e.build.state = .building start c y) (ht : s.lineTime = start.plus 1000) :
    exec (.buildCompletion i) s = .next (settle s.txCharge (completeBuild i s)) :=
  live_due (b := fun s => s.completionDue i) hl (State.completionDue_iff.2 ⟨e, start, c, y, he, hb, ht⟩)

/-- R92: a completion that issues no grid leaves the record and its counters. -/
theorem exec_completion_unissued {start : LineTime} {y : Snapshot} {last : LastOutcome} (hl : s.Live) (hr : s.Rested)
    (he : s.entry i = some e) (hb : e.build.state = .building start c y) (ht : s.lineTime = start.plus 1000)
    (hy : e.build.remembered ≠ none → ∀ (p : Pair) (m : MainsSlot), Cell.old s.lineTime e.snr[p][m] = false)
    (hdeal : dealWithResult i c y.build s = modBuild i (fun r => { r with last := last }) v)
    (hv : v = { s with counters := v.counters, attention := v.attention }) :
    exec (.buildCompletion i) s = .next (e.takeUpCounted (v.rebuilt i e (s.completed e last))) := by
  have hentry : v.entry i = some e := by rw [hv]; exact he
  have hdone := completeBuild_eq (st := e.store) he hb hdeal hentry (by rw [hv]) (by rw [hv]) hy
  have hframe := takeUpCounted_frame e (v.rebuilt i e (s.completed e last))
  have hexec := exec_buildCompletion hl he hb ht
  rw [hdone] at hexec
  refine hexec.trans (nextInj (settle_one (i := i) (e := e) { e with build := s.completed e last } hr he rfl ?_ ?_ ?_ ?_)) <;>
    (refine (congrArg _ hframe).trans ?_; rw [hv]; rfl)

/-! ### The issue of a grid (R104, R105) -/

theorem leaveControl_entry (g : ControlEntry → Bool) (he : u.entry i = some e) (hp : e.store.parts = []) :
    (leaveControl g u).entry i = some e := by
  refine (leaveControl_placed g u i fun x hx => ?_).trans he
  rw [he] at hx
  rw [← Option.some.inj hx]
  unfold GridRecord.lowestUnplaced
  rw [hp]
  rfl

/-- R104: the pool once the pending grid of an entry has been freed. -/
def State.poolFreed (s : State) (i : EntryIx) : Vector (Option HeldGrid) 48 :=
  match s.roleSlot i .rxPending with
  | some y => s.pool.set y none
  | none => s.pool

/-- R104: the part once the pending grid of entry `i`, which is `e`, has gone with its parts. -/
def State.pendingDropped (s : State) (i : EntryIx) (e : Entry) : State :=
  match s.roleSlot i .rxPending with
  | some y => leaveControl (fun c => c.partOf i)
      { s with pool := s.pool.set y none, table := s.table.set i (some { e with store := { e.store with issue := .noIssue, parts := [] } }) }
  | none => s

theorem dropPending_eq (he : s.entry i = some e) : dropPending i s = s.pendingDropped i e := by
  unfold dropPending State.pendingDropped
  cases s.roleSlot i .rxPending with
  | none => rfl
  | some y => exact endIssue_left (s := setSlot y none s) .noIssue he

theorem pendingDropped_pool : (s.pendingDropped i e).pool = s.poolFreed i := by
  unfold State.pendingDropped State.poolFreed
  cases s.roleSlot i .rxPending with
  | none => rfl
  | some y => exact leaveControl_pool _ _

theorem pendingDropped_frame : s.pendingDropped i e = { s with
    control := (s.pendingDropped i e).control, table := (s.pendingDropped i e).table, pool := (s.pendingDropped i e).pool,
    evalDue := (s.pendingDropped i e).evalDue } := by
  unfold State.pendingDropped
  cases s.roleSlot i .rxPending with
  | none => rfl
  | some y =>
    dsimp only
    rw [leaveControl_frame]

theorem pendingDropped_entry (he : s.entry i = some e) : ∃ st, (s.pendingDropped i e).entry i = some { e with store := st } := by
  unfold State.pendingDropped
  cases s.roleSlot i .rxPending with
  | none => exact ⟨e.store, he⟩
  | some y =>
    dsimp only
    exact ⟨{ e.store with issue := .noIssue, parts := [] }, leaveControl_entry _ (entry_setEntry_self i _ { s with pool := s.pool.set y none }) rfl⟩

/-- R104: the part with a new issue begun: its grid in slot `k`, its parts unplaced. -/
def State.issueBegun (s : State) (i : EntryIx) (e : Entry) (b : BuiltGrid) (k : SlotIx) : State :=
  let tag := chooseTag e.store.nextTag (s.rxTags i)
  let grid : Grid :=
    { tag := tag, pair := b.pair, map := b.map, columns := b.columns.map some, rate := b.rate, issueTime := s.lineTime }
  setEntry i (some { e with store := { nextTag := tagAfter tag, issue := .sending, parts := newParts b.columns.length } })
    (setSlot k (some { entry := i, role := .rxPending, grid := grid }) (s.pendingDropped i e))

theorem issueGrid_begun {k : SlotIx} (he : s.entry i = some e) (hk : (s.pendingDropped i e).freeSlot = some k) :
    issueGrid i b s = offerIssue i (s.issueBegun i e b k) := by
  obtain ⟨st, hst⟩ := pendingDropped_entry he
  have htime : (s.pendingDropped i e).lineTime = s.lineTime := by rw [pendingDropped_frame]
  unfold issueGrid
  rw [he]
  dsimp only
  rw [dropPending_eq he, hk]
  dsimp only
  unfold modEntry
  rw [show (setSlot k _ (s.pendingDropped i e)).entry i = (s.pendingDropped i e).entry i from rfl, hst, htime]
  rfl

theorem issueGrid_exhausted (he : s.entry i = some e) (hn : s.roleSlot i .rxPending = none) (hfree : s.freeSlot = none) :
    issueGrid i b s = raisePoolExhausted (bump .droppedIssues s) := by
  have hdrop : dropPending i s = s := by
    unfold dropPending
    rw [hn]
  unfold issueGrid
  rw [he]
  dsimp only
  rw [hdrop, hfree]

theorem freeSlot_none (h : ∀ j : SlotIx, s.pool[j] ≠ none) : s.freeSlot = none :=
  List.find?_eq_none.2 fun j _ hj => h j (Option.isNone_iff_eq_none.1 hj)

theorem freeSlot_taken (h : s.freeSlot = none) (j : SlotIx) : s.pool[j] ≠ none := fun hj =>
  List.find?_eq_none.1 h j (List.mem_finRange j) (Option.isNone_iff_eq_none.2 hj)

theorem poolFreed_of_none (h : s.roleSlot i .rxPending = none) : s.poolFreed i = s.pool := by
  unfold State.poolFreed
  rw [h]

theorem roleGrid_of_none {r : Role} (h : s.roleSlot i r = none) : s.roleGrid i r = none := by
  unfold State.roleGrid
  rw [h]

theorem reference_none (hp : s.roleSlot i .rxPending = none) (hc : s.roleSlot i .rxCurrent = none) (g : Grid) :
    s.reference i ≠ some g := by
  unfold State.reference
  rw [roleGrid_of_none hp, roleGrid_of_none hc]
  exact nofun

theorem freeSlot_of_lowest {k : SlotIx} (hk : s.pool[k] = none) (hlow : ∀ j : SlotIx, j < k → s.pool[j] ≠ none) :
    s.freeSlot = some k := by
  unfold State.freeSlot
  rw [List.find?_eq_some_iff_getElem]
  refine ⟨Option.isNone_iff_eq_none.2 hk, k.val, by simp, by simp, fun j hj => ?_⟩
  have hne := hlow ⟨j, by omega⟩ (Fin.lt_def.2 hj)
  simpa [Option.isSome_iff_ne_none] using hne

theorem freeSlot_lowest {k : SlotIx} (h : s.freeSlot = some k) : s.pool[k] = none ∧ ∀ j : SlotIx, j < k → s.pool[j] ≠ none := by
  unfold State.freeSlot at h
  rw [List.find?_eq_some_iff_getElem] at h
  obtain ⟨hk, n, hn, hget, hlow⟩ := h
  have hnk : k = ⟨n, by simpa using hn⟩ := by rw [← hget]; simp
  refine ⟨Option.isNone_iff_eq_none.1 hk, fun j hj hnone => ?_⟩
  subst hnk
  have := hlow j.val hj
  simp [hnone] at this

/-! ### The parts offered (R105) -/

/-- R105: what an offering gives is formed from the list, the table and the pool. -/
theorem offerIssue_congr (hc : u.control = v.control) (ht : u.table = v.table) (hp : u.pool = v.pool) :
    (offerIssue i u).control = (offerIssue i v).control ∧ (offerIssue i u).table = (offerIssue i v).table := by
  have hfold : ∀ (l : List Nat) (u v : State), u.control = v.control → u.table = v.table → u.pool = v.pool →
      (l.foldl (fun s _ => offerLowest i s) u).control = (l.foldl (fun s _ => offerLowest i s) v).control ∧
      (l.foldl (fun s _ => offerLowest i s) u).table = (l.foldl (fun s _ => offerLowest i s) v).table := by
    intro l
    induction l with
    | nil => exact fun u v hc ht _ => ⟨hc, ht⟩
    | cons n l ih =>
      intro u v hc ht hp
      obtain ⟨hc', ht'⟩ := offerLowest_congr hc ht hp i
      exact ih _ _ hc' ht' (by rw [offerLowest_pool, offerLowest_pool, hp])
  exact hfold _ _ _ hc ht hp

theorem offerIssue_frame (i : EntryIx) (u : State) : offerIssue i u = { u with
    control := (offerIssue i u).control, table := (offerIssue i u).table, evalDue := (offerIssue i u).evalDue } := by
  unfold offerIssue
  refine List.foldlRecOn (List.range 4) _ (motive := fun v : State => v = { u with
    control := v.control, table := v.table, evalDue := v.evalDue }) rfl fun v hv n _ => ?_
  rw [offerLowest_frame i v, hv]

theorem offerLowest_ne {j : EntryIx} (hj : j ≠ i) (u : State) : (offerLowest i u).entry j = u.entry j := by
  unfold offerLowest
  split
  · dsimp only
    split
    · unfold modEntry
      split
      · rfl
      · exact entry_setEntry_ne hj _ _
    · rfl
  · rfl

theorem offerIssue_ne {j : EntryIx} (hj : j ≠ i) : (offerIssue i u).entry j = u.entry j := by
  unfold offerIssue
  exact List.foldlRecOn (List.range 4) _ (motive := fun v : State => v.entry j = u.entry j) rfl fun v hv n _ =>
    (offerLowest_ne hj v).trans hv

/-- R105: the build record of an entry plays no part in the offering of its parts. -/
theorem offerLowest_modBuild (f : BuildRecord → BuildRecord) (u : State) :
    offerLowest i (modBuild i f u) = modBuild i f (offerLowest i u) := by
  cases he : u.entry i with
  | none =>
    have hidle : offerLowest i u = u := offerLowest_idle (Or.inl (by rw [he]; rfl))
    have hmod : modBuild i f u = u := by
      unfold modBuild modEntry
      rw [he]
    rw [hmod, hidle, hmod]
  | some x =>
    rw [modBuild_eq f he]
    have hentry := rebuilt_entry (s := u) (i := i) (e := x) (f x.build)
    cases hp : x.store.lowestUnplaced with
    | none =>
      rw [offerLowest_idle (Or.inl (by rw [hentry]; exact hp)), offerLowest_idle (Or.inl (by rw [he]; exact hp)), modBuild_eq f he]
    | some p =>
      cases hg : u.roleGrid i .rxPending with
      | none =>
        rw [offerLowest_idle (Or.inr (show (u.rebuilt i x (f x.build)).roleGrid i .rxPending = none from hg)),
          offerLowest_idle (Or.inr hg), modBuild_eq f he]
      | some g =>
        rw [offerLowest_offers hentry (show (u.rebuilt i x (f x.build)).roleGrid i .rxPending = some g from hg) hp,
          offerLowest_offers he hg hp]
        have htakes : (u.rebuilt i x (f x.build)).controlTakes (.gridPart i g.tag p.index) =
          u.controlTakes (.gridPart i g.tag p.index) := rfl
        rw [htakes]
        by_cases ht : u.controlTakes (.gridPart i g.tag p.index) = true
        · refine (if_pos ht).trans (Eq.trans ?_ (congrArg (modBuild i f) (if_pos ht)).symm)
          refine Eq.trans ?_ (modBuild_eq (e := { x with store := x.store.modPart p.index fun q => { q with place := .onList } }) f
            (entry_setEntry_self i _ { u with control := u.control ++ [.gridPart i g.tag p.index], evalDue := true })).symm
          unfold State.rebuilt setEntry
          simp only [Vector.set_set]
        · rw [if_neg ht, if_neg ht, modBuild_eq f he]

theorem offerIssue_modBuild (f : BuildRecord → BuildRecord) : offerIssue i (modBuild i f u) = modBuild i f (offerIssue i u) :=
  List.foldl_hom (modBuild i f) fun v _ => offerLowest_modBuild f v

/-! ### A completion that issues a grid -/

theorem issueGrid_frame {k : SlotIx} (he : s.entry i = some e) (hk : (s.pendingDropped i e).freeSlot = some k) :
    issueGrid i b s = { s with
      control := (issueGrid i b s).control, table := (issueGrid i b s).table, pool := (issueGrid i b s).pool,
      evalDue := (issueGrid i b s).evalDue } := by
  rw [issueGrid_begun he hk, offerIssue_frame]
  unfold State.issueBegun
  rw [pendingDropped_frame]
  rfl

theorem settled_issue {n : Nat} (h : u = { s with
      table := u.table, pool := u.pool, control := u.control, counters := u.counters, evalDue := u.evalDue })
    (hs : s.evalDue = false) : settle n u = { s with
      table := (settle n u).table, pool := (settle n u).pool, control := (settle n u).control }.endedAs (settle n u) := by
  have hended : Ended u (settle n u) := (Ended.refl u).settle n
  have hdue := settle_eval n u
  have htable := settle_table n u
  have hpool := settle_pool n u
  have hcontrol := settle_control n u
  generalize settle n u = t at *
  unfold Ended at hended
  rw [htable, hpool, hcontrol]
  refine hended.trans ?_
  rw [h, hdue, ← hs]
  rfl

theorem takeUpCounted_table (e : Entry) : (e.takeUpCounted u).table = u.table := by rw [takeUpCounted_frame]

theorem takeUpCounted_entry (e : Entry) (j : EntryIx) : (e.takeUpCounted u).entry j = u.entry j :=
  congrArg (fun t : Vector (Option Entry) 24 => t[j]) (takeUpCounted_table e)

theorem takeUpCounted_pool (e : Entry) : (e.takeUpCounted u).pool = u.pool := by rw [takeUpCounted_frame]

theorem takeUpCounted_control (e : Entry) : (e.takeUpCounted u).control = u.control := by rw [takeUpCounted_frame]

theorem pendingDropped_congr (hc : u.control = v.control) (ht : u.table = v.table) (hp : u.pool = v.pool) :
    (u.pendingDropped i e).control = (v.pendingDropped i e).control ∧ (u.pendingDropped i e).table = (v.pendingDropped i e).table := by
  have hrole : u.roleSlot i .rxPending = v.roleSlot i .rxPending := roleSlot_congr hp i .rxPending
  unfold State.pendingDropped
  rw [hrole]
  cases v.roleSlot i .rxPending with
  | none => exact ⟨hc, ht⟩
  | some y =>
    refine leaveControl_congr ?_ ?_ ?_ _
    · exact hc
    · dsimp only
      rw [ht]
    · dsimp only
      rw [hp]

/-- R105: the parts of an issue are offered as with its entry's build record written before. -/
theorem issueGrid_offered {k : SlotIx} {r : BuildRecord} {st : GridRecord} {pool : Vector (Option HeldGrid) 48} (he : s.entry i = some e)
    (hk : (s.pendingDropped i e).freeSlot = some k) (hst : (issueGrid i b s).entry i = some { e with store := st })
    (hpool : pool = (issueGrid i b s).pool) :
    let written := { s.pendingDropped i e with
      pool := pool
      table := (s.pendingDropped i e).table.set i (some { e with
        build := r
        store := { nextTag := tagAfter (chooseTag e.store.nextTag (s.rxTags i)), issue := .sending, parts := newParts b.columns.length } }) }
    (issueGrid i b s).control = (offerIssue i written).control ∧
    ((issueGrid i b s).rebuilt i { e with store := st } r).table = (offerIssue i written).table := by
  intro written
  have hbegun := issueGrid_begun (b := b) he hk
  have hmod : modBuild i (fun _ => r) (s.issueBegun i e b k) = (s.issueBegun i e b k).rebuilt i { e with
      store := { nextTag := tagAfter (chooseTag e.store.nextTag (s.rxTags i)), issue := .sending, parts := newParts b.columns.length } } r :=
    modBuild_eq _ (entry_setEntry_self i _ _)
  have hfinal : modBuild i (fun _ => r) (issueGrid i b s) = (issueGrid i b s).rebuilt i { e with store := st } r := modBuild_eq _ hst
  have hpool' : written.pool = (modBuild i (fun _ => r) (s.issueBegun i e b k)).pool := by
    rw [hmod]
    refine hpool.trans ?_
    rw [hbegun, offerIssue_frame]
    rfl
  have htable : written.table = (modBuild i (fun _ => r) (s.issueBegun i e b k)).table := by
    rw [hmod]
    unfold State.issueBegun setSlot setEntry State.rebuilt
    simp only [Vector.set_set, written]
  have hcontrol : written.control = (modBuild i (fun _ => r) (s.issueBegun i e b k)).control := by
    rw [hmod]
    rfl
  obtain ⟨hc, ht⟩ := offerIssue_congr (i := i) hcontrol htable hpool'
  rw [hc, ht, offerIssue_modBuild, ← hbegun, hfinal]
  exact ⟨rfl, rfl⟩

end

section
variable {s : State} {i : EntryIx} {e : Entry} {start : LineTime} {c : Causes} {y : Snapshot} {b : BuiltGrid} {k : SlotIx}

/-- R92, R93: a completion that issues the grid built, in the lowest slot FREE once the pending grid has gone. -/
theorem exec_completion_issued (hl : s.Live) (hr : s.Rested) (he : s.entry i = some e) (hb : e.build.state = .building start c y)
    (ht : s.lineTime = start.plus 1000)
    (hy : e.build.remembered ≠ none → ∀ (p : Pair) (m : MainsSlot), Cell.old s.lineTime e.snr[p][m] = false)
    (hbuild : y.build = some b) (hdiff : ∀ g, s.reference i = some g → b.differs c g)
    (hk : (s.poolFreed i)[k] = none) (hlow : ∀ j : SlotIx, j < k → (s.poolFreed i)[j] ≠ none) :
    let tag := chooseTag e.store.nextTag
      (((s.roleGrid i .rxCurrent).map (·.tag)).toList ++ ((s.roleGrid i .rxPending).map (·.tag)).toList)
    ∃ t e', exec (.buildCompletion i) s = .next t ∧ t.entry i = some e' ∧
      e' = { e with
        build := s.completed e (.issued b.pair b.columns.length b.rate)
        store := { nextTag := tagAfter tag, issue := .sending, parts := e'.store.parts } } ∧
      t.pool = (s.poolFreed i).set k (some { entry := i, role := .rxPending, grid :=
        { tag := tag, pair := b.pair, map := b.map, columns := b.columns.map some, rate := b.rate, issueTime := s.lineTime } }) ∧
      t.count .gridsIssued = satInc (s.count .gridsIssued) ∧
      t.count .buildsStarted = (e.takeUpCounted s).count .buildsStarted ∧
      t.count .buildsForced = (e.takeUpCounted s).count .buildsForced ∧
      t.count .ignoredTriggers = (e.takeUpCounted s).count .ignoredTriggers ∧
      (let offered := offerIssue i { s.pendingDropped i e with
         pool := t.pool
         table := (s.pendingDropped i e).table.set i (some { e' with store := { e'.store with parts := newParts b.columns.length } }) }
       t.control = offered.control ∧ ∀ j, t.entry j = offered.entry j) ∧
      (PoolLawful s.pool → s.control.length ≤ 12 → b.columns.length ≤ 4 →
        (s.roleSlot i .rxPending = none → ∀ z ∈ s.control, z.partOf i = false) →
        t.control = s.control.filter (fun z => !z.partOf i) ++
          (List.range b.columns.length).map (fun n => .gridPart i tag (Fin.ofNat 4 n)) ∧
        e'.store.parts = (List.range b.columns.length).map (fun n =>
          { index := Fin.ofNat 4 n, place := .onList, inFlight := false, attempts := 0 }) ∧
        ∀ j, j ≠ i → t.entry j = s.entry j) ∧
      t = { s with table := t.table, pool := t.pool, control := t.control }.endedAs t := by
  intro tag
  have he' : (bump .gridsIssued s).entry i = some e := he
  obtain ⟨-, hpool, hcount, ⟨parts, hentry, hlawful⟩⟩ := issueGrid_spec (b := b) (k := k) he' hk hlow
  have hfree : ((bump .gridsIssued s).pendingDropped i e).freeSlot = some k :=
    freeSlot_of_lowest (by rw [pendingDropped_pool]; exact hk) (by rw [pendingDropped_pool]; exact hlow)
  have hframe := issueGrid_frame (b := b) he' hfree
  have hoffered := issueGrid_offered (b := b) (r := s.completed e (.issued b.pair b.columns.length b.rate)) he' hfree hentry rfl
  obtain ⟨hdropc, hdropt⟩ := pendingDropped_congr (u := bump .gridsIssued s) (v := s) (i := i) (e := e) rfl rfl rfl
  have hdeal : dealWithResult i c y.build s = modBuild i (fun r => { r with last := .issued b.pair b.columns.length b.rate })
      (issueGrid i b (bump .gridsIssued s)) := by
    rw [hbuild]
    exact dealWithResult_issued hdiff
  have hdone := completeBuild_eq he hb hdeal hentry (by rw [hframe]; rfl) (by rw [hframe]; rfl) hy
  have hexec := exec_buildCompletion hl he hb ht
  rw [hdone] at hexec
  generalize hv : issueGrid i b (bump .gridsIssued s) = v at *
  generalize hrec : s.completed e (.issued b.pair b.columns.length b.rate) = record at *
  generalize hx : ({ e with store := { nextTag := tagAfter (chooseTag e.store.nextTag ((bump .gridsIssued s).rxTags i)), issue := .sending, parts := parts } } : Entry) = x at *
  generalize hz : e.takeUpCounted (v.rebuilt i x record) = z at *
  have hzentry : z.entry i = some { x with build := record } := by
    rw [← hz, takeUpCounted_entry, rebuilt_entry]
  have hzother : ∀ j, j ≠ i → z.entry j = v.entry j := fun j hj => by
    rw [← hz, takeUpCounted_entry]
    exact entry_setEntry_ne hj _ _
  have hzpool : z.pool = v.pool := by rw [← hz, takeUpCounted_pool]; rfl
  have hzcontrol : z.control = v.control := by rw [← hz, takeUpCounted_control]; rfl
  have hztable : z.table = (v.rebuilt i x record).table := by rw [← hz, takeUpCounted_table]
  have hzcount : ∀ d : Counter, Counter.gridsIssued.index ≠ d.index → z.count d = (e.takeUpCounted s).count d := fun d hd => by
    rw [← hz]
    exact cnt_takeUpCounted e ((hcount d).trans (cnt_bump hd s))
  refine ⟨settle s.txCharge z, { x with build := record }, hexec, (settle_entry _ _ _).trans hzentry, ?_,
    (settle_pool _ _).trans (hzpool.trans hpool), ?_, ?_, ?_, ?_, ?_, ?_, ?_⟩
  · rw [← hrec, ← hx]
    rfl
  · refine (cnt_settle (by decide) (by decide) _ _).trans ?_
    rw [← hz]
    refine (cnt_takeUpCounted_other e (by decide) (by decide) (by decide)).trans ?_
    exact (hcount _).trans (cnt_self _ s)
  · exact (cnt_settle (by decide) (by decide) _ _).trans (hzcount _ (by decide))
  · exact (cnt_settle (by decide) (by decide) _ _).trans (hzcount _ (by decide))
  · exact (cnt_settle (by decide) (by decide) _ _).trans (hzcount _ (by decide))
  · have hwritten : (offerIssue i { s.pendingDropped i e with
          pool := (settle s.txCharge z).pool
          table := (s.pendingDropped i e).table.set i (some { x with
            build := record, store := { x.store with parts := newParts b.columns.length } }) }).control = v.control ∧
        (offerIssue i { s.pendingDropped i e with
          pool := (settle s.txCharge z).pool
          table := (s.pendingDropped i e).table.set i (some { x with
            build := record, store := { x.store with parts := newParts b.columns.length } }) }).table = z.table := by
      rw [hoffered.1, hztable, hoffered.2, settle_pool, hzpool]
      refine offerIssue_congr ?_ ?_ ?_
      · exact hdropc.symm
      · dsimp only
        rw [hdropt, ← hx]
      · rfl
    refine ⟨?_, fun j => ?_⟩
    · exact ((settle_control _ _).trans hzcontrol).trans hwritten.1.symm
    · exact (settle_entry _ _ _).trans (congrArg (fun t : Vector (Option Entry) 24 => t[j]) hwritten.2.symm)
  · intro hpl hlen hk4 hnone
    obtain ⟨hlist, hparts, hothers⟩ := hlawful hpl hlen hk4 hnone
    refine ⟨((settle_control _ _).trans hzcontrol).trans hlist, ?_, fun j hj => ?_⟩
    · rw [← hx]
      exact hparts
    · exact (settle_entry _ _ _).trans ((hzother j hj).trans (hothers j hj))
  · refine settled_issue ?_ hr.1
    rw [← hz, takeUpCounted_frame, hframe]
    rfl

/-- R92: a completion that drops the grid built: no slot is FREE. -/
theorem exec_completion_dropped (hl : s.Live) (hr : s.Rested) (he : s.entry i = some e) (hb : e.build.state = .building start c y)
    (ht : s.lineTime = start.plus 1000)
    (hy : e.build.remembered ≠ none → ∀ (p : Pair) (m : MainsSlot), Cell.old s.lineTime e.snr[p][m] = false)
    (hbuild : y.build = some b) (hdiff : ∀ g, s.reference i = some g → b.differs c g) (hfull : ∀ j : SlotIx, (s.poolFreed i)[j] ≠ none) :
    exec (.buildCompletion i) s = .next (e.takeUpCounted
      ((raisePoolExhausted (bump .droppedIssues (bump .gridsIssued s))).rebuilt i e
        (s.completed e (.issued b.pair b.columns.length b.rate)))) := by
  have hnone : s.roleSlot i .rxPending = none := by
    cases hp : s.roleSlot i .rxPending with
    | none => rfl
    | some z =>
      refine absurd ?_ (hfull z)
      unfold State.poolFreed
      rw [hp]
      exact pool_set_self _ _ _
  rw [poolFreed_of_none hnone] at hfull
  refine exec_completion_unissued hl hr he hb ht hy ?_ rfl
  rw [hbuild, dealWithResult_issued hdiff, issueGrid_exhausted (s := bump .gridsIssued s) he hnone (freeSlot_none (s := bump .gridsIssued s) hfull)]

end

/-- Settles O39: a completion by its result: no grid, held back, dropped, issued; without a remembered trigger, and with the remembered
trigger taken up. -/
theorem buildCompletes : Obligations.BuildCompletes := by
  refine ⟨?_, ?_⟩
  · intro s i e start c x hl hr he hb ht hrem done
    have hy : e.build.remembered ≠ none → ∀ (p : Pair) (m : MainsSlot), Cell.old s.lineTime e.snr[p][m] = false :=
      fun h => absurd hrem h
    have hcounted : ∀ u : State, e.takeUpCounted u = u := fun u => by
      unfold Entry.takeUpCounted
      rw [hrem]
    have hrecord : ∀ last, s.completed e last = (done last).build := fun last => by
      unfold State.completed State.takenUp
      rw [hrem]
      rfl
    refine ⟨fun hx => ?_, fun b g hx hg hp hrate hf => ?_, fun b k hx hpend hcur hk => ?_, fun b hx hpend hcur hk => ?_⟩
    · have hexec := exec_completion_unissued (last := .noGrid) (v := bump .noGrid s) hl hr he hb ht hy (by rw [hx]; rfl) rfl
      rw [hcounted, hrecord] at hexec
      exact hexec
    · have hnot : ¬b.differs c g := by
        obtain ⟨⟨herror, hunknown⟩, hconflict⟩ : (c.error = false ∧ c.unknownGrid = false) ∧ c.capConflict = false := by
          simpa [Causes.forced] using hf
        rintro (h | h | h | h | h)
        · exact h hp
        · exact absurd hrate (Nat.not_lt.2 h)
        · exact Bool.false_ne_true (herror.symm.trans h)
        · exact Bool.false_ne_true (hunknown.symm.trans h)
        · exact Bool.false_ne_true (hconflict.symm.trans h)
      have hexec := exec_completion_unissued (v := bump .gridsHeldBack s) hl hr he hb ht hy
        (by rw [hx]; exact dealWithResult_heldBack hg hnot) rfl
      rw [hcounted, hrecord] at hexec
      exact hexec
    · obtain ⟨hfree, hlow⟩ := freeSlot_lowest hk
      have hpool := poolFreed_of_none hpend
      have hexec := exec_completion_issued hl hr he hb ht hy hx (fun g hg => absurd hg (reference_none hpend hcur g)) (by rw [hpool]; exact hfree)
        (by rw [hpool]; exact hlow)
      rw [roleGrid_of_none hpend, roleGrid_of_none hcur, hpool] at hexec
      obtain ⟨t, e', hexec, hentry, he', htpool, hissued, -, -, -, ⟨-, hothers⟩, -, hends⟩ := hexec
      rw [hrecord] at he'
      refine ⟨t, hexec, htpool, ?_, ?_, hissued, fun j hj => ?_, hends⟩
      · rw [hentry, he']
        rfl
      · rw [hentry, he']
        rfl
      · rw [hothers j, offerIssue_ne hj]
        refine (entry_setEntry_ne hj _ { s.pendingDropped i e with pool := t.pool }).trans ?_
        unfold State.pendingDropped
        rw [hpend]
        rfl
    · have hexec := exec_completion_dropped hl hr he hb ht hy hx (fun g hg => absurd hg (reference_none hpend hcur g))
        (by rw [poolFreed_of_none hpend]; exact freeSlot_taken hk)
      rw [hcounted, hrecord] at hexec
      exact hexec
  · intro s i e start c x hl hr he hb ht hy present record counted written differs freed
    refine ⟨fun hx => ?_, fun b g hx hg hd => ?_, fun b hx hd hfull => ?_, fun b k hx hd hk hlow => ?_⟩
    · exact exec_completion_unissued (last := .noGrid) (v := bump .noGrid s) hl hr he hb ht hy (by rw [hx]; rfl) rfl
    · exact exec_completion_unissued (v := bump .gridsHeldBack s) hl hr he hb ht hy (by rw [hx]; exact dealWithResult_heldBack hg hd) rfl
    · exact exec_completion_dropped hl hr he hb ht hy hx hd hfull
    · exact exec_completion_issued hl hr he hb ht hy hx hd hk hlow

end Sys2Proof.Machine
end

/-! ## Proofs: grids built and frames loaded

R64, R85 to R91: the pair chosen, the levels, the merge of the slots and the rate; R30, R110, R118 to R121: the loading of frames. -/

section

namespace Sys2Proof.Machine

/-! ### The first of the best in a list -/

section
variable {α : Type} {better : α → α → Bool} {p : α}

/-- The better of the best so far and the next one; the earlier of two that are alike. -/
def keepBest (better : α → α → Bool) : Option α → α → Option α
  | none, x => some x
  | some b, x => if better x b then some x else some b

def firstBest (better : α → α → Bool) (l : List α) : Option α := l.foldl (keepBest better) none

theorem foldl_keepBest_mem (l : List α) (best : Option α) (h : l.foldl (keepBest better) best = some p) : best = some p ∨ p ∈ l := by
  induction l generalizing best with
  | nil => exact Or.inl h
  | cons x l ih =>
    rcases ih _ h with hx | hl
    · cases best with
      | none => exact Or.inr (by simp [Option.some.inj hx])
      | some b =>
        by_cases hb : better x b = true
        · exact Or.inr (by simp [Option.some.inj ((if_pos hb).symm.trans hx)])
        · exact Or.inl ((if_neg hb).symm.trans hx)
    · exact Or.inr (List.mem_cons_of_mem _ hl)

theorem firstBest_mem {l : List α} (h : firstBest better l = some p) : p ∈ l :=
  (foldl_keepBest_mem l none h).resolve_left nofun

theorem foldl_keepBest_stays {l : List α} (h : ∀ q ∈ l, better q p = false) : l.foldl (keepBest better) (some p) = some p := by
  induction l with
  | nil => rfl
  | cons x l ih =>
    have hkeep : keepBest better (some p) x = some p := if_neg (by rw [h x List.mem_cons_self]; exact Bool.false_ne_true)
    rw [List.foldl_cons, hkeep]
    exact ih fun q hq => h q (List.mem_cons_of_mem _ hq)

/-- What beats all before it and yields to none after it is the one kept. -/
theorem firstBest_append {before after : List α} (hb : ∀ q ∈ before, better p q = true) (ha : ∀ q ∈ after, better q p = false) :
    firstBest better (before ++ p :: after) = some p := by
  have hkeep : keepBest better (before.foldl (keepBest better) none) p = some p := by
    cases h : before.foldl (keepBest better) none with
    | none => rfl
    | some b => exact if_pos (hb b (firstBest_mem h))
  unfold firstBest
  rw [List.foldl_append, List.foldl_cons, hkeep]
  exact foldl_keepBest_stays ha

theorem firstBest_none {l : List α} (h : firstBest better l = none) : l = [] := by
  have hsome : ∀ (l : List α) (b : α), l.foldl (keepBest better) (some b) ≠ none := by
    intro l
    induction l with
    | nil => exact nofun
    | cons x l ih =>
      intro b
      by_cases hb : better x b = true
      · rw [List.foldl_cons, show keepBest better (some b) x = some x from if_pos hb]
        exact ih x
      · rw [List.foldl_cons, show keepBest better (some b) x = some b from if_neg hb]
        exact ih b
  cases l with
  | nil => rfl
  | cons x l => exact absurd h (hsome l x)

/-- In an ascending list the least of the best is kept. -/
theorem firstBest_of_ascending {l : List α} {r : α → α → Prop} (hl : l.Pairwise r) (hp : p ∈ l)
    (hb : ∀ q ∈ l, r q p → better p q = true) (ha : ∀ q ∈ l, r p q → better q p = false) : firstBest better l = some p := by
  obtain ⟨before, after, rfl⟩ := List.append_of_mem hp
  obtain ⟨-, hafter, hcross⟩ := List.pairwise_append.1 hl
  refine firstBest_append (fun q hq => hb q (by simp [hq]) (hcross q hq p List.mem_cons_self)) fun q hq => ?_
  exact ha q (by simp [hq]) ((List.pairwise_cons.1 hafter).1 q hq)

end

/-! ### Caps and levels (R85, R86) -/

section
variable {bands : List Band} {k : Nat}

theorem lowerLevel_eq_bits (a b : Level) : lowerLevel a b = if a.bits ≤ b.bits then a else b := by revert a b; decide

theorem lowerLevel_bits (a b : Level) : (lowerLevel a b).bits = min a.bits b.bits := by revert a b; decide

theorem lowerLevel_le_left (a b : Level) : (lowerLevel a b).val ≤ a.val := by revert a b; decide

theorem lowerLevel_le_right (a b : Level) : (lowerLevel a b).val ≤ b.val := by revert a b; decide

theorem level_bits_le (a : Level) : a.bits ≤ 10 := by revert a; decide

/-- R86: the threshold table of the levels. -/
theorem levelFor_bits (e : Int) : (levelFor e).bits =
    if e < 16 then 0 else if e < 28 then 1 else if e < 44 then 2 else if e < 56 then 3 else if e < 80 then 4
      else if e < 104 then 6 else if e < 128 then 8 else 10 := by
  unfold levelFor
  repeat' split
  all_goals rfl

theorem rawCap_eq_foldl (bands : List Band) (k : Nat) : rawCap bands k =
    ((bands.filter fun b => decide (b.first ≤ k ∧ k < b.first + b.width)).map (·.cap)).foldl min 10 := by
  rw [List.foldl_map, List.foldl_filter]
  rfl

theorem foldl_rawCap_le (bands : List Band) (n : Nat) :
    bands.foldl (fun n b => if b.contains k then min n b.cap else n) n ≤ n :=
  List.foldlRecOn bands _ (motive := fun m => m ≤ n) (Nat.le_refl n) fun m hm b _ => by
    split
    · exact Nat.le_trans (Nat.min_le_left _ _) hm
    · exact hm

theorem rawCap_le (bands : List Band) (k : Nat) : rawCap bands k ≤ 10 := foldl_rawCap_le bands 10

theorem rawCap_append_le (more : List Band) : rawCap (bands ++ more) k ≤ rawCap bands k := by
  unfold rawCap
  rw [List.foldl_append]
  exact foldl_rawCap_le more _

theorem capLevel_mono {a b : Nat} (h : a ≤ b) (hb : b ≤ 10) : (capLevel a).val ≤ (capLevel b).val := by
  have hall : ∀ a b : Fin 11, a ≤ b → (capLevel a.val).val ≤ (capLevel b.val).val := by decide
  exact hall ⟨a, by omega⟩ ⟨b, by omega⟩ h

/-- R85: the raw cap rounded down to a level. -/
theorem capLevel_bits {raw : Nat} (h : raw ≤ 10) :
    (capLevel raw).bits = if raw = 5 then 4 else if raw = 7 then 6 else if raw = 9 then 8 else raw := by
  have hall : ∀ r : Fin 11, (capLevel r.val).bits = if r.val = 5 then 4 else if r.val = 7 then 6 else if r.val = 9 then 8 else r.val := by
    decide
  exact hall ⟨raw, by omega⟩

theorem caps_getElem? : (caps bands)[k]? = if k < 768 then some (capOf bands k) else none := by
  unfold caps
  by_cases hk : k < 768
  · rw [if_pos hk, List.getElem?_map, List.getElem?_range (show k < Config.carriers from hk)]
    rfl
  · rw [if_neg hk]
    exact List.getElem?_eq_none (by rw [List.length_map, List.length_range]; exact Nat.not_lt.1 hk)

theorem caps_length : (caps bands).length = 768 := by simp [caps, Config.carriers]

/-- R113: a column within the caps at every carrier. -/
theorem exceedsCaps_eq_false {x : Column} :
    exceedsCaps bands x = false ↔ ∀ k a, x[k]? = some a → k < 768 → a.val ≤ (capOf bands k).val := by
  unfold exceedsCaps
  rw [List.any_eq_false]
  refine ⟨fun h k a ha hk => ?_, fun h z hz hlt => ?_⟩
  · have hmem : (a, capOf bands k) ∈ x.zip (caps bands) :=
      List.mem_iff_getElem?.2 ⟨k, List.getElem?_zip_eq_some.2 ⟨ha, by rw [caps_getElem?, if_pos hk]⟩⟩
    exact Nat.not_lt.1 fun hlt => h _ hmem (decide_eq_true hlt)
  · obtain ⟨k, hk⟩ := List.mem_iff_getElem?.1 hz
    obtain ⟨ha, hcap⟩ := List.getElem?_zip_eq_some.1 hk
    rw [caps_getElem?] at hcap
    by_cases hk768 : k < 768
    · rw [if_pos hk768] at hcap
      have hle := h k z.1 ha hk768
      rw [Option.some.inj hcap] at hle
      exact absurd (of_decide_eq_true hlt) (Nat.not_lt.2 hle)
    · rw [if_neg hk768] at hcap
      exact absurd hcap nofun

theorem zipWith_getElem?_left {a b : Column} {f : Level → Level → Level} {l : Level} (h : (List.zipWith f a b)[k]? = some l) :
    ∃ x y, a[k]? = some x ∧ b[k]? = some y ∧ l = f x y := by
  obtain ⟨x, y, hx, hy, hl⟩ := List.getElem?_zipWith_eq_some.1 h
  exact ⟨x, y, hx, hy, hl.symm⟩

theorem exceedsCaps_columnMin {c v : Column} (h : exceedsCaps bands c = false) : exceedsCaps bands (columnMin c v) = false := by
  rw [exceedsCaps_eq_false] at h ⊢
  intro k l hl hk
  obtain ⟨x, y, hx, -, rfl⟩ := zipWith_getElem?_left hl
  exact Nat.le_trans (lowerLevel_le_left x y) (h k x hx hk)

theorem columnMin_length {c v : Column} (hc : c.length = 768) (hv : v.length = 768) : (columnMin c v).length = 768 := by
  simp [columnMin, hc, hv]

theorem columnSum_le {c : Column} (hc : c.length ≤ 768) : columnSum c ≤ 7680 := by
  have hsum : (c.map Level.bits).sum ≤ (c.map Level.bits).length * 10 := sum_le_of_each fun n hn => by
    obtain ⟨l, -, rfl⟩ := List.mem_map.1 hn
    exact level_bits_le l
  rw [List.length_map] at hsum
  unfold columnSum
  omega

end

/-! ### The merge of the slots (R88, R89) -/

section
variable {g : MergeState} {v : Column} {ok : MergeColumn → Bool} {cs : List MergeColumn} {i n : Nat} {P : Column → Prop}

/-- A smaller loss. -/
def lessLoss (v : Column) (x b : MergeColumn × Nat) : Bool := decide (x.1.loss v < b.1.loss v)

theorem leastLoss_eq : leastLoss ok v cs = (firstBest (lessLoss v) (cs.zipIdx.filter fun x => ok x.1)).map (·.2) := by
  unfold leastLoss firstBest
  dsimp only
  congr 2
  funext best x
  cases best <;> simp [keepBest, lessLoss]

theorem mem_admitted {x : MergeColumn × Nat} :
    x ∈ cs.zipIdx.filter (fun x => ok x.1) ↔ cs[x.2]? = some x.1 ∧ ok x.1 = true := by
  rw [List.mem_filter, List.mem_zipIdx_iff_getElem?]

theorem admitted_ascending : (cs.zipIdx.filter fun x => ok x.1).Pairwise fun x y => x.2 < y.2 := by
  refine List.Pairwise.filter _ ?_
  have hrange : (cs.zipIdx.map (·.2)).Pairwise (· < ·) := by
    rw [List.zipIdx_map_snd]
    exact List.pairwise_lt_range'
  exact List.pairwise_map.1 hrange

theorem leastLoss_lt (h : leastLoss ok v cs = some i) : i < cs.length := by
  rw [leastLoss_eq] at h
  obtain ⟨x, hx, rfl⟩ := Option.map_eq_some_iff.1 h
  exact (List.getElem?_eq_some_iff.1 (mem_admitted.1 (firstBest_mem hx)).1).1

theorem leastLoss_none (h : leastLoss ok v cs = none) : ∀ c ∈ cs, ok c = false := by
  rw [leastLoss_eq, Option.map_eq_none_iff] at h
  intro c hc
  obtain ⟨j, hj⟩ := List.mem_iff_getElem?.1 hc
  refine Bool.eq_false_iff.2 fun hok => ?_
  have hmem : (c, j) ∈ cs.zipIdx.filter (fun x => ok x.1) := mem_admitted.2 ⟨hj, hok⟩
  rw [firstBest_none h] at hmem
  exact absurd hmem List.not_mem_nil

theorem leastLoss_refused (h : ∀ c ∈ cs, ok c = false) : leastLoss ok v cs = none := by
  rw [leastLoss_eq, List.filter_eq_nil_iff.2 fun x hx => ?_]
  · rfl
  · rw [h x.1 (List.mem_of_getElem? (List.mem_zipIdx_iff_getElem?.1 hx))]
    exact Bool.false_ne_true

/-- The column of least loss, the lowest-numbered on a tie. -/
theorem leastLoss_least {c : MergeColumn} (hc : cs[i]? = some c) (hok : ok c = true)
    (hleast : ∀ j d, cs[j]? = some d → ok d = true → c.loss v < d.loss v ∨ (c.loss v = d.loss v ∧ i ≤ j)) :
    leastLoss ok v cs = some i := by
  have hbest : firstBest (lessLoss v) (cs.zipIdx.filter fun x => ok x.1) = some (c, i) := by
    refine firstBest_of_ascending admitted_ascending (mem_admitted.2 ⟨hc, hok⟩) (fun q hq hlt => ?_) fun q hq _ => ?_
    · obtain ⟨hq, hqok⟩ := mem_admitted.1 hq
      exact decide_eq_true ((hleast q.2 q.1 hq hqok).resolve_right fun h => absurd hlt (Nat.not_lt.2 h.2))
    · obtain ⟨hq, hqok⟩ := mem_admitted.1 hq
      refine decide_eq_false (Nat.not_lt.2 ?_)
      rcases hleast q.2 q.1 hq hqok with h | h
      · exact Nat.le_of_lt h
      · exact Nat.le_of_eq h.1
  rw [leastLoss_eq, hbest]
  rfl

/-- R88, R89: a slot joins a column that is there, or takes a new one while there are fewer than four. -/
theorem place_cases (g : MergeState) (v : Column) :
    (∃ i, i < g.columns.length ∧ g.place v = g.join i v) ∨ (g.columns.length < 4 ∧ g.place v = g.extend v) := by
  unfold MergeState.place
  cases haccepted : leastLoss (fun c => c.accepts v) v g.columns with
  | some i => exact Or.inl ⟨i, leastLoss_lt haccepted, rfl⟩
  | none =>
    dsimp only
    by_cases hlen : g.columns.length < 4
    · exact Or.inr ⟨hlen, if_pos hlen⟩
    · rw [if_neg hlen]
      cases hforced : leastLoss (fun _ => true) v g.columns with
      | some i => exact Or.inl ⟨i, leastLoss_lt hforced, rfl⟩
      | none =>
        have hempty : g.columns = [] := List.eq_nil_iff_forall_not_mem.2 fun c hc =>
          Bool.false_ne_true (leastLoss_none hforced c hc).symm
        rw [hempty] at hlen
        exact absurd (by decide : ([] : List MergeColumn).length < 4) hlen

/-- R88 to R90: what holds of a merge after `n` slots whose vectors meet `P`. -/
structure MergeState.Merged (P : Column → Prop) (n : Nat) (g : MergeState) : Prop where
  few : g.columns.length ≤ 4
  placed : g.map.length = n
  named : ∀ i ∈ g.map, i < g.columns.length
  used : ∀ i, i < g.columns.length → i ∈ g.map
  levels : ∀ c ∈ g.columns, P c.levels

theorem MergeState.Merged.join (hmin : ∀ c v, P c → P v → P (columnMin c v)) (h : g.Merged P n) (hv : P v) (hi : i < g.columns.length) :
    (g.join i v).Merged P (n + 1) := by
  have hlen : (g.join i v).columns.length = g.columns.length := List.length_modify ..
  refine ⟨by rw [hlen]; exact h.few, by simp [MergeState.join, h.placed], ?_, ?_, ?_⟩
  · intro j hj
    rw [hlen]
    rcases List.mem_append.1 hj with hj | hj
    · exact h.named j hj
    · rw [List.mem_singleton.1 hj]
      exact hi
  · intro j hj
    rw [hlen] at hj
    exact List.mem_append_left _ (h.used j hj)
  · intro c hc
    obtain ⟨j, hj⟩ := List.mem_iff_getElem?.1 hc
    unfold MergeState.join at hj
    rw [List.getElem?_modify] at hj
    obtain ⟨d, hd, rfl⟩ := Option.map_eq_some_iff.1 hj
    have hP := h.levels d (List.mem_of_getElem? hd)
    by_cases hij : i = j
    · rw [if_pos hij]
      exact hmin _ _ hP hv
    · rw [if_neg hij]
      exact hP

theorem MergeState.Merged.extend (h : g.Merged P n) (hv : P v) (hlen : g.columns.length < 4) : (g.extend v).Merged P (n + 1) := by
  have hlength : (g.extend v).columns.length = g.columns.length + 1 := by simp [MergeState.extend]
  refine ⟨by rw [hlength]; exact hlen, by simp [MergeState.extend, h.placed], ?_, ?_, ?_⟩
  · intro j hj
    rw [hlength]
    rcases List.mem_append.1 hj with hj | hj
    · exact Nat.lt_succ_of_lt (h.named j hj)
    · rw [List.mem_singleton.1 hj]
      exact Nat.lt_succ_self _
  · intro j hj
    rw [hlength] at hj
    rcases Nat.lt_succ_iff_lt_or_eq.1 hj with hj | rfl
    · exact List.mem_append_left _ (h.used j hj)
    · exact List.mem_append_right _ (List.mem_singleton_self _)
  · intro c hc
    rcases List.mem_append.1 hc with hc | hc
    · exact h.levels c hc
    · rw [List.mem_singleton.1 hc]
      exact hv

theorem MergeState.Merged.place (hmin : ∀ c v, P c → P v → P (columnMin c v)) (h : g.Merged P n) (hv : P v) :
    (g.place v).Merged P (n + 1) := by
  rcases place_cases g v with ⟨i, hi, hjoin⟩ | ⟨hlen, hext⟩
  · rw [hjoin]
    exact h.join hmin hv hi
  · rw [hext]
    exact h.extend hv hlen

theorem mergeSlots_append (vs : List Column) (v : Column) : mergeSlots (vs ++ [v]) = (mergeSlots vs).place v := by
  unfold mergeSlots
  rw [List.foldl_append]
  rfl

theorem mergeSlots_merged (hmin : ∀ c v, P c → P v → P (columnMin c v)) (vs : List Column) (h : ∀ v ∈ vs, P v) :
    (mergeSlots vs).Merged P vs.length := by
  induction vs using snoc_induction with
  | nil => exact ⟨by decide, rfl, nofun, fun i hi => absurd hi (Nat.not_lt_zero i), nofun⟩
  | snoc vs v ih =>
    rw [mergeSlots_append, List.length_append]
    exact (ih fun w hw => h w (List.mem_append_left _ hw)).place hmin (h v (List.mem_append_right _ (List.mem_singleton_self _)))

/-- R89: the column joined is the lower of the two at each carrier. -/
theorem columnMin_eq_bits (a b : Column) : columnMin a b = List.zipWith (fun a b => if a.bits ≤ b.bits then a else b) a b :=
  congrArg (fun f => List.zipWith f a b) (funext fun x => funext fun y => lowerLevel_eq_bits x y)

theorem join_eq_set {c : MergeColumn} (hc : g.columns[i]? = some c) : g.join i v =
    { columns := g.columns.set i { levels := columnMin c.levels v, slots := c.slots + 1 }, map := g.map ++ [i] } := by
  unfold MergeState.join
  have : Inhabited MergeColumn := ⟨c⟩
  rw [List.modify_eq_set, hc]
  rfl

theorem place_accepted {c : MergeColumn} (hc : g.columns[i]? = some c) (hok : c.accepts v = true)
    (hleast : ∀ j d, g.columns[j]? = some d → d.accepts v = true → c.loss v < d.loss v ∨ (c.loss v = d.loss v ∧ i ≤ j)) :
    g.place v = g.join i v := by
  unfold MergeState.place
  rw [leastLoss_least (ok := fun c => c.accepts v) hc hok hleast]

theorem place_extends (h : ∀ c ∈ g.columns, c.accepts v = false) (hlen : g.columns.length < 4) : g.place v = g.extend v := by
  unfold MergeState.place
  rw [leastLoss_refused h]
  exact if_pos hlen

theorem place_forced {c : MergeColumn} (h : ∀ c ∈ g.columns, c.accepts v = false) (hlen : 4 ≤ g.columns.length)
    (hc : g.columns[i]? = some c) (hleast : ∀ j d, g.columns[j]? = some d → c.loss v < d.loss v ∨ (c.loss v = d.loss v ∧ i ≤ j)) :
    g.place v = g.join i v := by
  unfold MergeState.place
  rw [leastLoss_refused h]
  refine (if_neg (Nat.not_lt.2 hlen)).trans ?_
  rw [leastLoss_least (ok := fun _ => true) hc rfl fun j d hd _ => hleast j d hd]

end

/-! ### A build from its snapshot (R86, R87, R91) -/

section
variable {x : Snapshot} {p : Pair} {m : MainsSlot} {k : Nat}

/-- R85, R86: the level of a carrier in a slot's vector. -/
theorem vectors_level {a : Int} (hk : k < 768) (ha : (x.cells[p][m]).avgs[k]? = some a) :
    ∃ v l, (x.vectors p)[m.val]? = some v ∧ v[k]? = some l ∧
      l = lowerLevel (levelFor (a - ((x.margin + x.boost : Nat) : Int))) (capOf (x.localBands ++ x.peerBands.getD []) k) := by
  refine ⟨levelVector x.caps (x.margin + x.boost) x.cells[p][m].avgs, _, ?_, ?_, rfl⟩
  · unfold Snapshot.vectors
    rw [List.getElem?_map, List.getElem?_eq_getElem (by simp)]
    simp
  · unfold levelVector
    rw [List.getElem?_zipWith_eq_some]
    exact ⟨a, _, ha, by unfold Snapshot.caps; rw [caps_getElem?, if_pos hk], rfl⟩

theorem mem_vectors {v : Column} : v ∈ x.vectors p ↔ ∃ m : MainsSlot, v = levelVector x.caps (x.margin + x.boost) x.cells[p][m].avgs := by
  unfold Snapshot.vectors
  simp [eq_comm]

theorem vectors_length (x : Snapshot) (p : Pair) : (x.vectors p).length = 6 := by simp [Snapshot.vectors]

/-- R85, R113: a slot's vector keeps within the caps that the local bands set. -/
theorem vectors_within (v : Column) (hv : v ∈ x.vectors p) : exceedsCaps x.localBands v = false := by
  obtain ⟨m, rfl⟩ := mem_vectors.1 hv
  rw [exceedsCaps_eq_false]
  intro k l hl hk
  unfold levelVector at hl
  obtain ⟨a, cap, -, hcap, rfl⟩ := List.getElem?_zipWith_eq_some.1 hl
  unfold Snapshot.caps at hcap
  rw [caps_getElem?, if_pos hk] at hcap
  rw [← Option.some.inj hcap]
  exact Nat.le_trans (lowerLevel_le_right _ _) (capLevel_mono (rawCap_append_le _) (rawCap_le _ _))

theorem vectors_768 (h : ∀ m : MainsSlot, (x.cells[p][m]).avgs.length = 768) (v : Column) (hv : v ∈ x.vectors p) : v.length = 768 := by
  obtain ⟨m, rfl⟩ := mem_vectors.1 hv
  unfold levelVector Snapshot.caps
  rw [List.length_zipWith, caps_length, h m]
  rfl

theorem eligiblePair_iff {pairs : Vector Bool 3} {cells : SnrSet} :
    eligiblePair pairs cells p = true ↔ pairs[p] = true ∧ ∀ m : MainsSlot, 3 ≤ (cells[p][m]).count := by
  unfold eligiblePair
  simp

/-- R87: a larger total. -/
def Snapshot.larger (x : Snapshot) (p b : Pair) : Bool := decide (x.total p > x.total b)

theorem choose_eq (x : Snapshot) : x.choose = firstBest x.larger ((List.finRange 3).filter (eligiblePair x.pairs x.cells)) := by
  unfold Snapshot.choose firstBest
  congr 1
  funext best q
  cases best <;> simp [keepBest, Snapshot.larger]

theorem choose_eligible (h : x.choose = some p) : eligiblePair x.pairs x.cells p = true := by
  rw [choose_eq] at h
  exact (List.mem_filter.1 (firstBest_mem h)).2

theorem choose_best (hp : eligiblePair x.pairs x.cells p = true)
    (hbest : ∀ q, eligiblePair x.pairs x.cells q = true → x.total q < x.total p ∨ (x.total q = x.total p ∧ p ≤ q)) :
    x.choose = some p := by
  rw [choose_eq]
  refine firstBest_of_ascending ((List.pairwise_lt_finRange 3).filter _) (List.mem_filter.2 ⟨List.mem_finRange p, hp⟩)
    (fun q hq hlt => ?_) fun q hq _ => ?_
  · exact decide_eq_true ((hbest q (List.mem_filter.1 hq).2).resolve_right fun h => absurd hlt (Nat.not_lt.2 h.2))
  · refine decide_eq_false (Nat.not_lt.2 ?_)
    rcases hbest q (List.mem_filter.1 hq).2 with h | h
    · exact Nat.le_of_lt h
    · exact Nat.le_of_eq h.1

theorem ofFn_getElem {β : Type} (f : Fin 6 → β) (m : Fin 6) : (Vector.ofFn f)[m] = f m := by simp

/-- R88 to R91: the grid of a pair. Irreducible, so that no comparison of its fields runs the merge. -/
@[irreducible] def Snapshot.gridOf (x : Snapshot) (p : Pair) : BuiltGrid :=
  let m := mergeSlots (x.vectors p)
  let map : Vector (Fin 4) 6 := Vector.ofFn fun s => Fin.ofNat 4 (m.map.getD s.val 0)
  let columns := m.columns.map (·.levels)
  { pair := p, map := map, columns := columns, rate := gridRate (columns.map some) map }

theorem gridOf_pair (x : Snapshot) (p : Pair) : (x.gridOf p).pair = p := by
  unfold Snapshot.gridOf
  dsimp only

theorem gridOf_columns (x : Snapshot) (p : Pair) : (x.gridOf p).columns = (mergeSlots (x.vectors p)).columns.map (·.levels) := by
  unfold Snapshot.gridOf
  dsimp only

theorem gridOf_gridRate (x : Snapshot) (p : Pair) : (x.gridOf p).rate = gridRate ((x.gridOf p).columns.map some) (x.gridOf p).map := by
  unfold Snapshot.gridOf
  dsimp only

theorem gridOf_map (x : Snapshot) (p : Pair) (m : MainsSlot) :
    (x.gridOf p).map[m] = Fin.ofNat 4 ((mergeSlots (x.vectors p)).map.getD m.val 0) := by
  unfold Snapshot.gridOf
  exact ofFn_getElem _ m

theorem build_chosen (hp : x.choose = some p) (h : x.total p ≠ 0) : x.build = some (x.gridOf p) := by
  unfold Snapshot.build Snapshot.gridOf
  rw [hp]
  exact if_neg h

theorem build_some {b : BuiltGrid} (h : x.build = some b) : ∃ p, x.choose = some p ∧ x.total p ≠ 0 ∧ b = x.gridOf p := by
  cases hp : x.choose with
  | none =>
    unfold Snapshot.build at h
    rw [hp] at h
    exact absurd h nofun
  | some p =>
    by_cases h0 : x.total p = 0
    · unfold Snapshot.build at h
      rw [hp] at h
      exact absurd ((if_pos h0).symm.trans h) nofun
    · exact ⟨p, rfl, h0, Option.some.inj (h.symm.trans (build_chosen hp h0))⟩

theorem build_none (h : ∀ p, eligiblePair x.pairs x.cells p = true → x.total p = 0) : x.build = none := by
  cases hb : x.build with
  | none => rfl
  | some b =>
    obtain ⟨p, hp, h0, -⟩ := build_some hb
    exact absurd (h p (choose_eligible hp)) h0

theorem gridOf_map_val {P : Column → Prop} {g : MergeState} (h : g.Merged P 6) (m : MainsSlot) :
    ∃ i, g.map[m.val]? = some i ∧ (Fin.ofNat 4 (g.map.getD m.val 0)).val = i ∧ i < g.columns.length := by
  have hm : m.val < g.map.length := by rw [h.placed]; exact m.isLt
  have hnamed := h.named g.map[m.val] (List.getElem_mem hm)
  have hget : g.map[m.val]? = some g.map[m.val] := List.getElem?_eq_getElem hm
  refine ⟨g.map[m.val], hget, ?_, hnamed⟩
  rw [List.getD_eq_getElem?_getD, hget]
  exact Nat.mod_eq_of_lt (Nat.lt_of_lt_of_le hnamed h.few)

theorem gridRate_of_columns (columns : List Column) (map : Vector (Fin 4) 6) : gridRate (columns.map some) map =
    (((List.finRange 6).map fun m => columnSum (columns.getD (map[m]).val [])).sum) * 125 / 32 := by
  have hsum : ∀ n : Nat, ((columns.map some).map fun c => columnSum (c.getD [])).getD n 0 = columnSum (columns.getD n []) := fun n => by
    rw [List.map_map]
    exact map_getD columns [] columnSum n
  unfold gridRate rateOf gridTotal
  simp only [hsum]

theorem gridOf_rate (x : Snapshot) (p : Pair) : (x.gridOf p).rate =
    (((List.finRange 6).map fun m => columnSum ((x.gridOf p).columns.getD ((x.gridOf p).map[m]).val [])).sum) * 125 / 32 :=
  (gridOf_gridRate x p).trans (gridRate_of_columns _ _)

/-- R34, R88 to R91: the shape of a grid whose columns have 768 levels. -/
theorem gridOf_shape (h : ∀ m : MainsSlot, (x.cells[p][m]).avgs.length = 768) :
    (1 ≤ (x.gridOf p).columns.length ∧ (x.gridOf p).columns.length ≤ 4) ∧ (∀ c ∈ (x.gridOf p).columns, c.length = 768) ∧
    (∀ m : MainsSlot, ((x.gridOf p).map[m]).val < (x.gridOf p).columns.length) ∧
    (∀ k : Fin 4, k.val < (x.gridOf p).columns.length → ∃ m : MainsSlot, (x.gridOf p).map[m] = k) := by
  have hmerged := mergeSlots_merged (P := fun c => c.length = 768) (fun c v hc hv => columnMin_length hc hv) _ (vectors_768 h)
  rw [vectors_length] at hmerged
  have hlen : (x.gridOf p).columns.length = (mergeSlots (x.vectors p)).columns.length := by
    rw [gridOf_columns, List.length_map]
  have hval : ∀ m : MainsSlot, ((x.gridOf p).map[m]).val < (x.gridOf p).columns.length := fun m => by
    obtain ⟨i, -, hi, hlt⟩ := gridOf_map_val hmerged m
    rw [gridOf_map, hi, hlen]
    exact hlt
  refine ⟨⟨Nat.lt_of_le_of_lt (Nat.zero_le _) (hval 0), by rw [hlen]; exact hmerged.few⟩, fun c hc => ?_, hval, fun k hk => ?_⟩
  · rw [gridOf_columns] at hc
    obtain ⟨d, hd, rfl⟩ := List.mem_map.1 hc
    exact hmerged.levels d hd
  · rw [hlen] at hk
    obtain ⟨n, hn, hget⟩ := List.getElem_of_mem (hmerged.used k.val hk)
    have hn6 : n < 6 := by rw [hmerged.placed] at hn; exact hn
    obtain ⟨i, hi, hival, -⟩ := gridOf_map_val hmerged ⟨n, hn6⟩
    refine ⟨⟨n, hn6⟩, Fin.ext ?_⟩
    rw [gridOf_map, hival]
    exact Option.some.inj (hi.symm.trans ((List.getElem?_eq_getElem hn).trans (congrArg some hget)))

theorem gridOf_rate_le (h : ∀ c ∈ (x.gridOf p).columns, c.length = 768) : (x.gridOf p).rate ≤ 180000 := by
  have hcolumn : ∀ n, columnSum ((x.gridOf p).columns.getD n []) ≤ 7680 := fun n => by
    rw [List.getD_eq_getElem?_getD]
    cases hn : (x.gridOf p).columns[n]? with
    | none => decide
    | some c => exact columnSum_le (Nat.le_of_eq (h c (List.mem_of_getElem? hn)))
  have hsum : (((List.finRange 6).map fun m => columnSum ((x.gridOf p).columns.getD ((x.gridOf p).map[m]).val [])).sum) ≤
      ((List.finRange 6).map fun m => columnSum ((x.gridOf p).columns.getD ((x.gridOf p).map[m]).val [])).length * 7680 :=
    sum_le_of_each fun n hn => by
      obtain ⟨m, -, rfl⟩ := List.mem_map.1 hn
      exact hcolumn _
  rw [gridOf_rate]
  rw [List.length_map, List.length_finRange] at hsum
  omega

/-- R113: no column of a built grid exceeds the caps of the local bands. -/
theorem gridOf_within (c : Column) (hc : c ∈ (x.gridOf p).columns) : exceedsCaps x.localBands c = false := by
  have hmerged := mergeSlots_merged (P := fun c => exceedsCaps x.localBands c = false) (fun c v h _ => exceedsCaps_columnMin h) (x.vectors p)
    vectors_within
  rw [gridOf_columns] at hc
  obtain ⟨d, hd, rfl⟩ := List.mem_map.1 hc
  exact hmerged.levels d hd

theorem gridOf_map_get (x : Snapshot) (p : Pair) (m : MainsSlot) :
    (mergeSlots (x.vectors p)).map[m.val]? = some ((x.gridOf p).map[m]).val := by
  have hmerged := mergeSlots_merged (P := fun _ => True) (fun _ _ _ _ => trivial) (x.vectors p) fun _ _ => trivial
  rw [vectors_length] at hmerged
  obtain ⟨i, hi, hval, -⟩ := gridOf_map_val hmerged m
  rw [gridOf_map, hval, hi]

end

/-! ### The loading of frames (R30, R110, R118 to R121) -/

section
variable {s : State} {n : EntryIx} {e : Entry} {g : Grid} {start : LineTime}

theorem chooseLoading_robust (hg : s.roleGrid n .txActive = none) : chooseLoading s n start = .robust := by
  unfold chooseLoading
  rw [hg]
  cases s.entry n <;> rfl

theorem chooseLoading_floor (he : s.entry n = some e) (hg : s.roleGrid n .txActive = some g)
    (h : s.trusted = false ∨ e.offset.held = none ∨ e.peerTrusted = false) : chooseLoading s n start = .floor g := by
  unfold chooseLoading
  rw [he, hg]
  dsimp only
  cases ho : e.offset.held with
  | none => rfl
  | some o =>
    refine if_neg fun hc => ?_
    rw [Bool.and_eq_true] at hc
    rcases h with h | h | h
    · exact Bool.false_ne_true (h.symm.trans hc.1)
    · exact absurd (ho.symm.trans h) nofun
    · exact Bool.false_ne_true (h.symm.trans hc.2)

theorem chooseLoading_perSlot {o : MainsSlot} (he : s.entry n = some e) (hg : s.roleGrid n .txActive = some g) (ht : s.trusted = true)
    (ho : e.offset.held = some o) (hp : e.peerTrusted = true) :
    chooseLoading s n start = .perSlot g (slotColumns s.tracker o g start) := by
  unfold chooseLoading
  rw [he, hg]
  dsimp only
  rw [ho, ht, hp]
  rfl

theorem slotColumns_length (t : Tracker) (o : MainsSlot) (g : Grid) (start : LineTime) : (slotColumns t o g start).length = 96 := by
  simp [slotColumns, Config.maxSymbols]

/-- R120: the column of a symbol, by the slot projected for its start in the peer's numbering. -/
theorem slotColumns_getElem? {t : Tracker} {o r : MainsSlot} {i : Nat} (hi : i < 96)
    (hr : r.val = ((t.projectedSlot (start.plus (192 + 32 * i))).val + 6 - o.val) % 6) :
    (slotColumns t o g start)[i]? = some g.map[r] := by
  have hslot : toPeerSlot o (t.projectedSlot (start.plus (192 + 32 * i))) = r := Fin.ext (by
    rw [hr]
    exact Nat.mod_mod _ _)
  unfold slotColumns
  rw [List.getElem?_map, List.getElem?_range (show i < Config.maxSymbols from hi), Option.map_some]
  exact congrArg (fun m : MainsSlot => some g.map[m]) hslot

/-- R119: the floor column is at each carrier the lowest level of any column. -/
theorem floorColumn_spec (hne : g.columns ≠ []) (hall : ∀ x ∈ g.columns, ∃ c : Column, x = some c ∧ c.length = 768) {k : Nat} (hk : k < 768) :
    ∃ v, g.floorColumn[k]? = some v ∧ (∃ x : Column, some x ∈ g.columns ∧ x[k]? = some v) ∧
      ∀ x : Column, some x ∈ g.columns → ∀ w, x[k]? = some w → v.val ≤ w.val := by
  obtain ⟨columns, hcolumns⟩ : ∃ columns : List Column, g.columns = columns.map some :=
    ⟨g.columns.map (·.getD []), by
      rw [List.map_map]
      refine (List.map_id _).symm.trans (List.map_congr_left fun x hx => ?_)
      obtain ⟨c, rfl, -⟩ := hall x hx
      rfl⟩
  rw [hcolumns] at hne hall ⊢
  have hlength : ∀ c ∈ columns, k < c.length := fun c hc => by
    obtain ⟨d, hd, hlen⟩ := hall (some c) (List.mem_map_of_mem hc)
    rw [Option.some.inj hd, hlen]
    exact hk
  cases columns with
  | nil => exact absurd rfl hne
  | cons c rest =>
    obtain ⟨v, hv, ⟨d, hd, hdv⟩, hle⟩ := columnMin_foldl k rest c (hlength c List.mem_cons_self) fun d hd => hlength d (List.mem_cons_of_mem _ hd)
    have hfloor : g.floorColumn = rest.foldl columnMin c := by
      unfold Grid.floorColumn
      rw [hcolumns, List.map_map]
      simp [Function.comp_def]
    refine ⟨v, by rw [hfloor]; exact hv, ⟨d, List.mem_map_of_mem hd, hdv⟩, fun y hy w hw => hle y ?_ w hw⟩
    obtain ⟨z, hz, hzy⟩ := List.mem_map.1 hy
    rw [← Option.some.inj hzy]
    exact hz

theorem symbolMap_floor {r : Reception} {h : Header} {l : Latched} (hr : r.header = .used h .processed (.latched l)) (hk : h.kind = .data)
    (hf : h.floor = true) (i : Nat) : r.symbolMap i = some (.column l.grid.floorColumn) := by
  unfold Reception.symbolMap
  rw [hr]
  dsimp only
  rw [hk]
  exact if_pos hf

theorem symbolMap_column {r : Reception} {h : Header} {l : Latched} {i : Nat} {k : Fin 4} {c : Column}
    (hr : r.header = .used h .processed (.latched l)) (hk : h.kind = .data) (hf : h.floor = false) (hi : r.columns[i]? = some k)
    (hc : l.grid.columns[k.val]? = some (some c)) : r.symbolMap i = some (.column c) := by
  unfold Reception.symbolMap
  rw [hr]
  dsimp only
  rw [hk]
  refine (if_neg (by rw [hf]; exact Bool.false_ne_true)).trans ?_
  rw [hi, Option.map_some, List.getD_eq_getElem?_getD, hc]
  rfl

theorem segmentBits_grid (b : Nat) : ceilDiv ((b + 12) * 8 * 4) 3 = ((b + 12) * 32 + 2) / 3 := by
  unfold ceilDiv
  rw [Nat.mul_assoc]
  rfl

end

/-- Settles O41: the grid built, its caps, its pair and levels, the merge, and the loading of the frames sent and received. -/
theorem gridsBuiltAndLoaded : Obligations.GridsBuiltAndLoaded := by
  refine ⟨?_, ?_, ?_, ⟨rfl, mergeSlots_append⟩, ?_, ?_, ?_, ?_, ?_, ?_, ?_⟩
  · intro x b hcells hb
    obtain ⟨p, hp, -, rfl⟩ := build_some hb
    have hcount := (eligiblePair_iff.1 (choose_eligible hp)).2
    obtain ⟨hk, hlen, hmap, hused⟩ := gridOf_shape fun m => hcells p m (Nat.le_trans (by decide) (hcount m))
    exact ⟨hk, hlen, hmap, hused, gridOf_rate x p, gridOf_rate_le hlen⟩
  · intro x b hb
    obtain ⟨p, -, -, rfl⟩ := build_some hb
    exact gridOf_within
  · intro x eligible total
    refine ⟨?_, fun h => build_none fun p hp => h p (eligiblePair_iff.1 hp), fun p hp hpos hbest => ?_⟩
    · intro p m k a hk ha e top bands raw cap
      obtain ⟨v, l, hv, hl, hlevel⟩ := vectors_level hk ha
      refine ⟨v, l, hv, hl, ?_⟩
      have hraw : rawCap (x.localBands ++ x.peerBands.getD []) k = raw := rawCap_eq_foldl _ _
      have he : a - ((x.margin + x.boost : Nat) : Int) = e := by
        rw [Int.natCast_add]
        exact (Int.sub_sub a x.margin x.boost).symm
      rw [hlevel, lowerLevel_bits, he, levelFor_bits]
      unfold capOf
      rw [hraw, capLevel_bits (by rw [← hraw]; exact rawCap_le _ _)]
    · have hchosen := choose_best (eligiblePair_iff.2 hp) fun q hq => hbest q (eligiblePair_iff.1 hq)
      exact ⟨x.gridOf p, build_chosen hchosen (Nat.pos_iff_ne_zero.1 hpos), gridOf_pair x p, gridOf_columns x p, gridOf_map_get x p⟩
  · intro g v lower loss passes least joined
    have hlower : ∀ c : MergeColumn, columnMin c.levels v = lower c := fun c => columnMin_eq_bits _ _
    have hloss : ∀ c : MergeColumn, c.loss v = loss c := fun c => by
      unfold MergeColumn.loss MergeColumn.minSum
      rw [hlower]
    have haccepts : ∀ c : MergeColumn, c.accepts v = true ↔ passes c := fun c => by
      unfold MergeColumn.accepts
      rw [decide_eq_true_iff, hloss]
    have hjoined : ∀ i c, g.columns[i]? = some c → g.join i v = joined i c := fun i c hc => by
      rw [join_eq_set hc, hlower]
    have hrefused : (∀ c ∈ g.columns, ¬passes c) → ∀ c ∈ g.columns, c.accepts v = false := fun h c hc =>
      Bool.eq_false_iff.2 fun ha => h c hc ((haccepts c).1 ha)
    refine ⟨fun i c ⟨hc, hok, hleast⟩ => ?_, fun h => ⟨place_extends (hrefused h), fun i c hlen ⟨hc, _, hleast⟩ => ?_⟩⟩
    · rw [← hjoined i c hc]
      refine place_accepted hc ((haccepts c).2 hok) fun j d hd hdok => ?_
      rw [hloss, hloss]
      exact hleast j d hd ((haccepts d).1 hdok)
    · rw [← hjoined i c hc]
      refine place_forced (hrefused h) hlen hc fun j d hd => ?_
      rw [hloss, hloss]
      exact hleast j d hd trivial
  · intro s n e start he
    refine ⟨chooseLoading_robust, fun g hg => ⟨chooseLoading_floor he hg, fun o ht ho hp => ?_⟩⟩
    exact ⟨_, chooseLoading_perSlot he hg ht ho hp, slotColumns_length _ _ _ _, fun i r hi hr => slotColumns_getElem? hi hr⟩
  · exact fun l len => ⟨fun h => if_pos h, fun h => if_neg (Nat.not_lt.2 h)⟩
  · exact fun g hne hall k hk => floorColumn_spec hne hall hk
  · exact fun r h l i hr hk => ⟨fun hf => symbolMap_floor hr hk hf i, fun k c hf hi hc => symbolMap_column hr hk hf hi hc⟩
  · exact fun n b g columns => ⟨rfl, rfl, rfl, rfl, segmentBits_grid b, segmentBits_grid b⟩
  · exact fun bits symbols h => leastSymbols_spec symbols bits h

end Sys2Proof.Machine
end

/-! ## Proofs: the tags and the outcomes of an issue

R103, R107 to R109, R112, R117, R133, R134: tags, the answers to parts, promotion, and what a response does to its station's entry. -/

section

namespace Sys2Proof.Machine

/-! ### Tags (R103) -/

theorem tagAfter_ne_zero (t : Byte) : tagAfter t ≠ 0#8 := by
  unfold tagAfter
  split
  · decide
  · bv_omega

theorem chooseTag_ne_zero {next : Byte} (used : List Byte) (h : next ≠ 0#8) : chooseTag next used ≠ 0#8 := by
  have hpass : ∀ t : Byte, t ≠ 0#8 → (if used.contains t then tagAfter t else t) ≠ 0#8 := fun t ht => by
    split
    · exact tagAfter_ne_zero t
    · exact ht
  exact hpass _ (hpass _ h)

theorem chooseTag_unused (next : Byte) {used : List Byte} (h : used.length ≤ 2) : chooseTag next used ∉ used := by
  match used with
  | [] => exact List.not_mem_nil
  | [a] => exact chooseTag_not_mem next (some a) none
  | [a, b] => exact chooseTag_not_mem next (some a) (some b)
  | _ :: _ :: _ :: _ => exact absurd h (by simp)

/-! ### The answers to a part (R107 to R109) -/

section
variable {u : State} {i : EntryIx} {e : Entry} {tag : Byte} {p : PartRecord} {x : SlotIx}

theorem partAnswered_passed {k : Fin 4} (st : RespStatus) (h : u.partInFlight i tag k = none) :
    partAnswered (some (.gridPart i tag k)) st u = u := by
  unfold partAnswered
  dsimp only
  rw [h]

theorem partNoResponse_passed {k : Fin 4} (h : u.partInFlight i tag k = none) : partNoResponse (some (.gridPart i tag k)) u = u := by
  unfold partNoResponse
  dsimp only
  rw [h]

/-- R107: the answers to a part in flight. -/
theorem partAnswered_held {k : Fin 4} (h : u.partInFlight i tag k = some p) :
    partAnswered (some (.gridPart i tag k)) .accepted u = partAccepted i tag p u ∧
    partAnswered (some (.gridPart i tag k)) .noRoom u = partNotTaken i p u ∧
    partAnswered (some (.gridPart i tag k)) .gridUnknown u = partNotTaken i p (bump .unexpectedStatus u) ∧
    partAnswered (some (.gridPart i tag k)) .capConflict u = withdrawIssue i u ∧
    partNoResponse (some (.gridPart i tag k)) u = partNotTaken i p (bump .partRetries u) := by
  unfold partAnswered partNoResponse
  dsimp only
  rw [h]
  exact ⟨rfl, rfl, rfl, rfl, rfl⟩

theorem freeRole_some {r : Role} (hx : u.roleSlot i r = some x) : freeRole i r u = { u with pool := u.pool.set x none } := by
  unfold freeRole
  rw [hx]
  rfl

theorem freeRole_none {r : Role} (hx : u.roleSlot i r = none) : freeRole i r u = u := by
  unfold freeRole
  rw [hx]

/-- The part with the part records of entry `i`, which is `e`, written. -/
def State.partsAs (u : State) (i : EntryIx) (e : Entry) (parts : List PartRecord) : State :=
  { u with table := u.table.set i (some { e with store := { e.store with parts := parts } }) }

theorem partsAs_entry (parts : List PartRecord) :
    (u.partsAs i e parts).entry i = some { e with store := { e.store with parts := parts } } := entry_setEntry_self i _ u

theorem modEntry_modPart {k : Fin 4} (f : PartRecord → PartRecord) (he : u.entry i = some e) :
    modEntry i (fun x => { x with store := x.store.modPart k f }) u =
      u.partsAs i e (e.store.parts.map fun y => if y.index = k then f y else y) := by
  unfold modEntry
  rw [he]
  rfl

/-- R108, R109: the part once the pending grid of entry `i`, in slot `x`, has gone with its issue. -/
def State.issueDropped (u : State) (i : EntryIx) (e : Entry) (x : SlotIx) : State :=
  leaveControl (fun c => c.partOf i)
    { u with pool := u.pool.set x none, table := u.table.set i (some { e with store := { e.store with issue := .noIssue, parts := [] } }) }

theorem endIssue_dropped (parts : List PartRecord) (hx : u.roleSlot i .rxPending = some x) :
    endIssue i .noIssue (freeRole i .rxPending (u.partsAs i e parts)) = u.issueDropped i e x := by
  rw [freeRole_some (u := u.partsAs i e parts) hx]
  refine (endIssue_left (s := { u.partsAs i e parts with pool := u.pool.set x none }) .noIssue (partsAs_entry parts)).trans ?_
  unfold State.partsAs State.issueDropped
  simp only [Vector.set_set]

theorem issueDropped_entry :
    (u.issueDropped i e x).entry i = some { e with store := { e.store with issue := .noIssue, parts := [] } } :=
  leaveControl_entry _ (entry_setEntry_self i _ { u with pool := u.pool.set x none }) rfl

/-- R108: the part once an issue has been abandoned. -/
def State.issueAbandoned (u : State) (i : EntryIx) (e : Entry) (x : SlotIx) : State :=
  if e.build.retrySpent then bump .abandonmentSuppressed (bump .issuesAbandoned (u.issueDropped i e x))
  else trigger i Causes.ofAbandonment (bump .issuesAbandoned (u.issueDropped i e x))

theorem abandonIssue_eq (parts : List PartRecord) (hx : u.roleSlot i .rxPending = some x) :
    abandonIssue i (u.partsAs i e parts) = u.issueAbandoned i e x := by
  have hentry : (bump .issuesAbandoned (u.issueDropped i e x)).entry i = _ := issueDropped_entry
  unfold abandonIssue
  rw [endIssue_dropped parts hx]
  unfold abandonmentTrigger
  rw [hentry]
  rfl

theorem partNotTaken_again (he : u.entry i = some e) (hn : p.attempts + 1 < u.settings.partRetry) :
    partNotTaken i p u = u.partsAs i e (e.store.parts.map fun y =>
      if y.index = p.index then { y with inFlight := false, attempts := p.attempts + 1 } else y) := by
  unfold partNotTaken
  dsimp only
  rw [modEntry_modPart _ he]
  exact if_neg (Nat.not_le.2 hn)

theorem partNotTaken_abandons (he : u.entry i = some e) (hx : u.roleSlot i .rxPending = some x)
    (hn : u.settings.partRetry ≤ p.attempts + 1) : partNotTaken i p u = u.issueAbandoned i e x := by
  unfold partNotTaken
  dsimp only
  rw [modEntry_modPart _ he]
  exact (if_pos hn).trans (abandonIssue_eq _ hx)

theorem withdrawIssue_eq (he : u.entry i = some e) (hx : u.roleSlot i .rxPending = some x) :
    withdrawIssue i u = bump .capConflictsReceived (u.issueDropped i e x) := by
  have hsame : u.partsAs i e e.store.parts = u := setEntry_same he
  unfold withdrawIssue
  rw [← endIssue_dropped e.store.parts hx, hsame]

/-- R107: whether every part of an entry's issue is accepted. -/
def Entry.partsAccepted (e : Entry) : Bool := e.store.parts.all fun y => y.place == .accepted

/-- R105: an offer, which goes to unplaced parts, completes no issue. -/
theorem offerLowest_partsAccepted (j : EntryIx) (u : State) :
    ((offerLowest j u).entry i).map Entry.partsAccepted = (u.entry i).map Entry.partsAccepted := by
  by_cases hij : i = j
  · subst hij
    cases he : u.entry i with
    | none => rw [offerLowest_idle (Or.inl (by rw [he]; rfl)), he]
    | some e =>
      cases hp : e.store.lowestUnplaced with
      | none => rw [offerLowest_idle (Or.inl (by rw [he]; exact hp)), he]
      | some p =>
        cases hg : u.roleGrid i .rxPending with
        | none => rw [offerLowest_idle (Or.inr hg), he]
        | some g =>
          rw [offerLowest_offers he hg hp]
          split
          · obtain ⟨hmem, hplace⟩ : p ∈ e.store.parts ∧ p.place = .unplaced :=
              ⟨List.mem_of_find?_eq_some hp, by simpa using List.find?_some hp⟩
            have hbefore : e.partsAccepted = false :=
              List.all_eq_false.2 ⟨p, hmem, by rw [hplace]; decide⟩
            have hafter : Entry.partsAccepted { e with store := e.store.modPart p.index fun q => { q with place := .onList } } = false := by
              refine List.all_eq_false.2 ⟨{ p with place := .onList }, List.mem_map.2 ⟨p, hmem, if_pos rfl⟩, ?_⟩
              dsimp only
              decide
            refine (congrArg (Option.map Entry.partsAccepted) (entry_setEntry_self i _ u)).trans ?_
            rw [Option.map_some, Option.map_some, hbefore, hafter]
          · rw [he]
  · rw [offerLowest_ne hij]

theorem leaveControl_partsAccepted (g : ControlEntry → Bool) (u : State) :
    ((leaveControl g u).entry i).map Entry.partsAccepted = (u.entry i).map Entry.partsAccepted :=
  leaveControl_induct (P := fun t => (t.entry i).map Entry.partsAccepted = (u.entry i).map Entry.partsAccepted) g u rfl rfl
    fun e t h => (offerLowest_partsAccepted e t).trans h

theorem partAccepted_eq (he : u.entry i = some e) :
    let accepted := e.store.parts.map fun y => if y.index = p.index then { y with inFlight := false, place := .accepted } else y
    let left := leaveControl (fun c => c == .gridPart i tag p.index) (u.partsAs i e accepted)
    ((∃ y ∈ accepted, y.place ≠ .accepted) → partAccepted i tag p u = left) ∧
    ((∀ y ∈ accepted, y.place = .accepted) → partAccepted i tag p u = promote i false left) := by
  intro accepted left
  have hleft : (left.entry i).map Entry.partsAccepted = some (accepted.all fun y => y.place == .accepted) := by
    refine (leaveControl_partsAccepted _ _).trans ?_
    rw [partsAs_entry]
    rfl
  have heq : partAccepted i tag p u =
      if (left.entry i).map Entry.partsAccepted = some true then promote i false left else left := by
    unfold partAccepted
    dsimp only
    rw [modEntry_modPart _ he]
    rfl
  rw [heq, hleft]
  refine ⟨fun ⟨y, hy, hne⟩ => if_neg fun hc => ?_, fun h => if_pos (congrArg some (List.all_eq_true.2 fun y hy => ?_))⟩
  · exact hne (beq_iff_eq.1 (List.all_eq_true.1 (Option.some.inj hc) y hy))
  · exact beq_iff_eq.2 (h y hy)

end

/-! ### Promotion and the loss of a TX-ACTIVE grid (R112, R117) -/

section
variable {s u : State} {i : EntryIx} {e : Entry} {x : SlotIx} {h : HeldGrid}

/-- R100: a slot held in one role is left as it is by the freeing of another role. -/
theorem freeRole_at {r q : Role} (hx : s.roleSlot i r = some x) (hq : q ≠ r) : (freeRole i q s).pool[x] = s.pool[x] := by
  cases hy : s.roleSlot i q with
  | none => rw [freeRole_none hy]
  | some y =>
    obtain ⟨g, hg, -, hrole⟩ := roleSlot_some hx
    obtain ⟨g', hg', -, hrole'⟩ := roleSlot_some hy
    have hne : x ≠ y := fun hxy => by
      subst hxy
      rw [Option.some.inj (hg.symm.trans hg'), hrole'] at hrole
      exact hq hrole
    rw [freeRole_some hy]
    exact pool_set_ne _ _ hne

theorem roleGrid_at {r : Role} (hx : s.roleSlot i r = some x) (hh : s.pool[x] = some h) : s.roleGrid i r = some h.grid := by
  unfold State.roleGrid
  rw [hx]
  dsimp only
  rw [hh]
  rfl

/-- R112, R126: the entry that holds a grid as RX-CURRENT is LINKED. -/
theorem roleSlot_ne_none {r : Role} (hx : u.pool[x] = some h) (he : h.entry = i) (hr : h.role = r) : u.roleSlot i r ≠ none :=
  fun hn => roleSlot_none hn hx he hr

theorem heardState_current (h : u.roleSlot i .rxCurrent ≠ none) : u.heardState i = .linked := by
  unfold State.heardState
  rw [Option.isSome_iff_ne_none.2 h, Bool.or_true]
  rfl

/-- R112: the part once entry `i`, which is `e`, has its pending grid `h` in slot `x` as RX-CURRENT and its issue delivered. -/
def State.grantedCurrent (s : State) (i : EntryIx) (e : Entry) (x : SlotIx) (h : HeldGrid) : State :=
  leaveControl (fun c => c.partOf i) { s with
    pool := (freeRole i .rxCurrent s).pool.set x (some { h with role := .rxCurrent })
    table := s.table.set i (some { e with store := { e.store with issue := .delivered, parts := [] } }) }

theorem freeRole_frame (r : Role) : freeRole i r s = { s with pool := (freeRole i r s).pool } := by
  unfold freeRole
  split <;> rfl

theorem promote_steps (byData : Bool) (he : s.entry i = some e) (hx : s.roleSlot i .rxPending = some x) (hh : s.pool[x] = some h) :
    promote i byData s = gridNotice i (if byData then bump .promotionsByData (bump .gridsPromoted (s.grantedCurrent i e x h))
      else bump .gridsPromoted (s.grantedCurrent i e x h)) := by
  have hslot : (freeRole i .rxCurrent s).pool[x] = some h := (freeRole_at hx (by decide)).trans hh
  have hentry : (freeRole i .rxCurrent s).entry i = some e := by
    rw [freeRole_frame]
    exact he
  have hended : endIssue i .delivered (setSlot x (some { h with role := .rxCurrent }) (freeRole i .rxCurrent s)) =
      s.grantedCurrent i e x h := by
    refine (endIssue_left (s := setSlot x (some { h with role := .rxCurrent }) (freeRole i .rxCurrent s)) .delivered hentry).trans ?_
    unfold State.grantedCurrent setSlot
    rw [freeRole_frame]
  unfold promote
  rw [hx]
  dsimp only
  rw [hslot, Option.map_some, hended]

theorem promote_spec (byData : Bool) (he : s.entry i = some e) (hx : s.roleSlot i .rxPending = some x) (hh : s.pool[x] = some h) :
    let t := promote i byData s
    let left := s.grantedCurrent i e x h
    t = { left with
      table := left.table.set i (some { e with
        store := { e.store with issue := .delivered, parts := [] }
        state := if e.state = .heard then .linked else e.state })
      counters := t.counters, evalDue := t.evalDue } ∧
    t.count .gridsPromoted = satInc (s.count .gridsPromoted) ∧
    t.count .promotionsByData = if byData then satInc (s.count .promotionsByData) else s.count .promotionsByData := by
  intro t left
  have hsteps : t = _ := promote_steps byData he hx hh
  have hcount : ∀ c, left.count c = s.count c := fun c => cnt_leave _ _
  have hpool : left.pool[x] = some { h with role := .rxCurrent } :=
    (congrArg (fun p : Vector (Option HeldGrid) 48 => p[x]) (leaveControl_pool _ _)).trans (pool_set_self _ _ _)
  obtain ⟨g, hg, hgentry, -⟩ := roleSlot_some hx
  have hentry : h.entry = i := by rw [← Option.some.inj (hg.symm.trans hh)]; exact hgentry
  have hleft : left.entry i = some { e with store := { e.store with issue := .delivered, parts := [] } } :=
    leaveControl_entry _ (entry_setEntry_self i _ { s with pool := (freeRole i .rxCurrent s).pool.set x (some { h with role := .rxCurrent }) }) rfl
  have hheard : left.heardState i = .linked := heardState_current (roleSlot_ne_none hpool hentry rfl)
  have hstate : (if e.state.present then EntryState.linked else e.state) = if e.state = .heard then .linked else e.state := by
    cases e.state <;> rfl
  have hnotice : ∀ v : State, v = { left with counters := v.counters } → gridNotice i v = { left with
      table := left.table.set i (some { e with
        store := { e.store with issue := .delivered, parts := [] }
        state := if e.state = .heard then .linked else e.state })
      counters := v.counters, evalDue := (gridNotice i v).evalDue } := fun v hv => by
    have hventry : v.entry i = some { e with store := { e.store with issue := .delivered, parts := [] } } := by
      rw [hv]
      exact hleft
    have hvheard : v.heardState i = .linked := by
      rw [hv]
      exact hheard
    rw [← hstate]
    refine (gridNotice_eq hventry).trans ?_
    rw [hvheard]
    generalize gridNotice i v = w
    rw [hv]
  cases byData with
  | false =>
    have hsteps' : t = gridNotice i (bump .gridsPromoted left) := hsteps
    rw [hsteps', hnotice (bump .gridsPromoted left) rfl]
    refine ⟨rfl, (cnt_self _ _).trans (congrArg satInc (hcount _)), (cnt_bump (by decide) _).trans (hcount _)⟩
  | true =>
    have hsteps' : t = gridNotice i (bump .promotionsByData (bump .gridsPromoted left)) := hsteps
    rw [hsteps', hnotice (bump .promotionsByData (bump .gridsPromoted left)) rfl]
    refine ⟨rfl, (cnt_bump (by decide) _).trans ((cnt_self _ _).trans (congrArg satInc (hcount _))), (cnt_self _ _).trans ?_⟩
    exact congrArg satInc ((cnt_bump (by decide) _).trans (hcount _))

/-- R126, R138: a notice of the TX-ACTIVE grid: the state that the grids give, and rates and routes. -/
theorem activeNotice_heard (he : u.entry i = some e) :
    (∃ e', (activeNotice i u).entry i = some e' ∧
      e' = { e with state := if e.state.present then u.heardState i else e.state, txRate := e'.txRate, route := e'.route }) ∧
    u.OthersKept (activeNotice i u) i := by
  have hnotice := gridNotice_eq he
  have hself : (gridNotice i u).entry i = some { e with state := if e.state.present then u.heardState i else e.state } := by
    rw [hnotice]
    exact entry_setEntry_self i _ u
  unfold activeNotice
  refine ⟨⟨_, recompute_some hself, rfl⟩, fun j hj => ?_⟩
  rw [recompute_unrouted, hnotice]
  exact congrArg (Option.map Entry.unrouted) (entry_setEntry_ne hj _ u)

theorem gridUnknownReceived_taken {tag : Byte} (hx : s.roleSlot i .txActive = some x) (hh : s.pool[x] = some h) (ht : h.grid.tag = tag) :
    gridUnknownReceived i tag s = activeNotice i (bump .gridUnknownReceived { s with pool := s.pool.set x none }) := by
  unfold gridUnknownReceived
  rw [roleGrid_at hx hh]
  dsimp only
  rw [if_pos ht, freeRole_some hx]

theorem gridUnknownReceived_passed {tag : Byte} (h : ∀ g, s.roleGrid i .txActive = some g → g.tag ≠ tag) :
    gridUnknownReceived i tag s = s := by
  unfold gridUnknownReceived
  cases hg : s.roleGrid i .txActive with
  | none => rfl
  | some g => exact if_neg (h g hg)

theorem gridUnknownReceived_spec {tag : Byte} (hp : PoolLawful s.pool) (hx : s.roleSlot i .txActive = some x) (hh : s.pool[x] = some h)
    (ht : h.grid.tag = tag) (he : s.entry i = some e) :
    ∃ t e', gridUnknownReceived i tag s = t ∧ t.entry i = some e' ∧
      e' = { e with
        state := if e.state = .linked ∧ s.roleSlot i .rxCurrent = none then .heard
                 else if e.state = .heard ∧ s.roleSlot i .rxCurrent ≠ none then .linked else e.state
        txRate := e'.txRate, route := e'.route } ∧
      t.count .gridUnknownReceived = satInc (s.count .gridUnknownReceived) ∧ s.OthersKept t i ∧
      t = { s with pool := s.pool.set x none, table := t.table, counters := t.counters, evalDue := t.evalDue } := by
  let freed : State := bump .gridUnknownReceived { s with pool := s.pool.set x none }
  have hactive : freed.roleSlot i .txActive = none := roleSlot_freed hp hx
  have hcurrent : freed.roleSlot i .rxCurrent = s.roleSlot i .rxCurrent := roleSlot_freed_ne hx (by decide)
  have hstate : (if e.state.present then freed.heardState i else e.state) =
      if e.state = .linked ∧ s.roleSlot i .rxCurrent = none then .heard
      else if e.state = .heard ∧ s.roleSlot i .rxCurrent ≠ none then .linked else e.state := by
    unfold State.heardState
    rw [hactive, hcurrent]
    cases e.state <;> cases s.roleSlot i .rxCurrent <;> simp [EntryState.present]
  obtain ⟨⟨e', hentry, he'⟩, hothers⟩ := activeNotice_heard (u := freed) he
  rw [hstate] at he'
  refine ⟨_, e', gridUnknownReceived_taken hx hh ht, hentry, he', ?_, hothers, ?_⟩
  · exact (cnt_activeNotice (by decide) _ _).trans (cnt_self _ _)
  · exact activeNotice_eq i freed

end

/-! ### What a response does to its station's entry (R33, R81, R133, R134) -/

section
variable {s : State} {i : EntryIx} {e : Entry} {w : ResponseWait} {r : RespBody}

/-- The part with entry `i` written. -/
def State.entered (s : State) (i : EntryIx) (x : Entry) : State := { s with table := s.table.set i (some x) }

theorem entered_entry (x : Entry) : (s.entered i x).entry i = some x := entry_setEntry_self i _ s

theorem setEntry_entered (x y : Entry) : setEntry i (some y) (s.entered i x) = s.entered i y := by
  unfold setEntry State.entered
  simp only [Vector.set_set]

theorem clearStreak_eq (he : s.entry i = some e) : clearStreak i s = s.entered i { e with streak := 0 } := by
  unfold clearStreak modEntry
  rw [he]
  rfl

theorem receiverOutcome_unknown (hf : s.findEntry w.receiver = none) :
    receiverOutcome w r s = if r.status = .capConflict ∧ w.kind = .grid then bump .ignoredTriggers s else s := by
  unfold receiverOutcome
  rw [hf]

theorem receiverOutcome_other (hf : s.findEntry w.receiver = some i) (he : s.entry i = some e) (hr : r.status ≠ .capConflict) :
    receiverOutcome w r s = holdByStatus i w.kind r.status (s.entered i { e with streak := 0 }) := by
  unfold receiverOutcome
  rw [hf]
  dsimp only
  rw [clearStreak_eq he]
  exact if_neg hr

theorem receiverOutcome_conflict (hf : s.findEntry w.receiver = some i) (he : s.entry i = some e) (hr : r.status = .capConflict) :
    receiverOutcome w r s = if w.kind = .grid
      then trigger i Causes.ofCapConflict (s.entered i { e with streak := 0, peerBands := r.bands })
      else s.entered i { e with streak := 0, peerBands := r.bands } := by
  unfold receiverOutcome
  rw [hf]
  dsimp only
  rw [clearStreak_eq he, hr]
  refine (if_pos rfl).trans ?_
  unfold capConflictReceived modEntry holdByStatus
  dsimp only
  rw [entered_entry]
  dsimp only
  rw [setEntry_entered]

theorem clearHold_entered {x : Entry} (hx : x.hold = none) : clearHold i (s.entered i x) = s.entered i x := by
  unfold clearHold
  rw [entered_entry]
  dsimp only
  rw [hx]
  rfl

theorem clearHold_entered_held {x : Entry} (hx : x.hold ≠ none) :
    clearHold i (s.entered i x) = recompute (s.entered i { x with hold := none }) := by
  obtain ⟨l, hl⟩ := Option.ne_none_iff_exists'.1 hx
  rw [clearHold_held (entered_entry x) hl, setEntry_entered]

theorem setHold_entered (x : Entry) : setHold i (s.entered i x) = if x.hold = none
    then recompute (bump .directHolds (s.entered i { x with hold := some (s.lineTime.plus 10000000) }))
    else s.entered i { x with hold := some (s.lineTime.plus 10000000) } := by
  unfold setHold
  rw [entered_entry]
  dsimp only
  rw [setEntry_entered]
  cases x.hold <;> rfl

end

/-- Settles O42: tags, the outcomes of a part, the control list, promotion, GRID-UNKNOWN, and a response's effect on its station's
entry. -/
theorem issueTagsAndOutcomes : Obligations.IssueTagsAndOutcomes := by
  refine ⟨fun next used hn hlen => ⟨chooseTag_ne_zero used hn, chooseTag_unused next hlen, tagAfter_ne_zero _⟩, ?_, ?_, ?_, ?_, ?_, ?_, ?_⟩
  · intro s i tag k hp
    exact ⟨fun st => partAnswered_passed st hp, partNoResponse_passed hp⟩
  · intro s i e tag k p x h he hx hh ht hp abandonment written answered again dropped abandoned
    have hflight := partInFlight_some he hx hh ht hp
    obtain rfl : p.index = k := by
      have := List.find?_some hp
      rw [Bool.and_eq_true] at this
      exact beq_iff_eq.1 this.1
    obtain ⟨haccepted, hnoRoom, hunknown, hconflict, hnone⟩ := partAnswered_held hflight
    refine ⟨fun hn => ?_, fun hn => ?_, hconflict.trans (withdrawIssue_eq he hx), ?_⟩
    · exact ⟨hnoRoom.trans (partNotTaken_again he hn), hunknown.trans (partNotTaken_again (u := bump .unexpectedStatus s) he hn),
        hnone.trans (partNotTaken_again (u := bump .partRetries s) he hn)⟩
    · exact ⟨hnoRoom.trans (partNotTaken_abandons he hx hn),
        hunknown.trans (partNotTaken_abandons (u := bump .unexpectedStatus s) he hx hn),
        hnone.trans (partNotTaken_abandons (u := bump .partRetries s) he hx hn)⟩
    · obtain ⟨hsome, hall⟩ := partAccepted_eq (tag := tag) (p := p) he
      exact ⟨fun h => haccepted.trans (hsome h), fun h => haccepted.trans (hall h)⟩
  · exact fun s gone hlen => ⟨leaveControl gone s, leaveControl_eq gone s hlen⟩
  · intro s i e x h byData he hx hh freed t heardAs ended left
    have hfreed : freed = (freeRole i .rxCurrent s).pool := (freeRole_pool i .rxCurrent s).symm
    have hleft : left = s.grantedCurrent i e x h := by
      unfold State.grantedCurrent
      rw [← hfreed]
    rw [hleft]
    exact promote_spec byData he hx hh
  · exact fun s i l => ⟨fun h => if_pos h, fun h => if_neg h, rfl⟩
  · exact fun s i tag => ⟨fun x h e hp hx hh ht he => gridUnknownReceived_spec hp hx hh ht he, gridUnknownReceived_passed⟩
  · intro s w r
    refine ⟨receiverOutcome_unknown, ?_⟩
    intro i e hf he entered capConflict
    have hother : ∀ st, r.status = st → st ≠ .capConflict →
        receiverOutcome w r s = holdByStatus i w.kind st (s.entered i { e with streak := 0 }) := fun st hst hne =>
      (receiverOutcome_other hf he (by rw [hst]; exact hne)).trans (by rw [hst])
    refine ⟨fun hr => hother _ hr (by decide), fun hr hk => (receiverOutcome_conflict hf he hr).trans (if_neg hk),
      fun hr hk => (receiverOutcome_conflict hf he hr).trans (if_pos hk),
      fun hr hh => (hother _ hr (by decide)).trans (clearHold_entered hh),
      fun hr hh => (hother _ hr (by decide)).trans (clearHold_entered_held hh), fun hr hk => ?_, fun hr hk => ?_⟩
    · refine (hother _ hr (by decide)).trans (if_neg ?_)
      rw [hk]
      decide
    · exact (hother _ hr (by decide)).trans ((if_pos hk).trans (setHold_entered _))

end Sys2Proof.Machine
end

/-! ## Proofs: the parts of a grid at its sender

R113 to R116: parts refused by the caps, taken, assembled and committed, and the RESP that answers them. -/

section

namespace Sys2Proof.Machine

section
variable {s u : State} {i : EntryIx} {e : Entry} {p : GridPart} {x : SlotIx} {h : HeldGrid} {g : Grid} {r : Role}

/-! ### The roles that a slot written gives -/

theorem roleSlot_placed {h' : HeldGrid} (hnone : ∀ j, j ≠ x → ∀ g, s.pool[j] = some g → g.entry = i → g.role ≠ r) (he : h'.entry = i)
    (hr : h'.role = r) : ({ s with pool := s.pool.set x (some h') } : State).roleSlot i r = some x := by
  unfold State.roleSlot
  refine finRange_find_only ?_ fun j hj => ?_
  · dsimp only
    rw [pool_set_self]
    simp [he, hr]
  · dsimp only
    rw [pool_set_ne _ _ hj]
    cases hg : s.pool[j] with
    | none => rfl
    | some g =>
      dsimp only
      rw [Bool.and_eq_false_iff]
      by_cases hge : g.entry = i
      · exact Or.inr (beq_eq_false_iff_ne.2 (hnone j hj g hg hge))
      · exact Or.inl (beq_eq_false_iff_ne.2 hge)

theorem roleSlot_unplaced {h' : HeldGrid} (hnone : ∀ j, j ≠ x → ∀ g, s.pool[j] = some g → g.entry = i → g.role ≠ r) (hr : h'.role ≠ r) :
    ({ s with pool := s.pool.set x (some h') } : State).roleSlot i r = none := by
  cases hy : ({ s with pool := s.pool.set x (some h') } : State).roleSlot i r with
  | none => rfl
  | some y =>
    obtain ⟨g, hg, hge, hgr⟩ := roleSlot_some hy
    have hg' : (s.pool.set x (some h'))[y] = some g := hg
    by_cases hyx : y = x
    · subst hyx
      rw [pool_set_self] at hg'
      exact absurd ((congrArg HeldGrid.role (Option.some.inj hg')).trans hgr) hr
    · rw [pool_set_ne _ _ hyx] at hg'
      exact absurd hgr (hnone y hyx g hg' hge)

/-! ### What a part meets first (R113, R114) -/

theorem level_lt_iff_bits (a b : Level) : a.val < b.val ↔ a.bits < b.bits := by revert a b; decide

/-- R85, R113: a column exceeds the caps at some carrier. -/
theorem exceedsCaps_iff {bands : List Band} {column : Column} : exceedsCaps bands column = true ↔
    ∃ (k : Nat) (l : Level), k < 768 ∧ column[k]? = some l ∧
      (let raw := ((bands.filter fun b => decide (b.first ≤ k ∧ k < b.first + b.width)).map (·.cap)).foldl min 10
       (if raw = 5 then 4 else if raw = 7 then 6 else if raw = 9 then 8 else raw) < l.bits) := by
  have hcap : ∀ (k : Nat) (l : Level), (capOf bands k).val < l.val ↔
      (let raw := ((bands.filter fun b => decide (b.first ≤ k ∧ k < b.first + b.width)).map (·.cap)).foldl min 10
       (if raw = 5 then 4 else if raw = 7 then 6 else if raw = 9 then 8 else raw) < l.bits) := fun k l => by
    rw [level_lt_iff_bits]
    unfold capOf
    rw [capLevel_bits (rawCap_le bands k), rawCap_eq_foldl]
  rw [← Bool.not_eq_false, exceedsCaps_eq_false]
  refine ⟨fun hnot => ?_, fun ⟨k, l, hk, hl, hlt⟩ hall => ?_⟩
  · refine Classical.byContradiction fun hnone => ?_
    refine hnot fun k a ha hk => Nat.not_lt.1 fun hlt => hnone ⟨k, a, hk, ha, (hcap k a).1 hlt⟩
  · exact absurd ((hcap k l).2 hlt) (Nat.not_lt.2 (hall k l hl hk))

theorem freeAssemblyIf_kept {cond : Grid → Bool} (hc : ∀ g, s.roleGrid i .txAssembling = some g → cond g = false) :
    freeAssemblyIf i cond s = s := by
  unfold freeAssemblyIf
  cases hg : s.roleGrid i .txAssembling with
  | none => rfl
  | some g => exact if_neg (by rw [hc g hg]; exact Bool.false_ne_true)

theorem freeAssemblyIf_freed {cond : Grid → Bool} (hx : s.roleSlot i .txAssembling = some x) (hh : s.pool[x] = some h)
    (hc : cond h.grid = true) : freeAssemblyIf i cond s = { s with pool := s.pool.set x none } := by
  unfold freeAssemblyIf
  rw [roleGrid_at hx hh]
  dsimp only
  rw [if_pos hc, freeRole_some hx]

theorem takePart_conflict (hcap : exceedsCaps s.settings.bands p.column = true) :
    takePart i p s = (.capConflict, bump .capConflictsSent (freeAssemblyIf i (fun g => g.tag == p.tag) s)) := if_pos hcap

theorem takePart_new (hcap : exceedsCaps s.settings.bands p.column = false)
    (hno : ∀ g, s.roleGrid i .txActive = some g → g.tag ≠ p.tag) : takePart i p s = storePart i p s := by
  unfold takePart
  rw [if_neg (by rw [hcap]; exact Bool.false_ne_true)]
  cases hg : s.roleGrid i .txActive with
  | none => rfl
  | some g => exact if_neg (hno g hg)

theorem takePart_active (hcap : exceedsCaps s.settings.bands p.column = false) (hg : s.roleGrid i .txActive = some g) (ht : g.tag = p.tag) :
    takePart i p s = if p.identical g then (.accepted, s) else storePart i p (activeNotice i (freeRole i .txActive s)) := by
  unfold takePart
  rw [if_neg (by rw [hcap]; exact Bool.false_ne_true), hg]
  exact if_pos ht

theorem sameGrid_iff : p.sameGrid g = true ↔ p.pair = g.pair ∧ p.k = g.columns.length ∧ p.map = g.map ∧ p.rate = g.rate := by
  unfold GridPart.sameGrid
  simp [and_assoc]

theorem identical_iff : p.identical g = true ↔
    (p.pair = g.pair ∧ p.k = g.columns.length ∧ p.map = g.map ∧ p.rate = g.rate) ∧ g.columns[p.index.val]? = some (some p.column) := by
  unfold GridPart.identical
  rw [Bool.and_eq_true, sameGrid_iff, beq_iff_eq, List.getD_eq_getElem?_getD]
  cases g.columns[p.index.val]? <;> simp

/-! ### Assembly and commit (R115, R116) -/

/-- R115: the assembly that a part opens or joins is of its tag and its grid. -/
theorem storePart_joined (hx : s.roleSlot i .txAssembling = some x) (hh : s.pool[x] = some h) (ht : h.grid.tag = p.tag)
    (hs : p.sameGrid h.grid = true) : storePart i p s = (.accepted, storeColumn i p x s) := by
  have hkept : freeAssemblyIf i (fun g => g.tag != p.tag || !p.sameGrid g) s = s := freeAssemblyIf_kept fun g hg => by
    rw [← Option.some.inj ((roleGrid_at hx hh).symm.trans hg), ht, hs]
    simp
  have hopen : openAssembly i p s = s := by
    unfold openAssembly
    rw [hx]
  unfold storePart
  rw [hkept, hopen]
  dsimp only
  rw [hx]

theorem storePart_refused (hx : s.roleSlot i .txAssembling = none) (hf : s.freeSlot = none) :
    storePart i p s = (.noRoom, bump .assemblyRefused s) := by
  have hkept : freeAssemblyIf i (fun g => g.tag != p.tag || !p.sameGrid g) s = s := freeAssemblyIf_kept fun g hg =>
    absurd ((roleGrid_of_none hx).symm.trans hg) nofun
  have hopen : openAssembly i p s = s := by
    unfold openAssembly
    rw [hx, hf]
  unfold storePart
  rw [hkept, hopen]
  dsimp only
  rw [hx]

theorem storePart_opens (hx : s.roleSlot i .txAssembling = none) (hf : s.freeSlot = some x) : storePart i p s = (.accepted,
    storeColumn i p x { s with pool := s.pool.set x (some { entry := i, role := .txAssembling, grid := p.newGrid s.lineTime }) }) := by
  have hkept : freeAssemblyIf i (fun g => g.tag != p.tag || !p.sameGrid g) s = s := freeAssemblyIf_kept fun g hg =>
    absurd ((roleGrid_of_none hx).symm.trans hg) nofun
  have hopen : openAssembly i p s =
      { s with pool := s.pool.set x (some { entry := i, role := .txAssembling, grid := p.newGrid s.lineTime }) } := by
    unfold openAssembly
    rw [hx, hf]
    rfl
  have hslot := roleSlot_placed (s := s) (x := x) (h' := { entry := i, role := .txAssembling, grid := p.newGrid s.lineTime })
    (fun j _ g hg hge => roleSlot_none hx hg hge) rfl rfl
  unfold storePart
  rw [hkept, hopen]
  dsimp only
  rw [hslot]

theorem storePart_freed (hx : s.roleSlot i .txAssembling = some x) (hh : s.pool[x] = some h)
    (hd : h.grid.tag ≠ p.tag ∨ ¬(p.pair = h.grid.pair ∧ p.k = h.grid.columns.length ∧ p.map = h.grid.map ∧ p.rate = h.grid.rate))
    (hn : ({ s with pool := s.pool.set x none } : State).roleSlot i .txAssembling = none) :
    storePart i p s = storePart i p { s with pool := s.pool.set x none } := by
  have hfreed : freeAssemblyIf i (fun g => g.tag != p.tag || !p.sameGrid g) s = { s with pool := s.pool.set x none } :=
    freeAssemblyIf_freed hx hh (by
      rw [Bool.or_eq_true, bne_iff_ne, Bool.not_eq_true']
      exact hd.imp id fun h => Bool.eq_false_iff.2 fun hs => h (sameGrid_iff.1 hs))
  have hkept : freeAssemblyIf i (fun g => g.tag != p.tag || !p.sameGrid g) { s with pool := s.pool.set x none } =
      { s with pool := s.pool.set x none } := freeAssemblyIf_kept fun g hg => absurd ((roleGrid_of_none hn).symm.trans hg) nofun
  unfold storePart
  rw [hfreed, hkept]

/-- R100: the grid that an entry holds in one role stays as another role's slot is freed. -/
theorem roleGrid_freed_ne {q : Role} (hx : s.roleSlot i r = some x) (hq : q ≠ r)
    (hg : ({ s with pool := s.pool.set x none } : State).roleGrid i q = some g) : s.roleGrid i q = some g := by
  cases hy : s.roleSlot i q with
  | none => exact absurd ((roleGrid_of_none ((roleSlot_freed_ne hx hq).trans hy)).symm.trans hg) nofun
  | some y =>
    obtain ⟨g', hg', -, -⟩ := roleSlot_some hy
    have hkept : (s.pool.set x none)[y] = some g' := by
      have hat := freeRole_at hy hq.symm
      rw [freeRole_some hx] at hat
      exact hat.trans hg'
    rw [roleGrid_at hy hg', ← roleGrid_at (s := { s with pool := s.pool.set x none }) ((roleSlot_freed_ne hx hq).trans hy) hkept, hg]

theorem none_mem_opened {k n : Nat} {column : Column} (hk : 2 ≤ k) : none ∈ (List.replicate k (none : Option Column)).set n (some column) := by
  refine List.mem_iff_getElem?.2 ⟨if n = 0 then 1 else 0, ?_⟩
  have hne : n ≠ if n = 0 then 1 else 0 := by split <;> omega
  have hlt : (if n = 0 then 1 else 0) < k := by split <;> omega
  rw [List.getElem?_set_ne hne, List.getElem?_replicate, if_pos hlt]

theorem whole_iff : g.whole = true ↔ none ∉ g.columns := by
  unfold Grid.whole
  rw [List.all_eq_true]
  refine ⟨fun h hn => absurd (h none hn) (by decide), fun h c hc => ?_⟩
  exact Option.isSome_iff_ne_none.2 fun hn => h (hn ▸ hc)

/-- The part with the column of part `p` stored in the assembly `h` at slot `x`. -/
def State.columnStored (u : State) (p : GridPart) (x : SlotIx) (h : HeldGrid) : State :=
  { u with pool := u.pool.set x (some { h with grid := h.grid.store p }) }

theorem storeColumn_eq (hh : u.pool[x] = some h) : storeColumn i p x u =
    if (h.grid.store p).whole then commit i (u.columnStored p x h) else u.columnStored p x h := by
  unfold storeColumn
  rw [hh]
  dsimp only [Option.map_some]
  have hslot : (setSlot x (some { h with grid := h.grid.store p }) u).pool[x] = some { h with grid := h.grid.store p } :=
    pool_set_self _ _ _
  rw [hslot]
  rfl

/-- R116: the part with the assembly `h` of entry `i`, at slot `x`, as its TX-ACTIVE grid. -/
def State.committed (u : State) (i : EntryIx) (x : SlotIx) (h : HeldGrid) : State :=
  bump .commits { u with pool := (freeRole i .txActive u).pool.set x (some { h with
    role := .txActive
    grid := { h.grid with rate := gridRate h.grid.columns h.grid.map, issueTime := u.lineTime } }) }

theorem commit_eq (hx : u.roleSlot i .txAssembling = some x) (hh : u.pool[x] = some h) : commit i u = activeNotice i (u.committed i x h) := by
  unfold commit
  rw [hx]
  dsimp only
  rw [freeRole_at hx (by decide), hh, Option.map_some, freeRole_frame]
  rfl

theorem gridRate_eq (columns : List (Option Column)) (map : Vector (Fin 4) 6) : gridRate columns map =
    ((List.finRange 6).map fun m => columnSum ((columns.getD (map[m]).val none).getD [])).sum * 125 / 32 := by
  have hsum : ∀ n : Nat, (columns.map fun c => columnSum (c.getD [])).getD n 0 = columnSum ((columns.getD n none).getD []) := fun n =>
    map_getD columns none (fun c => columnSum (c.getD [])) n
  unfold gridRate rateOf gridTotal
  simp only [hsum]

theorem committed_pool (hx : s.roleSlot i .txAssembling = some x) (hh : s.pool[x] = some h) :
    ((s.columnStored p x h).committed i x { h with grid := h.grid.store p }).pool = (freeRole i .txActive s).pool.set x (some {
      entry := h.entry, role := .txActive
      grid := { h.grid.store p with rate := gridRate (h.grid.store p).columns h.grid.map, issueTime := s.lineTime } }) := by
  have hrole : (s.columnStored p x h).roleSlot i .txActive = s.roleSlot i .txActive :=
    roleSlot_kept (h' := { h with grid := h.grid.store p }) hh rfl rfl i .txActive
  show (freeRole i .txActive (s.columnStored p x h)).pool.set x _ = _
  cases hy : s.roleSlot i .txActive with
  | none =>
    rw [freeRole_none hy, freeRole_none (hrole.trans hy)]
    exact Vector.set_set ..
  | some y =>
    have hne : x.val ≠ y.val := fun hxy => by
      have hsame := freeRole_at hx (q := .txActive) (by decide)
      rw [freeRole_some hy, ← Fin.ext hxy] at hsame
      exact absurd ((pool_set_self _ _ _).symm.trans (hsame.trans hh)) nofun
    rw [freeRole_some hy, freeRole_some (hrole.trans hy)]
    show ((s.pool.set x _).set y none).set x _ = _
    rw [Vector.set_comm _ _ hne, Vector.set_set]
    rfl

/-- R116: an assembly that a part makes whole is committed. -/
theorem takePart_commits (hcap : exceedsCaps s.settings.bands p.column = false)
    (hno : ∀ g, s.roleGrid i .txActive = some g → g.tag ≠ p.tag) (hx : s.roleSlot i .txAssembling = some x) (hh : s.pool[x] = some h)
    (ht : h.grid.tag = p.tag) (hs : p.sameGrid h.grid = true) (hwhole : none ∉ h.grid.columns.set p.index.val (some p.column)) :
    takePart i p s = (.accepted, activeNotice i ((s.columnStored p x h).committed i x { h with grid := h.grid.store p })) := by
  have hslot : (s.columnStored p x h).roleSlot i .txAssembling = some x :=
    (roleSlot_kept (h' := { h with grid := h.grid.store p }) hh rfl rfl i .txAssembling).trans hx
  rw [takePart_new hcap hno, storePart_joined hx hh ht hs, storeColumn_eq hh, if_pos (whole_iff.2 hwhole),
    commit_eq hslot (pool_set_self _ _ _)]

theorem takePart_commits_spec (hcap : exceedsCaps s.settings.bands p.column = false)
    (hno : ∀ g, s.roleGrid i .txActive = some g → g.tag ≠ p.tag) (hx : s.roleSlot i .txAssembling = some x) (hh : s.pool[x] = some h)
    (ht : h.grid.tag = p.tag) (hs : p.sameGrid h.grid = true) (hwhole : none ∉ h.grid.columns.set p.index.val (some p.column))
    (he : s.entry i = some e) :
    ∃ t e', takePart i p s = (.accepted, t) ∧
      t.pool = (freeRole i .txActive s).pool.set x (some { entry := i, role := .txActive, grid :=
        { h.grid with
          columns := h.grid.columns.set p.index.val (some p.column)
          rate := gridRate (h.grid.columns.set p.index.val (some p.column)) h.grid.map
          issueTime := s.lineTime } }) ∧
      t.entry i = some e' ∧
      e' = { e with state := if e.state = .heard then .linked else e.state, txRate := e'.txRate, route := e'.route } ∧
      s.OthersKept t i ∧ t.count .commits = satInc (s.count .commits) ∧
      t = { s with pool := t.pool, table := t.table, counters := t.counters, evalDue := t.evalDue } := by
  have htaken := takePart_commits hcap hno hx hh ht hs hwhole
  have hpool := committed_pool (p := p) hx hh
  obtain ⟨g, hg, hge, -⟩ := roleSlot_some hx
  have hentry : h.entry = i := (congrArg HeldGrid.entry (Option.some.inj (hh.symm.trans hg))).trans hge
  have hactive : ((s.columnStored p x h).committed i x { h with grid := h.grid.store p }).roleSlot i .txActive ≠ none :=
    roleSlot_ne_none ((congrArg (fun v : Vector (Option HeldGrid) 48 => v[x]) hpool).trans (pool_set_self _ _ _)) hentry rfl
  have hcount : ((s.columnStored p x h).committed i x { h with grid := h.grid.store p }).count .commits = satInc (s.count .commits) :=
    cnt_self _ _
  have hframe : (s.columnStored p x h).committed i x { h with grid := h.grid.store p } = { s with
      pool := ((s.columnStored p x h).committed i x { h with grid := h.grid.store p }).pool
      counters := ((s.columnStored p x h).committed i x { h with grid := h.grid.store p }).counters } := rfl
  generalize (s.columnStored p x h).committed i x { h with grid := h.grid.store p } = v at *
  have hventry : v.entry i = some e := by
    rw [hframe]
    exact he
  obtain ⟨⟨e', he', hspec⟩, hothers⟩ := activeNotice_entry hventry hactive
  have hnotice := activeNotice_eq i v
  refine ⟨activeNotice i v, e', htaken, ?_, he', hspec, fun j hj => ?_, (cnt_activeNotice (by decide) _ _).trans hcount, ?_⟩
  · rw [hnotice]
    rw [hentry] at hpool
    exact hpool
  · refine (hothers j hj).trans ?_
    rw [hframe]
    rfl
  · generalize activeNotice i v = t at *
    rw [hnotice, hframe]

theorem gridRate_single {column : Column} {map : Vector (Fin 4) 6} (hmap : ∀ m : MainsSlot, (map[m]).val < 1) :
    gridRate [some column] map = columnSum column * 6 * 125 / 32 := by
  have hslot : ∀ m ∈ List.finRange 6, columnSum (([some column].getD (map[m]).val none).getD []) = columnSum column := fun m _ => by
    rw [Nat.lt_one_iff.1 (hmap m)]
    rfl
  rw [gridRate_eq, List.map_congr_left hslot, List.map_const', List.sum_replicate_nat, List.length_finRange, Nat.mul_comm 6]

/-- R115, R116: the slot of the one column of part `p`, in a role, with a rate and an issue time. -/
def GridPart.single (p : GridPart) (i : EntryIx) (r : Role) (rate : Nat) (now : LineTime) : HeldGrid :=
  { entry := i, role := r, grid :=
    { tag := p.tag, pair := p.pair, map := p.map, columns := [some p.column], rate := rate, issueTime := now } }

/-- R115: the one part of a grid of one column makes its assembly whole. -/
theorem takePart_single (hk : p.k = 1) (hindex : p.index.val < 1) (hcap : exceedsCaps s.settings.bands p.column = false)
    (ha : s.roleSlot i .txActive = none) (hx : s.roleSlot i .txAssembling = none) (hf : s.freeSlot = some x) :
    takePart i p s = (.accepted, commit i { s with pool := s.pool.set x (some (p.single i .txAssembling p.rate s.lineTime)) }) := by
  have hset : (List.replicate p.k (none : Option Column)).set p.index.val (some p.column) = [some p.column] := by
    rw [hk, Nat.lt_one_iff.1 hindex]
    rfl
  have hstore : (p.newGrid s.lineTime).store p = (p.single i .txAssembling p.rate s.lineTime).grid :=
    congrArg (fun l => { p.newGrid s.lineTime with columns := l }) hset
  rw [takePart_new hcap fun g hg => absurd ((roleGrid_of_none ha).symm.trans hg) nofun, storePart_opens hx hf,
    storeColumn_eq (pool_set_self _ _ _)]
  unfold State.columnStored
  dsimp only
  rw [hstore, if_pos (whole_iff.2 (by simp [GridPart.single])), Vector.set_set]
  rfl

/-- R116: the commit of an assembly of one column, the only slot of its entry toward the neighbour. -/
theorem commit_single {rate : Nat} (ha : s.roleSlot i .txActive = none) (hx : s.roleSlot i .txAssembling = none)
    (hmap : ∀ m : MainsSlot, (p.map[m]).val < 1) :
    let t := commit i { s with pool := s.pool.set x (some (p.single i .txAssembling rate s.lineTime)) }
    t.pool = s.pool.set x (some (p.single i .txActive (columnSum p.column * 6 * 125 / 32) s.lineTime)) ∧
    t.count .commits = satInc (s.count .commits) := by
  intro t
  have hslot : ({ s with pool := s.pool.set x (some (p.single i .txAssembling rate s.lineTime)) } : State).roleSlot i .txAssembling = some x :=
    roleSlot_placed (fun j _ g hg hge => roleSlot_none hx hg hge) rfl rfl
  have hnone : ({ s with pool := s.pool.set x (some (p.single i .txAssembling rate s.lineTime)) } : State).roleSlot i .txActive = none :=
    roleSlot_unplaced (fun j _ g hg hge => roleSlot_none ha hg hge) (show Role.txAssembling ≠ Role.txActive by decide)
  have hcommit := commit_eq hslot (pool_set_self _ _ _)
  have hrate := gridRate_single (column := p.column) hmap
  refine ⟨?_, (congrArg (fun u : State => u.count .commits) hcommit).trans ((cnt_activeNotice (by decide) _ _).trans (cnt_self _ _))⟩
  rw [show t = _ from hcommit, activeNotice_eq]
  unfold State.committed
  rw [freeRole_none hnone]
  show (s.pool.set x _).set x _ = _
  rw [Vector.set_set]
  unfold GridPart.single
  rw [← hrate]

theorem takePart_single_spec (hp : p.Lawful) (hk : p.k = 1) (hcap : exceedsCaps s.settings.bands p.column = false)
    (ha : s.roleSlot i .txActive = none) (hx : s.roleSlot i .txAssembling = none) (hf : s.freeSlot = some x) :
    (takePart i p s).1 = .accepted ∧
    (takePart i p s).2.roleGrid i .txActive =
      some (p.single i .txActive (columnSum p.column * 6 * 125 / 32) s.lineTime).grid ∧
    (takePart i p s).2.roleSlot i .txAssembling = none ∧
    (takePart i p s).2.count .commits = satInc (s.count .commits) := by
  obtain ⟨-, -, -, hindex, hmap, -, -, -⟩ := hp
  rw [hk] at hindex hmap
  rw [takePart_single hk hindex hcap ha hx hf]
  obtain ⟨hpool, hcount⟩ := commit_single (rate := p.rate) (x := x) ha hx hmap
  generalize commit i { s with pool := s.pool.set x (some (p.single i .txAssembling p.rate s.lineTime)) } = t at *
  generalize columnSum p.column * 6 * 125 / 32 = rate at *
  have hactive : t.roleSlot i .txActive = some x :=
    (roleSlot_congr (v := { s with pool := s.pool.set x (some (p.single i .txActive rate s.lineTime)) }) hpool i _).trans
      (roleSlot_placed (fun j _ g hg hge => roleSlot_none ha hg hge) rfl rfl)
  have hheld : t.pool[x] = some (p.single i .txActive rate s.lineTime) := by
    rw [hpool]
    exact pool_set_self _ _ _
  refine ⟨rfl, roleGrid_at hactive hheld, ?_, hcount⟩
  exact (roleSlot_congr (v := { s with pool := s.pool.set x (some (p.single i .txActive rate s.lineTime)) }) hpool i _).trans
    (roleSlot_unplaced (fun j _ g hg hge => roleSlot_none hx hg hge) (show Role.txActive ≠ Role.txAssembling by decide))

end

/-- R32, R113 to R116: a valid GRID part at its frame end is taken and answered. -/
theorem gridEnd_taken {u : State} {h : Header} {i : EntryIx} {p : GridPart} {payload : List Byte} (hf : u.findEntry h.tx = some i)
    (hp : readGridPart payload = some p) : gridEnd h payload u = setResp (some {
      status := (takePart i p u).1, entries := [],
      bands := if (takePart i p u).1 = .capConflict then some u.settings.bands else none }) (takePart i p u).2 := by
  unfold gridEnd
  rw [hf, hp]
  dsimp only
  rw [((Inner.refl u).takePart i p).settings]

/-- Settles O43: a part by what it meets: the caps, the TX-ACTIVE grid, the assembly; its commit; and its answer at the frame end. -/
theorem partsAssembledAndCommitted : Obligations.PartsAssembledAndCommitted := by
  refine ⟨fun s i e p k he hp hk hcap ha hx hf => takePart_single_spec hp hk hcap ha hx hf, fun bands column => exceedsCaps_iff, ?_, ?_, ?_⟩
  · intro s i p hcap
    rw [takePart_conflict hcap]
    refine ⟨fun g hg ht => ?_, fun hx => ?_, fun x h hx hh ht => ?_⟩
    · rw [freeAssemblyIf_kept fun g' hg' => ?_]
      rw [← Option.some.inj (hg.symm.trans hg')]
      exact beq_eq_false_iff_ne.2 ht
    · rw [freeAssemblyIf_kept fun g hg => absurd ((roleGrid_of_none hx).symm.trans hg) nofun]
    · rw [freeAssemblyIf_freed (cond := fun g => g.tag == p.tag) hx hh (beq_iff_eq.2 ht)]
  · intro s i p hpool hcap same
    refine ⟨fun x h hx hh ht => ?_, fun hno => ⟨?_, fun hx hf => ?_, fun x hx hf hk => ?_, fun x h hx hh ht hs => ?_⟩⟩
    · have hactive := takePart_active hcap (roleGrid_at hx hh) ht
      refine ⟨fun hs hc => hactive.trans (if_pos (identical_iff.2 ⟨hs, hc⟩)), fun hd => ?_⟩
      intro t
      have hnone : t.roleSlot i .txActive = none :=
        (roleSlot_congr (by rw [show t = _ from activeNotice_eq i _]) i .txActive).trans (roleSlot_freed hpool hx)
      have hcap' : exceedsCaps t.settings.bands p.column = false := by
        rw [show t = _ from activeNotice_eq i _]
        exact hcap
      refine ⟨?_, hnone⟩
      rw [takePart_new hcap' fun g hg => absurd ((roleGrid_of_none hnone).symm.trans hg) nofun]
      refine hactive.trans ((if_neg fun hi => ?_).trans (by rw [freeRole_some hx]))
      obtain ⟨hs, hc⟩ := identical_iff.1 hi
      exact hd.elim (fun h => h hs) fun h => h hc
    · intro x h hx hh hd t
      have hnone : t.roleSlot i .txAssembling = none := roleSlot_freed hpool hx
      refine ⟨?_, hnone⟩
      rw [takePart_new hcap hno, takePart_new (s := t) hcap fun g hg => hno g (roleGrid_freed_ne hx (by decide) hg)]
      exact storePart_freed hx hh hd hnone
    · exact (takePart_new hcap hno).trans (storePart_refused hx hf)
    · rw [takePart_new hcap hno, storePart_opens hx hf, storeColumn_eq (pool_set_self _ _ _),
        if_neg fun hw => whole_iff.1 hw (none_mem_opened hk)]
      unfold State.columnStored
      dsimp only
      rw [Vector.set_set]
      rfl
    · have hsame : p.sameGrid h.grid = true := sameGrid_iff.2 hs
      refine ⟨fun hn => ?_, fun e hn he => ?_⟩
      · rw [takePart_new hcap hno, storePart_joined hx hh ht hsame, storeColumn_eq hh, if_neg fun hw => whole_iff.1 hw hn]
        rfl
      · have hspec := takePart_commits_spec hcap hno hx hh ht hsame hn he
        rw [gridRate_eq, freeRole_pool] at hspec
        exact hspec
  · intro s r h x d i p payload readings hl hr hrec hh hnow hm hd hk hf hp taken answer
    have hmac : taken.2.mac = s.mac := ((Inner.refl s.closed).takePart i p).mac
    have hduty : taken.2.mac.duty = some d := (congrArg Mac.duty hmac).trans hd
    rw [exec_frameEnd_taken payload readings hl hrec hh (by rw [hk]; decide) hnow (by rw [hm]; decide), nextStep_processed (Or.inr hk),
      handOn_grid _ _ hk, gridEnd_taken (u := s.closed) hf hp]
    refine congrArg (fun t => Host.Outcome.next (settle s.txCharge t)) ((answerOrGap_answered answer hduty).trans ?_)
    rw [hmac]

end Sys2Proof.Machine
end

/-! ## Proofs: contention slots and the transmit instant

R44, R46, R55, R56: the end of a contention slot, the thermal test and the frame formed of each kind; R30, R148 to R151: the segments of a
DATA frame. -/

section

namespace Sys2Proof.Machine

/-! ### The end of a contention slot (R44) -/

section
variable {s u t : State} {preamble : Bool}

theorem exec_contentionSlotEnd (preamble : Bool) (hl : s.Live) (hm : s.mac.state = .backoff)
    (hd : (s.mac.periodStart.plus 80).dist s.lineTime ≠ 0) (h40 : (s.mac.periodStart.plus 80).dist s.lineTime % 40 = 0) :
    exec (.contentionSlotEnd preamble) s = .next (settle s.txCharge (endContentionSlot preamble s)) :=
  live_due (b := State.contentionSlot) (f := settled (endContentionSlot preamble)) hl (State.contentionSlot_iff.2 ⟨hm, hd, h40⟩)

theorem endContentionSlot_tone (ht : s.mac.toneHeard = true) : endContentionSlot preamble s =
    { taken (.contentionSlotEnd false) s with mac := { s.mac with toneHeard := false } } := if_pos ht

theorem endContentionSlot_quiet (ht : s.mac.toneHeard = false) {n : Nat} (hn : s.mac.backoff = some n) : endContentionSlot preamble s =
    if n ≤ 1 then
      if preamble then taken (.contentionSlotEnd false) s
      else transmit { taken (.contentionSlotEnd false) s with mac := { s.mac with backoff := some 0 } }
    else { taken (.contentionSlotEnd false) s with mac := { s.mac with backoff := some (n - 1) } } := by
  have hquiet : ¬(taken (.contentionSlotEnd false) s).mac.toneHeard = true := by
    rw [show (taken (.contentionSlotEnd false) s).mac.toneHeard = false from ht]
    exact Bool.false_ne_true
  have hbackoff : (taken (.contentionSlotEnd false) s).mac.backoff = some n := hn
  unfold endContentionSlot
  refine (if_neg hquiet).trans ?_
  rw [hbackoff]
  rfl

end

/-! ### The transmit instant (R46, R55, R56) -/

section
variable {s u t : State} {c : Candidate} {x : ControlEntry} {f : TxFrame} {n : EntryIx} {source : Option QueueIx} {prio : Fin 4}

/-- R46: the part once a frame does not fit: a tone watch with the thermal wait set. -/
def State.unfit (u : State) : State :=
  bump .thermalDeferral { u with mac := { u.mac with
    state := .deferring, candidate := none, gap := some (.toneWatch (u.lineTime.plus 10320)), thermalWait := true } }

/-- R46, R55: the part once a frame has been handed over. -/
def State.handedOver (t : State) (k : SentKind) (f : TxFrame) : State :=
  bump (.framesSent k) { t with
    mac := { t.mac with state := .sending, candidate := none }
    line := { t.line with sending := some f }
    thermal := { t.thermal with used := t.thermal.used + f.header.duration } }

/-- R55: the airtime charged is the length of the frame. -/
theorem handedOver_eq {k : SentKind} {airtime : Nat} (h : f.header.duration = airtime) : t.handedOver k f =
    bump (.framesSent k) { t with
      mac := { t.mac with state := .sending, candidate := none }
      line := { t.line with sending := some f }
      thermal := { t.thermal with used := t.thermal.used + airtime } } := by
  rw [← h]
  rfl

theorem sendFrame_eq {k : SentKind} (hk : f.header.kind.sentKind = some k) : sendFrame f t = t.handedOver k f := by
  unfold sendFrame
  dsimp only
  rw [hk]
  rfl

theorem airtimeFits_of {airtime : Nat} (h : s.thermal.limited = false ∨ airtime ≤ s.remaining) : s.airtimeFits airtime = true := by
  unfold State.airtimeFits
  rcases h with h | h <;> simp [h]

theorem airtimeFits_short {airtime : Nat} (hl : s.thermal.limited = true) (h : s.remaining < airtime) : s.airtimeFits airtime = false := by
  unfold State.airtimeFits
  simp [hl, h]

theorem transmit_unfit (hc : s.mac.candidate = some c) (hk : c.kind = .control x) (hm : x ∈ s.control)
    (hf : (gatherControl x s).airtimeFits ((gatherControl x s).controlAirtime x) = false) :
    transmit s = (gatherControl x s).unfit := by
  unfold transmit
  rw [hc]
  dsimp only
  rw [hk]
  dsimp only
  rw [if_pos (List.contains_iff_mem.2 hm), hf]
  rfl

theorem transmit_formed {k : SentKind} (hc : s.mac.candidate = some c) (hk : c.kind = .control x) (hm : x ∈ s.control)
    (hf : (gatherControl x s).airtimeFits ((gatherControl x s).controlAirtime x) = true)
    (hform : formControl x (gatherControl x s) = some (f, t)) (hkind : f.header.kind.sentKind = some k) :
    transmit s = t.handedOver k f := by
  unfold transmit
  rw [hc]
  dsimp only
  rw [hk]
  dsimp only
  rw [if_pos (List.contains_iff_mem.2 hm), if_pos hf, hform]
  exact sendFrame_eq hkind

/-- R106: part `k` of a grid. -/
def Grid.part (g : Grid) (k : Fin 4) : GridPart where
  tag := g.tag
  k := g.columns.length
  index := k
  pair := g.pair
  map := g.map
  rate := g.rate
  column := (g.columns.getD k.val none).getD []

/-- R106: the GRID frame of a part on the list. -/
theorem formGridPart_eq {i : EntryIx} {tag : Byte} {k : Fin 4} {e : Entry} {g : Grid} (he : s.entry i = some e)
    (hg : s.roleGrid i .rxPending = some g) :
    formGridPart i tag k s = some (s.frame (s.header .grid e.addr s.settings.homePair 3 13)
        (Loading.robust.fill 13 (gridPartBytes (g.part k))) .robust (some (.gridPart i tag k)),
      s.partsAs i e (e.store.parts.map fun y => if y.index = k then { y with inFlight := true } else y)) := by
  unfold formGridPart
  rw [he, hg]
  dsimp only
  rw [modEntry_modPart _ he]
  rfl

/-! ### NOTE frames (R140) -/

/-- What two runs of increments leave unchanged. -/
theorem bumpBy_bumpBy (c d : Counter) (m n : Nat) (s : State) :
    bumpBy c m (bumpBy d n s) = { s with counters := (bumpBy c m (bumpBy d n s)).counters } := by
  have hinner := bumpBy_eq d n s
  generalize bumpBy d n s = v at *
  have houter := bumpBy_eq c m v
  generalize bumpBy c m v = w at *
  rw [houter, hinner]

theorem gatherNote_frame (s : State) : gatherNote s =
    { s with table := (gatherNote s).table, counters := (gatherNote s).counters } := by
  have hgathered := gatherNote_eq s
  rw [bumpBy_bumpBy] at hgathered
  generalize gatherNote s = v at *
  rw [hgathered]

/-- R140: the NOTE frame formed, from the part before its cells are aged. -/
theorem formNote_gathered (s : State) : formNote (gatherNote s) =
    s.frame (s.header .note Addr.broadcast s.settings.homePair 3 s.noteSymbols)
      (Loading.robust.fill s.noteSymbols (noteBytes (gatherNote s).noteContents)) .robust (some .note) := by
  unfold formNote
  rw [gatherNote_symbols]
  have hframe := gatherNote_frame s
  generalize (gatherNote s).noteContents = contents
  generalize gatherNote s = v at *
  rw [hframe]
  rfl

/-! ### DATA frames (R30, R150) -/

theorem transmit_resends (hc : s.mac.candidate = some { kind := .resends n, priority := prio }) (hp : s.present n = true) :
    transmit s = transmitData n none prio s := by
  unfold transmit
  rw [hc]
  exact if_pos hp

theorem transmit_head {q : QueueIx} {m : EntryIx} {h : HostFrame} {rest : List HostFrame}
    (hc : s.mac.candidate = some { kind := .queueHead q m, priority := prio }) (hq : s.queues[q] = h :: rest) (hn : s.nextHop h = some n) :
    transmit s = transmitData n (some q) prio s := by
  have hfound : s.findEntry h.final ≠ none := fun hnone => by
    unfold State.nextHop at hn
    rw [hnone] at hn
    exact absurd hn nofun
  unfold transmit
  rw [hc]
  dsimp only
  rw [dropUnreachable_known hq hfound, hq, List.head?_cons, Option.bind_some, hn]

theorem transmit_empty {q : QueueIx} {m : EntryIx} (hc : s.mac.candidate = some { kind := .queueHead q m, priority := prio })
    (hq : s.queues[q] = []) : transmit s = candidateGone s := by
  unfold transmit
  rw [hc]
  dsimp only
  rw [dropUnreachable_empty hq, hq]
  rfl

theorem transmitData_gone (h : s.firstOffered n source = none) : transmitData n source prio s = candidateGone s := by
  unfold transmitData
  rw [h]

theorem transmitData_waits {len : Nat} (h : s.firstOffered n source = some len) (hl : s.symbolLimit = none) :
    transmitData n source prio s = s.unfit := by
  unfold transmitData
  rw [h, hl]
  rfl

theorem transmitData_none {len limit : Nat} (h : s.firstOffered n source = some len) (hl : s.symbolLimit = some limit)
    (hc : composeData n source prio limit len s = none) : transmitData n source prio s = s.unfit := by
  unfold transmitData
  rw [h, hl]
  dsimp only
  rw [hc]
  rfl

theorem composeData_kind {limit len : Nat} (h : composeData n source prio limit len s = some (f, t)) : f.header.kind = .data := by
  unfold composeData at h
  dsimp only at h
  split at h
  · exact absurd h nofun
  · split at h
    · exact absurd h nofun
    · split at h
      · exact absurd h nofun
      · obtain ⟨hf, -⟩ := Prod.mk.inj (Option.some.inj h)
        rw [← hf]
        rfl

theorem transmitData_sent {len limit : Nat} (h : s.firstOffered n source = some len) (hl : s.symbolLimit = some limit)
    (hc : composeData n source prio limit len s = some (f, t)) : transmitData n source prio s = t.handedOver .data f := by
  unfold transmitData
  rw [h, hl]
  dsimp only
  rw [hc]
  exact sendFrame_eq (by rw [composeData_kind hc]; rfl)

theorem data_duration (hk : f.header.kind = .data) : f.header.duration = 192 + 32 * f.header.symbols := by
  unfold Header.duration Header.payloadSymbols
  rw [if_neg (by rw [hk]; decide)]

theorem symbolLimit_of {limit : Nat} (h : (s.thermal.limited = false ∧ limit = 96) ∨
    (s.thermal.limited = true ∧ 224 ≤ s.remaining ∧ limit = min 96 ((s.remaining - 192) / 32))) : s.symbolLimit = some limit := by
  unfold State.symbolLimit
  rcases h with ⟨hl, rfl⟩ | ⟨hl, hr, rfl⟩
  · rw [if_neg (by rw [hl]; exact Bool.false_ne_true)]
    rfl
  · rw [if_pos hl, if_neg (Nat.not_lt.2 hr)]
    rfl

theorem symbolLimit_none (hl : s.thermal.limited = true) (hr : s.remaining < 224) : s.symbolLimit = none := by
  unfold State.symbolLimit
  rw [if_pos hl, if_pos hr]

/-! ### The segments offered and taken (R148 to R150) -/

theorem firstOffered_marked {e : Entry} {y : UnackedSegment} {rest : List UnackedSegment} (he : s.entry n = some e)
    (hm : e.tx.marked = y :: rest) : s.firstOffered n source = some y.len := by
  unfold State.firstOffered
  rw [he]
  dsimp only
  rw [hm]
  rfl

theorem firstOffered_resends {e : Entry} (he : s.entry n = some e) (hm : e.tx.marked = []) : s.firstOffered n none = none := by
  unfold State.firstOffered
  rw [he]
  dsimp only
  rw [hm]
  rfl

theorem firstOffered_empty {e : Entry} {q : QueueIx} (he : s.entry n = some e) (hm : e.tx.marked = []) (hq : s.queues[q] = []) :
    s.firstOffered n (some q) = none := by
  unfold State.firstOffered
  rw [he]
  dsimp only
  rw [hm, hq]
  rfl

theorem firstOffered_head {e : Entry} {q : QueueIx} {h : HostFrame} {rest : List HostFrame} (he : s.entry n = some e) (hm : e.tx.marked = [])
    (hq : s.queues[q] = h :: rest) : s.firstOffered n (some q) =
      if s.nextHop h = some n ∧ e.tx.windowRoom h.pieces = true then some (h.piece 0).length else none := by
  unfold State.firstOffered
  rw [he]
  dsimp only
  rw [hm, hq]
  rfl

theorem windowRoom_empty {t : TxState} (h : t.unacked = []) (q : Nat) : t.windowRoom q = true := by
  unfold TxState.windowRoom TxState.oldest
  rw [h]
  rfl

theorem windowRoom_iff {t : TxState} {y : UnackedSegment} {rest : List UnackedSegment} (h : t.unacked = y :: rest) (q : Nat) :
    t.windowRoom q = true ↔ (t.next - y.seq).toNat + q ≤ 32 := by
  unfold TxState.windowRoom TxState.oldest
  rw [h]
  exact decide_eq_true_iff

section
variable {l : Loading} {cap fuel : Nat} {q : QueueIx} {k : Taking} {e : Entry} {h : HostFrame} {rest : List HostFrame}

/-- R149: the pieces of a host frame as segments numbered from the next sequence of `t`. -/
def TxState.piecesOf (t : TxState) (f : HostFrame) : List UnackedSegment :=
  (List.range f.pieces).map fun i =>
    { seq := t.next + BitVec.ofNat 12 i, frameId := f.id, piece := i, len := (f.piece i).length, attempts := 0, marked := true }

/-- R150: the taking `k` with what `more` adds to it. -/
def Taking.joined (k more : Taking) : Taking := { taken := k.taken ++ more.taken, bits := more.bits, stopped := more.stopped }

theorem takeHeads_passed (he : s.entry n = some e) (hq : s.queues[q] = h :: rest)
    (hno : s.nextHop h ≠ some n ∨ e.tx.windowRoom h.pieces = false) : takeHeads l cap q n (fuel + 1) k s = (k, s) := by
  unfold takeHeads
  rw [hq]
  dsimp only
  rw [he]
  refine if_neg fun hc => ?_
  exact hno.elim (fun hn => hn hc.1) fun hw => Bool.false_ne_true (hw.symm.trans hc.2)

/-- R149: the part with the head `h` of queue `q` numbered for entry `n`. -/
def State.headNumbered (s : State) (q : QueueIx) (n : EntryIx) (e : Entry) (h : HostFrame) (rest : List HostFrame) : State :=
  { s with
    queues := s.queues.set q rest
    table := s.table.set n (some { e with tx := e.tx.number h })
    evalDue := true }

theorem setQueue_number (he : s.entry n = some e) :
    setQueue q rest (modTx n (fun x => x.number h) s) = s.headNumbered q n e h rest := by
  unfold modTx
  rw [he]
  dsimp only
  split <;> rfl

theorem takeHeads_offered (he : s.entry n = some e) (hq : s.queues[q] = h :: rest) (hn : s.nextHop h = some n)
    (hw : e.tx.windowRoom h.pieces = true) :
    let more := takeSegments l cap k.taken.length k.bits (e.tx.piecesOf h)
    takeHeads l cap q n (fuel + 1) k s =
      if more.taken.isEmpty then (k.joined more, s)
      else if more.stopped.isSome then (k.joined more, s.headNumbered q n e h rest)
      else takeHeads l cap q n fuel (k.joined more) (s.headNumbered q n e h rest) := by
  intro more
  have hpieces : (e.tx.number h).unacked.drop e.tx.unacked.length = e.tx.piecesOf h := number_added e.tx h
  conv => lhs; unfold takeHeads
  rw [hq]
  dsimp only
  rw [he]
  dsimp only
  rw [if_pos ⟨hn, hw⟩, hpieces, setQueue_number he]
  rfl

end

end

section
variable {s : State}

theorem gathered_airtime (s : State) (n : Nat) : (gatherNote s).airtimeFits n = s.airtimeFits n := by
  have hframe := gatherNote_frame s
  generalize gatherNote s = v at *
  rw [hframe]
  rfl

theorem gathered_controlAirtime (s : State) : (gatherNote s).controlAirtime .note = 192 + 32 * s.noteSymbols := by
  show 192 + 32 * (gatherNote s).noteSymbols = _
  rw [gatherNote_symbols]

/-- R140: the payload symbols of a NOTE, by the bands and the entries it lists. -/
theorem noteSymbols_eq (s : State) : s.noteSymbols = (8 + 3 * s.settings.bands.length +
    11 * min 23 (((List.finRange 24).filterMap s.entry).filter fun e => e.state == .heard || e.state == .linked).length + 23) / 24 := by
  unfold State.noteSymbols
  rw [heardEntries_eq]
  rfl

/-- R46: a part in which the test of the airtime fails after the gathering stands in the same tone watch. -/
theorem gathered_unfit (s : State) : (gatherNote s).unfit = bump .thermalDeferral { gatherNote s with mac := { s.mac with
    state := .deferring, candidate := none, gap := some (.toneWatch (s.lineTime.plus 10320)), thermalWait := true } } := by
  have hframe := gatherNote_frame s
  generalize gatherNote s = v at *
  rw [hframe]
  rfl

/-- R46, R140: a NOTE that fits is handed over from the part gathered. -/
theorem transmit_note {prio : Fin 4} (hc : s.mac.candidate = some { kind := .control .note, priority := prio }) (hm : .note ∈ s.control)
    (hf : s.airtimeFits (192 + 32 * s.noteSymbols) = true) : transmit s =
      (gatherNote s).handedOver .note (s.frame (s.header .note Addr.broadcast s.settings.homePair 3 s.noteSymbols)
        (Loading.robust.fill s.noteSymbols (noteBytes (gatherNote s).noteContents)) .robust (some .note)) := by
  rw [← formNote_gathered]
  refine transmit_formed hc rfl hm ?_ rfl rfl
  show (gatherNote s).airtimeFits ((gatherNote s).controlAirtime .note) = true
  rw [gathered_airtime, gathered_controlAirtime, hf]

/-- R46, R106: a GRID part that fits is handed over, marked in flight. -/
theorem transmit_grid {prio : Fin 4} {i : EntryIx} {tag : Byte} {k : Fin 4} {e : Entry} {g : Grid}
    (hc : s.mac.candidate = some { kind := .control (.gridPart i tag k), priority := prio }) (hm : .gridPart i tag k ∈ s.control)
    (hf : s.airtimeFits 608 = true) (he : s.entry i = some e) (hg : s.roleGrid i .rxPending = some g) : transmit s =
      (s.partsAs i e (e.store.parts.map fun y => if y.index = k then { y with inFlight := true } else y)).handedOver .grid
        (s.frame (s.header .grid e.addr s.settings.homePair 3 13)
          (gridPartBytes (g.part k) ++ List.replicate (24 * 13 - (gridPartBytes (g.part k)).length) 0#8) .robust
          (some (.gridPart i tag k))) := by
  rw [← robust_fill]
  exact transmit_formed hc rfl hm hf (formGridPart_eq he hg) rfl

theorem takeOffered_some (l : Loading) (cap : Nat) (n : EntryIx) (q : QueueIx) (marked : List UnackedSegment) (s : State) :
    takeOffered l cap n (some q) marked s =
      if (takeSegments l cap 0 0 marked).stopped = none then takeHeads l cap q n 9 (takeSegments l cap 0 0 marked) s
      else (takeSegments l cap 0 0 marked, s) := by
  unfold takeOffered
  dsimp only
  cases (takeSegments l cap 0 0 marked).stopped <;> rfl

theorem isFloor_iff (l : Loading) : l.isFloor = true ↔ ∃ g, l = .floor g := by
  cases l <;> simp [Loading.isFloor]

end

/-- Settles O33: the end of a contention slot, the transmit instant by the candidate's kind, the segments offered and taken, and the DATA
frame composed of them. -/
theorem contentionAndTransmission : Obligations.ContentionAndTransmission := by
  refine ⟨?_, ?_, ?_, ?_, ?_, ?_, ?_, ?_⟩
  · intro s preamble hl hr hm hd h40 answer
    refine ⟨fun ht => ?_, fun n ht hn => ?_, fun ht h1 => ?_⟩
    · exact (exec_contentionSlotEnd _ hl hm hd h40).trans (next_at_rest hr (endContentionSlot_tone ht) rfl rfl rfl rfl)
    · exact (exec_contentionSlotEnd _ hl hm hd h40).trans
        (next_at_rest hr ((endContentionSlot_quiet ht hn).trans (if_neg (by omega))) rfl rfl rfl rfl)
    · have hlast : exec (.contentionSlotEnd false) s = .next (settle s.txCharge (transmit (answer { s.mac with backoff := some 0 }))) :=
        (exec_contentionSlotEnd _ hl hm hd h40).trans (congrArg (fun t => Host.Outcome.next (settle s.txCharge t))
          ((endContentionSlot_quiet ht h1).trans ((if_pos (by decide)).trans (if_neg Bool.false_ne_true))))
      refine ⟨?_, hlast, ?_, ?_⟩
      · exact (exec_contentionSlotEnd _ hl hm hd h40).trans
          (next_at_rest hr ((endContentionSlot_quiet ht h1).trans ((if_pos (by decide)).trans (if_pos rfl))) rfl rfl rfl rfl)
      · intro p hp hmem hcool h f sent
        refine hlast.trans (next_at_rest hr ?_ rfl rfl rfl rfl)
        exact transmit_sound (s := answer { s.mac with backoff := some 0 }) hp rfl hmem (airtimeFits_cool hcool 960)
      · intro x p hp hmem watch
        refine hlast.trans (next_at_rest hr ?_ rfl rfl rfl rfl)
        exact transmit_gone (s := answer { s.mac with backoff := some 0 }) hp rfl hmem
  · intro s prio allowance watch gone waitsAt waits sent header frame heard bands noteSymbols all old gathered candidate
    have hsymbols : s.noteSymbols = noteSymbols := noteSymbols_eq s
    have hgathered : gatherNote s = gathered := by rw [gatherNote_eq, heardEntries_eq]
    have hwaits : (gatherNote s).unfit = waitsAt gathered := by rw [gathered_unfit, hgathered]
    refine ⟨?_, ?_, ?_, ?_, ?_, ?_, ?_, ?_⟩
    · exact fun p hp hl hr => transmit_unfit hp.1 rfl hp.2 (airtimeFits_short hl hr)
    · exact fun i tag k hp hl hr => transmit_unfit hp.1 rfl hp.2 (airtimeFits_short hl hr)
    · intro hp hl hr
      refine (transmit_unfit hp.1 rfl hp.2 ?_).trans hwaits
      refine (gathered_airtime s _).trans (airtimeFits_short hl ?_)
      show s.remaining < (gatherNote s).controlAirtime .note
      rw [gathered_controlAirtime, hsymbols]
      exact hr
    · intro p hp hr f
      exact transmit_formed hp.1 rfl hp.2 (airtimeFits_of hr) rfl rfl
    · intro i tag k e g hp hr he hg part parts
      exact transmit_grid hp.1 hp.2 (airtimeFits_of hr) he hg
    · intro hp hr note
      rw [← hsymbols] at hr
      refine (transmit_note hp.1 hp.2 (airtimeFits_of hr)).trans ?_
      rw [hgathered, robust_fill, hsymbols, ← hgathered, gatherNote_contents, heardEntries_eq]
      rfl
    · intro n source hc
      have htransmit : transmit s = transmitData n source prio s := by
        rcases hc with ⟨hc, hp, rfl⟩ | ⟨q, m, f, rest, hc, hq, hn, rfl⟩
        · exact transmit_resends hc hp
        · exact transmit_head hc hq hn
      rw [htransmit]
      refine ⟨transmitData_gone, fun len hf hl hr => transmitData_waits hf (symbolLimit_none hl hr), fun len limit hf hl => ?_⟩
      have hlimit : s.symbolLimit = some limit := symbolLimit_of hl
      refine ⟨transmitData_none hf hlimit, fun f t hcomposed => (transmitData_sent hf hlimit hcomposed).trans ?_⟩
      exact handedOver_eq (data_duration (composeData_kind hcomposed))
    · exact fun q m hc hq => transmit_empty hc hq
  · intro s n e he marked
    exact ⟨fun x rest source hm => firstOffered_marked he hm, firstOffered_resends he, fun q hm hq => firstOffered_empty he hm hq,
      fun q f rest hm hq => firstOffered_head he hm hq⟩
  · exact fun t q => ⟨fun h => windowRoom_empty h q, fun x rest h => windowRoom_iff h q⟩
  · intro l cap taken bits offered htaken hbits
    exact takeSegments_spec l cap offered taken bits htaken hbits
  · intro l cap q n t s e f rest fuel he hq pieces more joined numbered
    refine ⟨takeHeads_passed he hq, fun hn hw => ?_⟩
    have hoffered := takeHeads_offered (l := l) (cap := cap) (fuel := fuel) (k := t) he hq hn hw
    refine ⟨fun hnone => hoffered.trans (if_pos (List.isEmpty_iff.2 hnone)), fun hsome hstop => ?_, fun hsome hstop => ?_⟩
    · exact hoffered.trans ((if_neg fun h => hsome (List.isEmpty_iff.1 h)).trans (if_pos (Option.isSome_iff_ne_none.2 hstop)))
    · exact hoffered.trans ((if_neg fun h => hsome (List.isEmpty_iff.1 h)).trans (if_neg fun h => Option.isSome_iff_ne_none.1 h hstop))
  · intro s n source prio limit len e he l fromMarked offered taken
    have hoffered : takeOffered l (l.capacity limit) n source e.tx.marked s = offered := by
      cases source with
      | none => rfl
      | some q => exact takeOffered_some _ _ _ _ _ _
    refine ⟨fun hnone => composeData_none he hoffered hnone, ?_⟩
    intro e' hsome he' seqs tx shortened
    obtain ⟨f, t, hf, ht, hstart, hstop, hcontrol, hsymbols, hloading, hpayload, hheader⟩ := composeData_some he hoffered rfl hsome he'
    obtain ⟨u, hu, hcounted⟩ := composeData_counters he rfl hoffered hf
    have hcount := countComposition_counts s n s.lineTime l (l.capacity limit) offered.1 u
    have hsame : ∀ c, u.count c = s.count c := fun c => congrArg (fun v : Vector (BitVec 32) _ => v[c.index]) hu
    rw [← hcounted] at hcount
    simp only [hsame] at hcount
    exact ⟨f, t, hf, ht, hstart, hstop, hcontrol, hsymbols, hloading, hpayload, hheader, hcount⟩
  · exact fun l n => ⟨isFloor_iff l, rfl⟩

end Sys2Proof.Machine
end
